-- ==== Sys2Proof/Word.lean ====
section
/-!
DEFINITION. The word types of the model: bytes, the words of messages and registers, sparse arrays, and the names of the units
(R13, Table 1-1).
-/
namespace Sys2Proof

abbrev Byte := BitVec 8
abbrev Half := BitVec 16
abbrev Word := BitVec 32
abbrev Dword := BitVec 64
/-- A 128-bit command of a core sequencer (R210). -/
abbrev CmdWord := BitVec 128
/-- A physical address (R29). -/
abbrev PhysAddr := BitVec 42
/-- A virtual address of a job (R200). -/
abbrev VirtAddr := BitVec 48
/-- A sparse array of `w`-bit words: (index, word) pairs, indices rising, no word equal to 0; an unlisted index reads 0. -/
abbrev Cells (w : Nat) := List (Nat × BitVec w)

abbrev CoreId := Fin 32
abbrev ClusterId := Fin 8
abbrev SlotId := Fin 144
abbrev CarrierId := Fin 4
abbrev DspId := Fin 16

end Sys2Proof
end

