-- ==== Sys2Proof/Syntax.lean ====
section
/-!
DEFINITION. The commands of the block: one constructor of `Instr` per row of spec/opcode_table.json, with its operands.
What comes from outside or is the firmware's choice (a received sample, a sensor reading, the free core that the firmware picks, what the
boot ROM finds) is an operand (log 7).
-/
namespace Sys2Proof

/-- The Pleskabel ports and the guy line (R392). -/
inductive Port where
  | host | guy | eth0 | eth1
deriving DecidableEq, Repr

/-- A received datagram, after the UDP layer (`ipv4`: it came over IPv4): the header of Table 16-1 field by field, its tag as a big-endian number, and
the payload in clear: of a protected frame what counter mode deciphers under the session's key (R396, log 112). -/
structure Frame where
  port    : Port
  vflags  : Byte
  mailbox : Byte
  typ     : Half
  session : Half
  length  : Half
  seq     : Word
  token   : Half
  status  : Half
  payload : List Byte
  udpLen  : Nat
  ipv4    : Bool
  tag     : BitVec 128
deriving DecidableEq, Repr

/-- The memories of Table 19-4. -/
inductive MemKind where
  | aBuffer | bFifo | accumulator | core | die | ddr | hubCode | hubRadio
deriving DecidableEq, Repr

/-- What an uncorrectable error hits: no carrier's data, a block of a carrier's uplink or downlink slot (R246, R288), or record `k` of a
carrier's capture ring (R364), which its training job may have read. -/
inductive EccData where
  | other
  | ulBlock (car : CarrierId) (slot : Word) (pdu : Half)
  | dlPdu (car : CarrierId) (slot : Word) (pdu : Half)
  | capture (car : CarrierId) (heldOut : Bool) (k : Nat) (byJob : Bool)
deriving DecidableEq, Repr

/-- Where an uncorrectable error is found (Table 19-4): an engine's working memories, a fly store that no replay needs, or an addressed
memory. -/
inductive EccAt where
  | engine (mem : MemKind) (c : CoreId) (le : Fin 4) (upper : Bool)
  | fly (slot : SlotId)
  | memory (mem : MemKind) (addr : PhysAddr) (data : EccData)
deriving DecidableEq, Repr

/-- A job as the packages that run it name it: the node of its lead and its identifier there (R425). -/
structure JobRef where
  node : BitVec 3
  id   : Word
deriving DecidableEq, Repr

/-- What a lead tells a job package of a job (R425, R426): the nodes of the job packages, the rank table as entry, footprint and affinity, and
the flags of the submission. -/
structure JobAsk where
  nodes         : List Nat
  ranks         : List (Nat × Nat × Byte)
  deterministic : Bool
  seed          : Dword
  faultLimit    : Word
deriving DecidableEq, Repr

/-- What the message that a trail flit completes asks of this package (R192, R423, R425 to R429; the spec gives such messages no layout): an
end-to-end acknowledgement, a stake bump, bytes for a job's space, the lead's request for placement as job package `ix`, that a package
has placed its ranks, that they start, that they have all ended, that the job is over on every package, or anything else. -/
inductive TrailBody where
  | other
  | ack (num : Nat)
  | bump (job : JobRef) (rank : Nat) (stake : BitVec 4) (add : Word)
  | bytes (job : JobRef) (va : VirtAddr) (data : List Byte)
  | ask (job : JobRef) (ix : Nat) (what : JobAsk)
  | ready (job : JobRef) (ix : Nat)
  | start (job : JobRef)
  | finished (job : JobRef) (ix : Nat)
  | over (job : JobRef) (status : Half)
deriving DecidableEq, Repr

/-- The regions of Table 19-5. -/
inductive ScrubRegion where
  | coreMem | slotState | saveArea | dieMem | ddrFrames
deriving DecidableEq, Repr

/-- The wake events of R453. -/
inductive WakeCause where
  | wakeN | alarm | link
deriving DecidableEq, Repr

/-- What the boot ROM finds at a cold boot (R507, R508, R510): whether each bank's images pass R492 and R493, whether each
compute die authenticates (R488), whether DDR5 trains, whether the flash areas and the retained image pass their checks, and whether
each bank's boot reaches Standby within 2 s of hub reset release. -/
structure BootFinding where
  bankAOk  : Bool
  bankBOk  : Bool
  slowA    : Bool
  slowB    : Bool
  die0Ok   : Bool
  die1Ok   : Bool
  ddr0Ok   : Bool
  ddr1Ok   : Bool
  ownerOk  : Bool
  repairOk : Bool
  digestOk : Bool
  romDigest : BitVec 384
  fsDigest : BitVec 384
  fwDigest : BitVec 384
  cert0    : BitVec 384
  cert1    : BitVec 384
  owner    : BitVec 384
deriving DecidableEq, Repr

/-- The registers that a REGISTER_WRITE row reaches: every RW register of the spec that has no row of its own. -/
inductive RegId where
  | dmPtroot (c : CoreId)
  | dfFirCtl (i : Fin 8)
  | dfFirCoef (i : BitVec 16)
  | dfCfr (c : CarrierId)
  | dfDpd (p : Fin 64)
  | dfRamp (c : CarrierId)
  | dfRampTab (i : Fin 128)
  | dfMaskBand (i : Fin 16)
  | dfAgc (c : CarrierId)
  | dfCal (c : CarrierId)
  | jsCfg
  | tuCtl
  | tuRate
  | pmCtl
deriving DecidableEq, Repr

inductive Instr where
  -- core sequencer commands (R217)
  | seqNop (c : CoreId) (w : CmdWord)
  | seqSeti (c : CoreId) (w : CmdWord)
  | seqAlu (c : CoreId) (w : CmdWord)
  | seqLd (c : CoreId) (w : CmdWord)
  | seqSt (c : CoreId) (w : CmdWord)
  | seqLoop (c : CoreId) (w : CmdWord)
  | seqSkip (c : CoreId) (w : CmdWord)
  | seqBarrier (c : CoreId) (w : CmdWord)
  | seqTime (c : CoreId) (w : CmdWord)
  | seqEntropy (c : CoreId) (w : CmdWord)
  | seqQpop (c : CoreId) (w : CmdWord)
  | seqEnd (c : CoreId) (w : CmdWord)
  -- engine commands (R60 to R66)
  | engLoada (c : CoreId) (w : CmdWord)
  | engStreamb (c : CoreId) (w : CmdWord)
  | engTile (c : CoreId) (w : CmdWord)
  | engCopyout (c : CoreId) (w : CmdWord)
  | engSplit (c : CoreId) (w : CmdWord)
  | engSave (c : CoreId) (w : CmdWord)
  | engRestore (c : CoreId) (w : CmdWord)
  | engFlags (c : CoreId) (w : CmdWord)
  | engScales (c : CoreId) (w : CmdWord)
  -- vector commands (R134)
  | vecChain (c : CoreId) (w : CmdWord)
  | vecStream (c : CoreId) (w : CmdWord)
  | vecFlags (c : CoreId) (w : CmdWord)
  -- DMA commands (R194)
  | dmaArm (c : CoreId) (w : CmdWord)
  | dmaAppend (c : CoreId) (w : CmdWord)
  | dmaWait (c : CoreId) (w : CmdWord)
  | dmaStake (c : CoreId) (w : CmdWord)
  | dmaChstat (c : CoreId) (w : CmdWord)
  -- completions and compute events
  | engineCommandComplete (c : CoreId) (le : Fin 4) (upper : Bool) (corr : Half)
  | tileAbort (c : CoreId) (le : Fin 4) (upper : Bool)
  | vectorTileComplete (c : CoreId)
  | descriptorComplete (c : CoreId) (ch : Fin 8)
  | pageFault (c : CoreId) (ch : Fin 8)
  | faultResolution (job : Word) (va : VirtAddr) (ptes : List (PhysAddr × Dword))
  | pageUnresolved (job : Word)
  | jobPlace (cores : List CoreId) (root : PhysAddr) (ptes : List (PhysAddr × Dword)) (images : List (List Byte))
  | preemptionPoint (c : CoreId)
  | saveComplete (c : CoreId) (area : PhysAddr)
  | resume (job : Word) (rank : Fin 32) (c : CoreId)
  | strike (job : Word) (status : Half)
  | scrubComplete (job : Word) (region : ScrubRegion)
  | engineFault (c : CoreId) (le : Fin 4) (upper : Bool) (fly : Option EccData)
  | lagWindow (slot : SlotId) (busy freeze : Word)
  | uncorrectableError (site : EccAt)
  | patrolScrub (die : Fin 2) (corrected : List PhysAddr)
  | clSparemap (k : ClusterId) (companion : Bool) (v : Dword)
  -- uplink, downlink and front-end events
  | slotBoundary (car : CarrierId)
  | ulSchedLate (car : CarrierId) (slot : Word)
  | dlSchedLate (car : CarrierId) (slot : Word)
  | tbLate (car : CarrierId) (slot : Word) (pdu : Half)
  | slotDeadline (car : CarrierId) (slot : Word)
  | arbitration (car : CarrierId) (slot : Word) (pdu : Half) (learned classical : Bool)
  | pucchDecode (car : CarrierId) (slot : Word) (pdu : Half)
  | prachDetect (car : CarrierId) (slot : Word) (pdu : Half) (samples : List (List (Int × Int)))
  | srsEstimate (car : CarrierId) (slot : Word) (pdu : Half)
  | dfeRxSymbol (car : CarrierId) (sym : Fin 14) (samples : List (List (Int × Int)))
  | dfeTxSymbol (car : CarrierId) (sym : Fin 14) (ready : Bool)
  | agcDecision (car : CarrierId) (path : Fin 64)
  | gainStep (car : CarrierId) (path : Fin 64)
  | maskMonitor (car : CarrierId) (path : Fin 64) (dpdTap obsTap : List (Int × Int))
  | muteClear (path : Fin 64)
  | dpdAdapt (path : Fin 64) (obs : List (Int × Int))
  | sysrefEdge (off : Word)
  | laneLockLoss (lane : Fin 18)
  | laneRelock (lane : Fin 18)
  | uplaneRx (car : CarrierId) (path : Fin 64) (sym : Fin 14) (at_ns : Int) (prbs : List (BitVec 4 × List Int))
  | uplaneTx (car : CarrierId) (sym : Fin 14) (ready : Bool)
  | calBurst (car : CarrierId) (sym : Fin 14) (caps : List (List (Int × Int)))
  | calResult (car : CarrierId)
  | captureRecord (car : CarrierId) (slot : Word) (pdu : Half) (tile : Nat)
  | captureDrop (car : CarrierId) (slot : Word) (pdu : Half)
  | trainSubmit (car : CarrierId)
  | trainSuspend (car : CarrierId)
  | candidateValidation (car : CarrierId)
  -- timing unit
  | alarmFire (n : Fin 16)
  | tuAlarmLo (n : Fin 16) (v : Word)
  | tuAlarmHi (n : Fin 16) (v : Word)
  | ppsOut
  | sync (port : Fin 2) (master : Dword) (origin correction ingress : Int)
  | announce (port : Fin 2) (best : Dword)
  | delayResp (port : Fin 2) (master : Dword) (t1 t2 t3 t4 correction : Int)
  | masterLoss
  | transparentClock (fromPort : Fin 2) (ptpVersion msgType : BitVec 4) (correction : BitVec 64) (tIn tOut : BitVec 64)
  | esmc (port : Fin 2) (ql : Byte)
  | synceLock (locked : Bool)
  -- links, sessions and messages
  | linkUp (p : Fin 2)
  | linkDown (p : Fin 2)
  | devHello (p : Fin 2)
  | sessionTimeout (sid : Half)
  | confirmTimeout (sid : Half)
  | devIdentify (f : Frame)
  | devPing (f : Frame)
  | netConfigure (f : Frame)
  | mboxSubscribe (f : Frame)
  | devReset (f : Frame)
  | powerSet (f : Frame)
  | powerStatus (f : Frame)
  | bulkAlloc (f : Frame) (base : Option PhysAddr)
  | bulkPut (f : Frame)
  | bulkCommit (f : Frame)
  | bulkGet (f : Frame)
  | bulkFree (f : Frame)
  | devCerts (f : Frame) (der : List Byte)
  | sessionOpen (f : Frame) (sid : Half)
  | sessionConfirm (f : Frame)
  | sessionClose (f : Frame)
  | attestQuote (f : Frame)
  | fwUpdate (f : Frame)
  | keyOwner (f : Frame)
  | jobSubmit (f : Frame) (formatOk : Bool) (pkgCount : Byte)
  | jobSuspend (f : Frame)
  | jobResume (f : Frame)
  | jobKill (f : Frame)
  | jobStatus (f : Frame)
  | cellConfigure (f : Frame)
  | cellRemove (f : Frame)
  | cellWeights (f : Frame)
  | cellReceiver (f : Frame)
  | cellStatus (f : Frame)
  | dfeConfig (f : Frame)
  | dfeRead (f : Frame)
  | registerWrite (r : RegId) (v : Dword)
  | modelLoad (f : Frame)
  | modelSwap (f : Frame)
  | modelPolicy (f : Frame)
  | dspLoad (f : Frame)
  | dspStart (f : Frame)
  | dspStop (f : Frame)
  | dspUnload (f : Frame)
  | dspRead (f : Frame)
  | ulSched (f : Frame)
  | dlSched (f : Frame)
  | dlTb (f : Frame)
  | timeConfigure (f : Frame)
  | timeStatus (f : Frame)
  | timeAlarm (f : Frame)
  -- twin and trail
  | twinPair (f : Frame)
  | twinPairTimeout
  | twinHeartbeat
  | twinStatus (f : Frame)
  | peerMiss
  | takeoverBoundary
  | twinSwitch (f : Frame)
  | plannedSwitch
  | checkpointApply (car : CarrierId) (record : List Byte)
  | healthRead (f : Frame)
  | trailFlit (port : Fin 4) (flit : List Byte) (num : Nat) (body : TrailBody)
  | trailPortDown (port : Fin 4) (links : List (BitVec 3 × BitVec 3))
  | trailPortUp (port : Fin 4) (nbrNode : BitVec 3) (nbrPort : BitVec 2) (links : List (BitVec 3 × BitVec 3))
  -- power, Lantern, boot
  | capEvaluation (avgMw peakMw : Word)
  | dividerSwitch (step : BitVec 2)
  | thermalLimit (tj : Half)
  | thermtrip
  | clusterGate (k : ClusterId)
  | clusterReady (k : ClusterId)
  | engineSlotStart (k : ClusterId)
  | wakeEvent (cause : WakeCause)
  | backupSwitch (bkpOk : Bool)
  | mainReturn (bkpOk : Bool)
  | lanternReset
  | pwrEnRise (mainOk bkpOk : Bool)
  | pwrGoodRise (straps : Half) (b : BootFinding)
  | pwrGoodFall
  | bootWatchdog
  -- radio DSP cores
  | interruptEntry (d : DspId) (cause : Fin 3)
  | dspFault (d : DspId) (slotA slotB : Word)
  | watchdog (d : DspId)
  | dspDmaComplete (d : DspId) (ch : Fin 4)
  | dsCtl (d : DspId) (v : Word)
  | dspNop (d : DspId) (w other : Word)
  | dspLd (d : DspId) (w other : Word)
  | dspSt (d : DspId) (w other : Word)
  | dspAmov (d : DspId) (w other : Word)
  | dspLoop (d : DspId) (w other : Word)
  | dspBr (d : DspId) (w other : Word)
  | dspCall (d : DspId) (w other : Word)
  | dspRet (d : DspId) (w other : Word)
  | dspRti (d : DspId) (w other : Word)
  | dspDma (d : DspId) (w other : Word)
  | dspWait (d : DspId) (w other : Word)
  | dspSig (d : DspId) (w other : Word)
  | dspAdd (d : DspId) (w other : Word)
  | dspSub (d : DspId) (w other : Word)
  | dspAnd (d : DspId) (w other : Word)
  | dspOr (d : DspId) (w other : Word)
  | dspXor (d : DspId) (w other : Word)
  | dspShl (d : DspId) (w other : Word)
  | dspShr (d : DspId) (w other : Word)
  | dspSra (d : DspId) (w other : Word)
  | dspMin (d : DspId) (w other : Word)
  | dspMax (d : DspId) (w other : Word)
  | dspCmp (d : DspId) (w other : Word)
  | dspPf (d : DspId) (w other : Word)
  | dspAddi (d : DspId) (w other : Word)
  | dspMovi (d : DspId) (w other : Word)
  | dspCmac (d : DspId) (w other : Word)
  | dspRmac2 (d : DspId) (w other : Word)
  | dspAccrd (d : DspId) (w other : Word)
  | dspAccwr (d : DspId) (w other : Word)
  | dspMovc (d : DspId) (w other : Word)
  -- rows at the table's end
  | uplaneRxWindowEnd (car : CarrierId) (sym : Fin 14)
  | bankHeaderWritten
  | bootStatToggle
  | lanternPowerLoss
  | modelLoadComplete (car : CarrierId)
deriving DecidableEq, Repr

end Sys2Proof
end

