-- ==== Sys2Proof/Decode.lean ====
section
/-!
DEFINITION. Words of the command list: the table gives no row any bits, so no word spells a command. The command words of core
sequencers and DSP cores are operands of their rows; Machine/Operands.lean and Machine/Dsp.lean read their fields.
-/
namespace Sys2Proof

/-- The command that a word spells by the table's bits: none, since the table gives bits to no row. -/
def decodeTableWord (_nbits _w : Nat) : Option Instr := none

end Sys2Proof
end

