-- ==== Sys2Proof/Machine/Num.lean ====
section
/-!
DEFINITION. Exact values of the float and integer formats, the single rounding of R75, conversions (R74 to R81) and FP32
arithmetic (RNE32 of 02, R113). An exact value is a special value or (-1)^neg × mag × 2^exp.
-/
namespace Sys2Proof.Machine

/-- An exact value: NaN, an infinity, or a finite dyadic number that keeps the sign of zero (R70). -/
inductive FV where
  | nan
  | inf (neg : Bool)
  | fin (neg : Bool) (mag : Nat) (exp : Int)
deriving DecidableEq, Repr

/-- Layout of a float format (Table 3-2). `lmin` is the exponent of its smallest subnormal; `special`: 2 IEEE inf and NaN,
1 the one NaN code of E4M3, 0 none. `maxCode` is the magnitude code of the largest finite value, `nanCode` the canonical NaN
(R79). -/
structure FloatFmt where
  ebits   : Nat
  mbits   : Nat
  lmin    : Int
  special : Nat
  maxCode : Nat
  nanCode : Nat
deriving DecidableEq, Repr

def fp4F : FloatFmt := { ebits := 2, mbits := 1, lmin := -1, special := 0, maxCode := 0x7, nanCode := 0 }
def e4m3F : FloatFmt := { ebits := 4, mbits := 3, lmin := -9, special := 1, maxCode := 0x7E, nanCode := 0x7F }
def e5m2F : FloatFmt := { ebits := 5, mbits := 2, lmin := -16, special := 2, maxCode := 0x7B, nanCode := 0x7F }
def bf16F : FloatFmt := { ebits := 8, mbits := 7, lmin := -133, special := 2, maxCode := 0x7F7F, nanCode := 0x7FC0 }
def fp16F : FloatFmt := { ebits := 5, mbits := 10, lmin := -24, special := 2, maxCode := 0x7BFF, nanCode := 0x7E00 }
def fp32F : FloatFmt := { ebits := 8, mbits := 23, lmin := -149, special := 2, maxCode := 0x7F7FFFFF, nanCode := 0x7FC00000 }
/-- UE4M3, the group-scale code (R73): no sign bit; code 0x7F is NaN. -/
def ue4m3F : FloatFmt := e4m3F

/-- The value of a magnitude code under a sign (the text above R70). -/
def decodeMag (f : FloatFmt) (neg : Bool) (code : Nat) : FV :=
  let e := code / 2 ^ f.mbits
  let m := code % 2 ^ f.mbits
  if f.special = 2 ∧ e = 2 ^ f.ebits - 1 then (if m = 0 then .inf neg else .nan)
  else if f.special = 1 ∧ code = 0x7F then .nan
  else if e = 0 then .fin neg m f.lmin
  else .fin neg (2 ^ f.mbits + m) (f.lmin + (e : Int) - 1)

/-- The value of a float code (R70). -/
def decodeFloat (f : FloatFmt) (code : Nat) : FV :=
  let w := f.ebits + f.mbits
  decodeMag f (code / 2 ^ w % 2 = 1) (code % 2 ^ w)

/-- A magnitude mag × 2^exp as a fraction. -/
def ratOf (mag : Nat) (exp : Int) : Nat × Nat :=
  if 0 ≤ exp then (mag * 2 ^ exp.toNat, 1) else (mag, 2 ^ (-exp).toNat)

/-- The greatest e with 2^e ≤ num / den, for num and den above 0. -/
def floorLog2 (num den : Nat) : Int :=
  let e : Int := (num.log2 : Int) - (den.log2 : Int)
  let below := if 0 ≤ e then num < den * 2 ^ e.toNat else num * 2 ^ (-e).toNat < den
  if below then e - 1 else e

/-- num / den in units of 2^l, as a fraction. -/
def inUnits (num den : Nat) (l : Int) : Nat × Nat :=
  if 0 ≤ l then (num, den * 2 ^ l.toNat) else (num * 2 ^ (-l).toNat, den)

/-- Round to nearest, ties to even, of a / b (R75). -/
def rneDiv (a b : Nat) : Nat :=
  let q := a / b
  let r := a % b
  if 2 * r < b then q else if b < 2 * r then q + 1 else q + q % 2

/-- Exponent of the grid spacing at num / den: the format's precision, its exponent range unbounded above, subnormal spacing
below (R75). -/
def gridExp (f : FloatFmt) (num den : Nat) : Int :=
  if num = 0 then f.lmin else max (floorLog2 num den - (f.mbits : Int)) f.lmin

/-- The magnitude code of q × 2^l on the grid of a format. -/
def magCode (f : FloatFmt) (q : Nat) (l : Int) : Nat := q + (l - f.lmin).toNat * 2 ^ f.mbits

/-- The code of a float with its sign. -/
def signed (f : FloatFmt) (neg : Bool) (mag : Nat) : Nat :=
  (if neg then 2 ^ (f.ebits + f.mbits) else 0) + mag

/-- RNE32 of a positive or zero fraction with a sign: overflow becomes an infinity (02, Cell arithmetic). -/
def rne32Frac (neg : Bool) (num den : Nat) : Word :=
  let l := gridExp fp32F num den
  let (a, b) := inUnits num den l
  let m := magCode fp32F (rneDiv a b) l
  BitVec.ofNat 32 (signed fp32F neg (if fp32F.maxCode < m then 0x7F800000 else m))

/-- RNE32 of an exact value; NaN becomes canonical (R79). -/
def rne32 : FV → Word
  | .nan => 0x7FC00000#32
  | .inf neg => if neg then 0xFF800000#32 else 0x7F800000#32
  | .fin neg mag exp => let (n, d) := ratOf mag exp; rne32Frac neg n d

def f32 (w : Word) : FV := decodeFloat fp32F w.toNat

def FV.isNan : FV → Bool
  | .nan => true
  | _ => false

def FV.isFin : FV → Bool
  | .fin .. => true
  | _ => false

def FV.isZero : FV → Bool
  | .fin _ m _ => m = 0
  | _ => false

def FV.neg : FV → FV
  | .nan => .nan
  | .inf s => .inf (!s)
  | .fin s m e => .fin (!s) m e

def FV.abs : FV → FV
  | .nan => .nan
  | .inf _ => .inf false
  | .fin _ m e => .fin false m e

/-- The integer value of a finite part in units of 2^e0, where e0 is at most its exponent. -/
def FV.intAt (neg : Bool) (m : Nat) (e e0 : Int) : Int :=
  let v : Int := (m * 2 ^ (e - e0).toNat : Nat)
  if neg then -v else v

/-- Exact sum; an exact zero is +0 unless both terms are -0 (IEEE 754, round to nearest). -/
def FV.add : FV → FV → FV
  | .nan, _ => .nan
  | _, .nan => .nan
  | .inf a, .inf b => if a = b then .inf a else .nan
  | .inf a, .fin .. => .inf a
  | .fin .., .inf b => .inf b
  | .fin sa ma ea, .fin sb mb eb =>
    let e := min ea eb
    let v := FV.intAt sa ma ea e + FV.intAt sb mb eb e
    if v = 0 then .fin (sa && sb && ma = 0 && mb = 0) 0 e
    else .fin (v < 0) v.natAbs e

def FV.sub (a b : FV) : FV := a.add b.neg

/-- Exact product. -/
def FV.mul : FV → FV → FV
  | .nan, _ => .nan
  | _, .nan => .nan
  | .inf a, .inf b => .inf (a != b)
  | .inf a, .fin b m _ => if m = 0 then .nan else .inf (a != b)
  | .fin a m _, .inf b => if m = 0 then .nan else .inf (a != b)
  | .fin sa ma ea, .fin sb mb eb => .fin (sa != sb) (ma * mb) (ea + eb)

/-- a < b for values that are not NaN; +0 and -0 compare equal (R70). -/
def FV.lt : FV → FV → Bool
  | .nan, _ => false
  | _, .nan => false
  | .inf a, .inf b => a && !b
  | .inf a, .fin .. => a
  | .fin .., .inf b => !b
  | .fin sa ma ea, .fin sb mb eb =>
    let e := min ea eb
    FV.intAt sa ma ea e < FV.intAt sb mb eb e

def FV.ofInt (v : Int) : FV := .fin (v < 0) v.natAbs 0

def FV.signBit : FV → Bool
  | .nan => false
  | .inf s => s
  | .fin s _ _ => s

/-- Minimum and maximum of MINMAX and CLAMP: NaN when any input is NaN; min(-0, +0) = -0, max(-0, +0) = +0 (R113). -/
def FV.min (a b : FV) : FV :=
  if a.isNan || b.isNan then .nan
  else if a.isZero && b.isZero then (if a.signBit then a else b)
  else if b.lt a then b else a

def FV.max (a b : FV) : FV :=
  if a.isNan || b.isNan then .nan
  else if a.isZero && b.isZero then (if a.signBit then b else a)
  else if a.lt b then b else a

/-! FP32 operations: one rounding of the exact result (R113). -/
def fadd (a b : Word) : Word := rne32 ((f32 a).add (f32 b))
def fsub (a b : Word) : Word := rne32 ((f32 a).sub (f32 b))
def fmul (a b : Word) : Word := rne32 ((f32 a).mul (f32 b))
def ffma (a b c : Word) : Word := rne32 (((f32 a).mul (f32 b)).add (f32 c))
def fmin (a b : Word) : Word := rne32 ((f32 a).min (f32 b))
def fmax (a b : Word) : Word := rne32 ((f32 a).max (f32 b))
def fneg (a : Word) : Word := rne32 (f32 a).neg
def fabs (a : Word) : Word := rne32 (f32 a).abs
def flt (a b : Word) : Bool := (f32 a).lt (f32 b)
def fIsNan (a : Word) : Bool := (f32 a).isNan
def fIsFin (a : Word) : Bool := (f32 a).isFin

/-- RNE32 of the quotient of two exact values, with the special cases of IEEE 754. -/
def fvDiv32 : FV → FV → Word
  | .nan, _ => 0x7FC00000#32
  | _, .nan => 0x7FC00000#32
  | .inf _, .inf _ => 0x7FC00000#32
  | .inf a, .fin b _ _ => rne32 (.inf (a != b))
  | .fin a _ _, .inf b => rne32 (.fin (a != b) 0 0)
  | .fin sa ma ea, .fin sb mb eb =>
    if mb = 0 then (if ma = 0 then 0x7FC00000#32 else rne32 (.inf (sa != sb)))
    else
      let (na, da) := ratOf ma ea
      let (nb, db) := ratOf mb eb
      rne32Frac (sa != sb) (na * db) (da * nb)

def fdiv (a b : Word) : Word := fvDiv32 (f32 a) (f32 b)

/-- Clamp an integer to the INT32 range; the flag is set when it clamps (R44). -/
def clamp32 (v : Int) : Word × Bool :=
  if v < -0x80000000 then (0x80000000#32, true)
  else if 0x7FFFFFFF < v then (0x7FFFFFFF#32, true)
  else (BitVec.ofInt 32 v, false)

/-- Round an exact finite value to the nearest integer, ties to even. -/
def rneInt (neg : Bool) (mag : Nat) (exp : Int) : Int :=
  let (n, d) := ratOf mag exp
  let q : Int := (rneDiv n d : Nat)
  if neg then -q else q

/-- A conversion's code and the conditions it meets (Table 3-6). -/
structure Conv where
  code : Nat
  sat  : Bool := false
  inf  : Bool := false
  nan  : Bool := false
deriving DecidableEq, Repr

/-- How a conversion rounds: to nearest even, or stochastically with the 16-bit draw r (R75, R81); with E5M2 overflow to
infinity or not (R77). -/
structure ConvMode where
  draw   : Option Nat := none
  ovfInf : Bool := false
deriving DecidableEq, Repr

/-- The grid point chosen for a nonzero magnitude a / b counted in grid units. -/
def roundUnits (mode : ConvMode) (a b : Nat) : Nat :=
  match mode.draw with
  | none => rneDiv a b
  | some r => a / b + (if 65536 ≤ 65536 * (a % b) / b + r then 1 else 0)

/-- Conversion to a float format (R75 to R78, R81). -/
def convFloat (f : FloatFmt) (isE5m2 : Bool) (mode : ConvMode) (x : FV) : Conv :=
  match x with
  | .nan => { code := f.nanCode, nan := true }
  | .inf neg =>
    if f.special = 2 then { code := signed f neg ((2 ^ f.ebits - 1) * 2 ^ f.mbits) }
    else { code := signed f neg f.maxCode, sat := true }
  | .fin neg mag exp =>
    let (n, d) := ratOf mag exp
    let l := gridExp f n d
    let (a, b) := inUnits n d l
    let m := magCode f (roundUnits mode a b) l
    if m ≤ f.maxCode then { code := signed f neg m }
    else if isE5m2 && mode.ovfInf then { code := signed f neg 0x7C, inf := true }
    else { code := signed f neg f.maxCode, sat := true }

/-- Conversion to an integer of the range lo to hi, as its two's-complement code of `w` bits (R75, R76, R78). -/
def convInt (w : Nat) (lo hi : Int) (mode : ConvMode) (x : FV) : Conv :=
  let out (v : Int) : Nat := (BitVec.ofInt w v).toNat
  match x with
  | .nan => { code := 0, nan := true }
  | .inf neg => { code := out (if neg then lo else hi), sat := true }
  | .fin neg mag exp =>
    let (n, d) := ratOf mag exp
    let q : Int := (roundUnits mode n d : Nat)
    let v := if neg then -q else q
    if v < lo then { code := out lo, sat := true }
    else if hi < v then { code := out hi, sat := true }
    else { code := out v }

/-- Element width in bits of a format code (Table 3-1). -/
def fmtBits (fmt : Nat) : Nat :=
  match fmt with
  | 0 => 4 | 1 => 8 | 2 => 8 | 3 => 4 | 4 => 8 | 5 => 8 | 6 => 16 | 7 => 16 | 8 => 32 | 9 => 16 | 10 => 32 | 11 => 16
  | _ => 0

def fmtComplex (fmt : Nat) : Bool := fmt = 9 || fmt = 10 || fmt = 11
def fmtInteger (fmt : Nat) : Bool := fmt = 0 || fmt = 1 || fmt = 2 || fmtComplex fmt

/-- Conversion of one real lane to a real format code 0x0 to 0x8 (R74). Stochastic rounding acts on codes 0x0 to 0x7 only (R81). -/
def convReal (fmt : Nat) (mode : ConvMode) (x : FV) : Conv :=
  match fmt with
  | 0 => convInt 4 (-8) 7 mode x
  | 1 => convInt 8 (-128) 127 mode x
  | 2 => convInt 8 0 255 mode x
  | 3 => convFloat fp4F false mode x
  | 4 => convFloat e4m3F false mode x
  | 5 => convFloat e5m2F true mode x
  | 6 => convFloat bf16F false mode x
  | 7 => convFloat fp16F false mode x
  | _ => convFloat fp32F false { mode with draw := none } x

/-- The bits of one lane of a complex format. -/
def laneBits (fmt : Nat) : Nat := if fmt = 10 then 16 else 8

/-- One lane of a complex destination, always to nearest even (R74, R81). -/
def convLane (fmt : Nat) (x : FV) : Conv :=
  let w := laneBits fmt
  convInt w (-(2 ^ (w - 1) : Int)) (2 ^ (w - 1) - 1) {} x

/-- Conversion of a complex element: a NaN lane zeroes both lanes and hides the other lane's saturation (R79). -/
def convComplex (fmt : Nat) (re im : FV) : Conv :=
  if re.isNan || im.isNan then { code := 0, nan := true }
  else
    let a := convLane fmt re
    let b := convLane fmt im
    { code := a.code + b.code * 2 ^ laneBits fmt, sat := a.sat || b.sat }

/-- The exact value of a real element code (R68, R70). -/
def decodeReal (fmt : Nat) (code : Nat) : FV :=
  match fmt with
  | 0 => FV.ofInt (BitVec.ofNat 4 code).toInt
  | 1 => FV.ofInt (BitVec.ofNat 8 code).toInt
  | 2 => FV.ofInt (code % 256 : Nat)
  | 3 => decodeFloat fp4F code
  | 4 => decodeFloat e4m3F code
  | 5 => decodeFloat e5m2F code
  | 6 => decodeFloat bf16F code
  | 7 => decodeFloat fp16F code
  | _ => decodeFloat fp32F code

/-- The two lanes of a complex element code (R69). -/
def decodeComplex (fmt : Nat) (code : Nat) : Int × Int :=
  let w := laneBits fmt
  ((BitVec.ofNat w code).toInt, (BitVec.ofNat w (code / 2 ^ w)).toInt)

/-- The ember hash (R83). -/
def emberMix (x : Dword) : Dword :=
  let x := x ^^^ (x >>> 31)
  let x := x * 0xD6E8FEB86659FD93#64
  let x := x ^^^ (x >>> 27)
  let x := x * 0xA24BAED4963EE407#64
  x ^^^ (x >>> 33)

/-- The 16-bit draw for a seed, a tensor identifier and an element index (R82, R83). -/
def ember (seed : Dword) (tensorId : Word) (index : Dword) : Nat :=
  let x := emberMix (seed ^^^ 0x6B43A9B5C0E1F237#64)
  let x := emberMix (x ^^^ (tensorId.setWidth 64 <<< 32) ^^^ 0x3C6EF372FE94F82B#64)
  (emberMix (x + index) >>> 48).toNat

end Sys2Proof.Machine
end

