-- ==== Sys2Proof/Machine/Flags.lean ====
section
/-!
DEFINITION. Flag bytes: the tile flags (Table 2-5), the conversion flags (Table 3-6), the vector flags (Table 5-10), and VE_FLAGS
(Table 5-11).
-/
namespace Sys2Proof.Machine

def fNan : Byte := 1#8
def fInf : Byte := 2#8
def fSat : Byte := 4#8
/-- Table 5-10. -/
def vPermRange : Byte := 1#8
def vIntSat : Byte := 2#8
def vStatEmpty : Byte := 4#8

def flagIf (b : Bool) (f : Byte) : Byte := if b then f else 0#8

/-- The conversion flag byte of one conversion (Table 3-6). -/
def Conv.flags (c : Conv) : Byte := flagIf c.nan 1#8 ||| flagIf c.inf 2#8 ||| flagIf c.sat 4#8

/-- VE_FLAGS after one completion record (R133, Table 5-11). -/
def veOr (ve : Word) (cvt vec : Byte) : Word := ve ||| cvt.setWidth 32 ||| (vec.setWidth 32 <<< 8)

/-- Flags of an FP32 accumulation: `fin`: its inputs are finite; `formed`: the step has a NaN operand or forms a NaN (R45, R47,
R49, R50). -/
def accFlags (fin : Bool) (formed : Bool) (result : Word) : Byte :=
  flagIf formed fNan ||| flagIf (fin && !fIsFin result && !fIsNan result) fInf

/-- The flag of a clamped integer accumulation (R44). -/
def satFlag (clamped : Bool) : Byte := flagIf clamped fSat

end Sys2Proof.Machine
end

