-- ==== Sys2Proof/Machine/Sparse.lean ====
section
/-!
DEFINITION. Sparse arrays and byte memory in one canonical form: (index, word) pairs, indices strictly rising, no word equal to 0.
An unlisted index reads 0 (R509 for on-chip memory; log 3 elsewhere). Every write goes through `Cells.splice`.
-/
namespace Sys2Proof

/-- The word at an index. -/
def Cells.get {w : Nat} (c : Cells w) (k : Nat) : BitVec w :=
  match c.find? (fun p => p.1 == k) with
  | some p => p.2
  | none => 0#w

/-- The nonzero words of a list placed from index `a` on. -/
def Cells.ofList {w : Nat} (a : Nat) : List (BitVec w) → Cells w
  | [] => []
  | v :: vs => if v = 0#w then Cells.ofList (a + 1) vs else (a, v) :: Cells.ofList (a + 1) vs

/-- Replace the words of indices `a` to `a + vs.length - 1`. -/
def Cells.splice {w : Nat} (c : Cells w) (a : Nat) (vs : List (BitVec w)) : Cells w :=
  c.filter (fun p => decide (p.1 < a)) ++ Cells.ofList a vs ++ c.filter (fun p => decide (a + vs.length ≤ p.1))

def Cells.set {w : Nat} (c : Cells w) (k : Nat) (v : BitVec w) : Cells w := c.splice k [v]

/-- The words of indices `a` to `a + n - 1`. -/
def Cells.slice {w : Nat} (c : Cells w) (a n : Nat) : List (BitVec w) :=
  let near := c.filter (fun p => decide (a ≤ p.1) && decide (p.1 < a + n))
  (List.range n).map fun i => Cells.get near (a + i)

/-- Clear a range of indices. -/
def Cells.erase {w : Nat} (c : Cells w) (a n : Nat) : Cells w :=
  c.filter (fun p => decide (p.1 < a) || decide (a + n ≤ p.1))

/-- The array of `n` words that a function gives. -/
def Cells.build {w : Nat} (n : Nat) (f : Nat → BitVec w) : Cells w := Cells.ofList 0 ((List.range n).map f)

/-- The canonical form. -/
abbrev Cells.wf {w : Nat} (c : Cells w) : Prop :=
  c.Pairwise (fun x y => x.1 < y.1) ∧ ∀ x ∈ c, x.2 ≠ 0#w

/-- A little-endian number from bytes (R8). -/
def leNat : List Byte → Nat
  | [] => 0
  | b :: bs => b.toNat + 256 * leNat bs

/-- The `n` bytes of a number, least significant first (R8). -/
def leBytes : Nat → Nat → List Byte
  | 0, _ => []
  | n + 1, v => BitVec.ofNat 8 v :: leBytes n (v / 256)

/-- Big-endian bytes, for keys and digests. -/
def beBytes (n v : Nat) : List Byte := (leBytes n v).reverse

/-- The number in `n` bytes of a list from offset `a` (missing bytes read 0). -/
def fieldAt (bs : List Byte) (a n : Nat) : Nat := leNat ((bs.drop a).take n)

/-- The unsigned number in bits lo to lo + n - 1. -/
def bitsOf (v lo n : Nat) : Nat := v / 2 ^ lo % 2 ^ n

/-- A field of a command word. -/
def cbits (w : CmdWord) (lo n : Nat) : Nat := bitsOf w.toNat lo n

def cbit (w : CmdWord) (k : Nat) : Bool := w.getLsbD k

/-- A two's-complement number of `n` bits. -/
def signExt (n v : Nat) : Int := if v % 2 ^ n < 2 ^ (n - 1) then (v % 2 ^ n : Nat) else (v % 2 ^ n : Nat) - (2 ^ n : Nat)


/-! ### Fixed numbers of units, through lists, so that they evaluate by structural recursion -/

/-- Apply a function to every unit. -/
def vmap {α β : Type} {n : Nat} (v : Vector α n) (f : α → β) : Vector β n := ⟨(v.toList.map f).toArray, by simp⟩

/-- Apply a function to every unit and its number. -/
def vmapIdx {α β : Type} {n : Nat} (v : Vector α n) (f : Nat → α → β) : Vector β n := ⟨(v.toList.mapIdx f).toArray, by simp⟩

end Sys2Proof
end

