-- ==== Sys2Proof/Machine/Sha.lean ====
section
/-!
DEFINITION. SHA-384 (FIPS 180-4), the digest of bulk objects, certificates, measurements and quotes (R410, R484, R500).
-/
namespace Sys2Proof.Machine.Sha

def k1 : List Dword :=
  [0x428A2F98D728AE22, 0x7137449123EF65CD, 0xB5C0FBCFEC4D3B2F, 0xE9B5DBA58189DBBC, 0x3956C25BF348B538,
   0x59F111F1B605D019, 0x923F82A4AF194F9B, 0xAB1C5ED5DA6D8118, 0xD807AA98A3030242, 0x12835B0145706FBE,
   0x243185BE4EE4B28C, 0x550C7DC3D5FFB4E2, 0x72BE5D74F27B896F, 0x80DEB1FE3B1696B1, 0x9BDC06A725C71235,
   0xC19BF174CF692694, 0xE49B69C19EF14AD2, 0xEFBE4786384F25E3, 0x0FC19DC68B8CD5B5, 0x240CA1CC77AC9C65,
   0x2DE92C6F592B0275, 0x4A7484AA6EA6E483, 0x5CB0A9DCBD41FBD4, 0x76F988DA831153B5, 0x983E5152EE66DFAB,
   0xA831C66D2DB43210, 0xB00327C898FB213F, 0xBF597FC7BEEF0EE4, 0xC6E00BF33DA88FC2, 0xD5A79147930AA725,
   0x06CA6351E003826F, 0x142929670A0E6E70, 0x27B70A8546D22FFC, 0x2E1B21385C26C926, 0x4D2C6DFC5AC42AED,
   0x53380D139D95B3DF, 0x650A73548BAF63DE, 0x766A0ABB3C77B2A8, 0x81C2C92E47EDAEE6, 0x92722C851482353B]
def k2 : List Dword :=
  [0xA2BFE8A14CF10364, 0xA81A664BBC423001, 0xC24B8B70D0F89791, 0xC76C51A30654BE30, 0xD192E819D6EF5218,
   0xD69906245565A910, 0xF40E35855771202A, 0x106AA07032BBD1B8, 0x19A4C116B8D2D0C8, 0x1E376C085141AB53,
   0x2748774CDF8EEB99, 0x34B0BCB5E19B48A8, 0x391C0CB3C5C95A63, 0x4ED8AA4AE3418ACB, 0x5B9CCA4F7763E373,
   0x682E6FF3D6B2B8A3, 0x748F82EE5DEFB2FC, 0x78A5636F43172F60, 0x84C87814A1F0AB72, 0x8CC702081A6439EC,
   0x90BEFFFA23631E28, 0xA4506CEBDE82BDE9, 0xBEF9A3F7B2C67915, 0xC67178F2E372532B, 0xCA273ECEEA26619C,
   0xD186B8C721C0C207, 0xEADA7DD6CDE0EB1E, 0xF57D4F7FEE6ED178, 0x06F067AA72176FBA, 0x0A637DC5A2C898A6,
   0x113F9804BEF90DAE, 0x1B710B35131C471B, 0x28DB77F523047D84, 0x32CAAB7B40C72493, 0x3C9EBE0A15C9BEBC,
   0x431D67C49C100D4C, 0x4CC5D4BECB3E42B6, 0x597F299CFC657E2A, 0x5FCB6FAB3AD6FAEC, 0x6C44198C4A475817]
def k : List Dword := k1 ++ k2

def h0 : List Dword :=
  [0xCBBB9D5DC1059ED8, 0x629A292A367CD507, 0x9159015A3070DD17, 0x152FECD8F70E5939, 0x67332667FFC00B31,
   0x8EB44A8768581511, 0xDB0C2E0D64F98FA7, 0x47B5481DBEFA4FA4]

/-- The big-endian number of a byte string. -/
def beNat (bs : List Byte) : Nat := bs.foldl (fun n b => n * 256 + b.toNat) 0

/-- The message with its padding to whole blocks of 128 bytes. -/
def pad (m : List Byte) : List Byte :=
  m ++ [0x80#8] ++ List.replicate ((239 - m.length % 128) % 128) 0#8 ++ beBytes 16 (8 * m.length)

/-- The message schedule after the first sixteen words: the last sixteen words, newest first, give the next one. -/
def schedule : Nat → List Dword → List Dword → List Dword
  | 0, _, out => out
  | n + 1, win, out =>
    let w := fun i => win.getD i 0#64
    let a := w 14
    let b := w 1
    let s0 := (a.rotateRight 1) ^^^ (a.rotateRight 8) ^^^ (a >>> 7)
    let s1 := (b.rotateRight 19) ^^^ (b.rotateRight 61) ^^^ (b >>> 6)
    let v := s1 + w 6 + s0 + w 15
    schedule n (v :: win.take 15) (v :: out)

/-- The eight working variables. -/
structure Vars where
  a : Dword
  b : Dword
  c : Dword
  d : Dword
  e : Dword
  f : Dword
  g : Dword
  h : Dword

def Vars.ofList (l : List Dword) : Vars :=
  { a := l.getD 0 0, b := l.getD 1 0, c := l.getD 2 0, d := l.getD 3 0, e := l.getD 4 0, f := l.getD 5 0, g := l.getD 6 0, h := l.getD 7 0 }

def Vars.toList (v : Vars) : List Dword := [v.a, v.b, v.c, v.d, v.e, v.f, v.g, v.h]

def round (v : Vars) (kw : Dword × Dword) : Vars :=
  let s1 := (v.e.rotateRight 14) ^^^ (v.e.rotateRight 18) ^^^ (v.e.rotateRight 41)
  let t1 := v.h + s1 + ((v.e &&& v.f) ^^^ (~~~v.e &&& v.g)) + kw.1 + kw.2
  let s0 := (v.a.rotateRight 28) ^^^ (v.a.rotateRight 34) ^^^ (v.a.rotateRight 39)
  let t2 := s0 + ((v.a &&& v.b) ^^^ (v.a &&& v.c) ^^^ (v.b &&& v.c))
  { a := t1 + t2, b := v.a, c := v.b, d := v.c, e := v.d + t1, f := v.e, g := v.f, h := v.g }

def block (hs : List Dword) (b : List Byte) : List Dword :=
  let w16 := (List.range 16).map fun i => BitVec.ofNat 64 (beNat ((b.drop (8 * i)).take 8))
  let ws := (schedule 64 w16.reverse w16.reverse).reverse
  let v := (List.zip k ws).foldl round (Vars.ofList hs)
  List.zipWith (· + ·) hs v.toList

def blocks : Nat → List Byte → List Dword → List Dword
  | 0, _, hs => hs
  | n + 1, bs, hs => blocks n (bs.drop 128) (block hs (bs.take 128))

/-- SHA-384 of a byte string, as its 48 bytes. -/
def sha384 (m : List Byte) : List Byte :=
  let p := pad m
  ((blocks (p.length / 128) p h0).take 6).flatMap fun w => beBytes 8 w.toNat

/-- SHA-384 as a number, big-endian. -/
def digest (m : List Byte) : BitVec 384 := BitVec.ofNat 384 (beNat (sha384 m))

end Sys2Proof.Machine.Sha
end

