-- ==== Sys2Proof/Machine/Crypto.lean ====
section
/-!
DEFINITION. The cryptography of R396, R401 and R490: HMAC and HKDF with SHA-384 (RFC 2104, RFC 5869), AES-256-GCM (FIPS 197,
NIST SP 800-38D), and ECDH and ECDSA (FIPS 186-5) on brainpoolP384r1 (RFC 5639).
-/
namespace Sys2Proof.Machine

/-! ### HMAC and HKDF -/

def hmac (key msg : List Byte) : List Byte :=
  let k := if 128 < key.length then Sha.sha384 key else key
  let k := k ++ List.replicate (128 - k.length) 0#8
  Sha.sha384 (k.map (· ^^^ 0x5C#8) ++ Sha.sha384 (k.map (· ^^^ 0x36#8) ++ msg))

/-- The blocks T(i), T(i + 1), … of HKDF's expansion. -/
def hkdfBlocks (prk info : List Byte) : Nat → Nat → List Byte → List Byte
  | 0, _, _ => []
  | n + 1, i, prev => let t := hmac prk (prev ++ info ++ leBytes 1 i); t ++ hkdfBlocks prk info n (i + 1) t

/-- HKDF-SHA-384: `len` bytes from a salt, an input key and an info string. -/
def hkdf (salt ikm info : List Byte) (len : Nat) : List Byte :=
  (hkdfBlocks (hmac salt ikm) info ((len + 47) / 48) 1 []).take len

/-! ### AES-256 -/

/-- The S-box of FIPS 197, 64 entries a number, entry 0 least significant. -/
def sboxTable : List Nat :=
  [0x75B227EBE28012079A059618C323C7041531D871F1E5A534CCF73F362693FDB7C072A49CAFA2D4ADF04759FA7DC982CA76ABD7FE2B670130C56F6BF27B777C63,
   0xD2F3FF1021DAB6BCF5389D928F40A351A89F3C507F02F94585334D43FBAAEFD0CF584C4A39BECB6A5BB1FC20ED00D153842FE329B3D63B52A05A6E1B1A2C8309,
   0x08AE7A65EAF4566CA94ED58D6D37C8E779E4959162ACD3C25C2406490A3A32E0DB0B5EDE14B8EE4688902A22DC4F816073195D643D7EA7C41744975FEC130CCD,
   0x16BB54B00F2D99416842E6BF0D89A18CDF2855CEE9871E9B948ED9691198F8E19E1DC186B95735610EF6034866B53E708A8BBD4B1F74DDE8C6B4A61C2E2578BA]

def sbox (b : Byte) : Byte := BitVec.ofNat 8 (bitsOf (sboxTable.getD (b.toNat / 64) 0) (8 * (b.toNat % 64)) 8)

/-- Multiplication by x in AES's field. -/
def xtime (b : Byte) : Byte := (b <<< 1) ^^^ (if b.getLsbD 7 then 0x1B#8 else 0#8)

/-- The `n` next words of the key schedule, word `i` first; `ws` are the words so far, newest first. -/
def keyWords : Nat → Nat → List (List Byte) → List (List Byte)
  | 0, _, ws => ws
  | n + 1, i, ws =>
    let t := ws.headD []
    let t :=
      if i % 8 = 0 then List.zipWith (· ^^^ ·) ((t.drop 1 ++ t.take 1).map sbox) [BitVec.ofNat 8 (2 ^ (i / 8 - 1)), 0#8, 0#8, 0#8]
      else if i % 8 = 4 then t.map sbox else t
    keyWords n (i + 1) (List.zipWith (· ^^^ ·) (ws.getD 7 []) t :: ws)

/-- The fifteen round keys of a 32-byte key. -/
def roundKeys (key : List Byte) : List (List Byte) :=
  let w0 := (List.range 8).map fun i => (List.range 4).map fun j => key.getD (4 * i + j) 0#8
  let ws := (keyWords 52 8 w0.reverse).reverse
  (List.range 15).map fun r => ((ws.drop (4 * r)).take 4).flatten

def shiftRows (s : List Byte) : List Byte := (List.range 16).map fun i => s.getD ((i + 4 * (i % 4)) % 16) 0#8

def mixColumn (c : List Byte) : List Byte :=
  let b := fun i => c.getD (i % 4) 0#8
  (List.range 4).map fun i => xtime (b i) ^^^ (xtime (b (i + 1)) ^^^ b (i + 1)) ^^^ b (i + 2) ^^^ b (i + 3)

def mixColumns (s : List Byte) : List Byte := (List.range 4).flatMap fun c => mixColumn ((s.drop (4 * c)).take 4)

def xorBytes (a b : List Byte) : List Byte := List.zipWith (· ^^^ ·) a b

/-- AES-256 of one 16-byte block under its round keys. -/
def aes (ks : List (List Byte)) (b : List Byte) : List Byte :=
  let s := (List.range 13).foldl (fun s r => xorBytes (mixColumns (shiftRows (s.map sbox))) (ks.getD (r + 1) [])) (xorBytes b (ks.headD []))
  xorBytes (shiftRows (s.map sbox)) (ks.getD 14 [])

/-! ### Galois/Counter mode -/

/-- The product of two blocks in GCM's field. -/
def gcmMul (x y : BitVec 128) : BitVec 128 :=
  ((List.range 128).foldl (fun (zv : BitVec 128 × BitVec 128) i =>
    (if x.getLsbD (127 - i) then zv.1 ^^^ zv.2 else zv.1,
     (zv.2 >>> 1) ^^^ (if zv.2.getLsbD 0 then 0xE1000000000000000000000000000000#128 else 0#128))) (0#128, y)).1

/-- The byte string cut into 16-byte blocks, the last padded with zeros. -/
def blocks16 (b : List Byte) : List (List Byte) :=
  (List.range ((b.length + 15) / 16)).map fun i => let c := (b.drop (16 * i)).take 16; c ++ List.replicate (16 - c.length) 0#8

def ghash (h : BitVec 128) (b : List Byte) : BitVec 128 :=
  (blocks16 b).foldl (fun y c => gcmMul (y ^^^ BitVec.ofNat 128 (Sha.beNat c)) h) 0#128

def padTo16 (b : List Byte) : List Byte := b ++ List.replicate ((16 - b.length % 16) % 16) 0#8

/-- Counter mode with a 12-byte nonce, from counter 2; the same for both directions. -/
def gcmCtr (key iv data : List Byte) : List Byte :=
  let ks := roundKeys key
  xorBytes data (((List.range ((data.length + 15) / 16)).flatMap fun i => aes ks (iv ++ beBytes 4 (i + 2))))

/-- The tag over the additional data and the ciphertext. -/
def gcmTag (key iv aad ct : List Byte) : List Byte :=
  let ks := roundKeys key
  let h := BitVec.ofNat 128 (Sha.beNat (aes ks (List.replicate 16 0#8)))
  let g := ghash h (padTo16 aad ++ padTo16 ct ++ beBytes 8 (8 * aad.length) ++ beBytes 8 (8 * ct.length))
  xorBytes (beBytes 16 g.toNat) (aes ks (iv ++ beBytes 4 1))

/-! ### brainpoolP384r1 -/

def eccP : Nat := 0x8CB91E82A3386D280F5D6F7E50E641DF152F7109ED5456B412B1DA197FB71123ACD3A729901D1A71874700133107EC53
def eccA : Nat := 0x7BC382C63D8C150C3C72080ACE05AFA0C2BEA28E4FB22787139165EFBA91F90F8AA5814A503AD4EB04A8C7DD22CE2826
def eccB : Nat := 0x04A8C7DD22CE28268B39B55416F0447C2FB77DE107DCD2A62E880EA53EEB62D57CB4390295DBC9943AB78696FA504C11
def eccN : Nat := 0x8CB91E82A3386D280F5D6F7E50E641DF152F7109ED5456B31F166E6CAC0425A7CF3AB6AF6B7FC3103B883202E9046565
def eccGx : Nat := 0x1D1C64F068CF45FFA2A63A81B7C13F6B8847A3E77EF14FE3DB7FCAFE0CBD10E8E826E03436D646AAEF87B2E247D4AF1E
def eccGy : Nat := 0x8ABE1D7520F9C2A45CB1EB8E95CFD55262B70B29FEEC5864E19C054FF99129280E4646217791811142820341263C5315

/-- A point in Jacobian coordinates; z = 0 is the point at infinity. -/
structure EccPt where
  x : Nat
  y : Nat
  z : Nat
deriving DecidableEq, Repr

def eccG : EccPt := ⟨eccGx, eccGy, 1⟩
def eccO : EccPt := ⟨1, 1, 0⟩

def eccSub (a b : Nat) : Nat := (a + eccP - b) % eccP

def eccDouble (p : EccPt) : EccPt :=
  let yy := p.y * p.y % eccP
  let s := 4 * p.x * yy % eccP
  let zz := p.z * p.z % eccP
  let m := (3 * p.x * p.x + eccA * (zz * zz % eccP)) % eccP
  let x := eccSub (m * m % eccP) (2 * s % eccP)
  ⟨x, eccSub (m * eccSub s x % eccP) (8 * yy * yy % eccP), 2 * p.y * p.z % eccP⟩

def eccAdd (p q : EccPt) : EccPt :=
  if p.z = 0 then q
  else if q.z = 0 then p
  else
    let pz := p.z * p.z % eccP
    let qz := q.z * q.z % eccP
    let u := p.x * qz % eccP
    let h := eccSub (q.x * pz % eccP) u
    let t := p.y * (q.z * qz % eccP) % eccP
    let r := eccSub (q.y * (p.z * pz % eccP) % eccP) t
    if h = 0 then (if r = 0 then eccDouble p else eccO)
    else
      let hh := h * h % eccP
      let hhh := h * hh % eccP
      let v := u * hh % eccP
      let x := eccSub (eccSub (r * r % eccP) hhh) (2 * v % eccP)
      ⟨x, eccSub (r * eccSub v x % eccP) (t * hhh % eccP), p.z * q.z * h % eccP⟩

/-- k times a point, for k below 2^384. -/
def eccMul (k : Nat) (p : EccPt) : EccPt :=
  (List.range 384).foldl (fun q i => let q := eccDouble q; if k.testBit (383 - i) then eccAdd q p else q) eccO

/-- A power modulo m, for exponents below 2^384. -/
def powMod (m b e : Nat) : Nat :=
  (List.range 384).foldl (fun r i => if e.testBit (383 - i) then r * r % m * b % m else r * r % m) 1

/-- The inverse modulo a prime. -/
def invMod (m a : Nat) : Nat := powMod m a (m - 2)

/-- The affine coordinates of a finite point. -/
def EccPt.affine (p : EccPt) : Nat × Nat :=
  let i := invMod eccP p.z
  let ii := i * i % eccP
  (p.x * ii % eccP, p.y * (ii * i % eccP) % eccP)

/-- A point as its 97 bytes (R401). -/
def EccPt.encode (p : EccPt) : List Byte := let (x, y) := p.affine; 0x04#8 :: (beBytes 48 x ++ beBytes 48 y)

/-- The point of a 97-byte encoding: none when it is no finite point of the curve. -/
def eccDecode (b : List Byte) : Option EccPt :=
  let x := Sha.beNat ((b.drop 1).take 48)
  let y := Sha.beNat (b.drop 49)
  if b.length = 97 ∧ b.headD 0#8 = 0x04#8 ∧ x < eccP ∧ y < eccP ∧ y * y % eccP = (x * x * x + eccA * x + eccB) % eccP then some ⟨x, y, 1⟩
  else none

/-- The public key of a private key, encoded. -/
def eccPublic (d : Nat) : List Byte := (eccMul d eccG).encode

/-- The ECDH product of a private key and a public point: the x-coordinate, 48 bytes big-endian (R401). -/
def ecdh (d : Nat) (q : EccPt) : List Byte := beBytes 48 (eccMul d q).affine.1

/-- A scalar from 1 to n - 1 out of random bytes (log 112). -/
def eccScalar (b : List Byte) : Nat := Sha.beNat b % (eccN - 1) + 1

/-- ECDSA over SHA-384 with private key `d` and per-message secret `k`: r ‖ s, 48 bytes each (R401). -/
def ecdsaSign (d k : Nat) (msg : List Byte) : List Byte :=
  let r := (eccMul k eccG).affine.1 % eccN
  beBytes 48 r ++ beBytes 48 (invMod eccN k * (Sha.beNat (Sha.sha384 msg) + r * d) % eccN)

/-- An ECDSA signature r ‖ s of a message verifies under an encoded public key (R401, R490). -/
def ecdsaOk (key msg sig : List Byte) : Bool :=
  match eccDecode key with
  | none => false
  | some q =>
    let r := Sha.beNat (sig.take 48)
    let s := Sha.beNat (sig.drop 48)
    if sig.length = 96 ∧ 0 < r ∧ r < eccN ∧ 0 < s ∧ s < eccN then
      let w := invMod eccN s
      let p := eccAdd (eccMul (Sha.beNat (Sha.sha384 msg) * w % eccN) eccG) (eccMul (r * w % eccN) q)
      p.z != 0 && p.affine.1 % eccN == r
    else false

end Sys2Proof.Machine
end

