-- ==== Sys2Proof/Config.lean ====
section
/-!
DEFINITION. Constants of the device that the spec states, and the free values: what the spec leaves open.
A free value has no body, so no proof can rest on what it is. A step that needs one applies it to the counter `freeCtr` of the
state and advances the counter (log 2).
-/
namespace Sys2Proof.Config

/-- A fresh 64-bit value: entropy (R217), nonces, ephemeral keys and the device's own signatures (R400, R502), the rate that the
servo's filter gives (R383). DESIGN CHOICE, log 2. -/
opaque freeWord : Nat → Dword

/-- Shift of an entry of an LDPC base graph, or none where it has none, by base graph (2 when true), row, column and set of lifting sizes: the
tables of TS 38.212 that R256 and R278 name. Log 100. -/
opaque ldpcShift : Bool → Nat → Nat → Nat → Option Nat

/-- The polar reliability sequence and the input interleaver of TS 38.212, entry by entry: the tables that R281 names. Log 100. -/
opaque polarOrder : Nat → Nat
opaque polarMix : Nat → Nat

/-- Entry (row, column) of the basis of the (32, K) block code of TS 38.212 that R269 names. Log 100. -/
opaque rmBasis : Nat → Nat → Bool

/-- The parts of a model image that the reference grid receiver reads (R254), of an image whose layout the spec does not give: E4M3 code and
scale entry of a matrix weight (matrix, output, input or group), FP32 vector weights (vector, place), and the numbers of the network that
no table states: the ACT sub of a step, the softmax scale, the ε of a norm, the residual factor, the panel scale of the features. Log 106. -/
opaque netCode : List Byte → Nat → Nat → Nat → Nat
opaque netScale : List Byte → Nat → Nat → Nat → Nat
opaque netVec : List Byte → Nat → Nat → Word
opaque netAct : Nat → Nat
opaque netSoftmax : Word
opaque netEps : Word
opaque featurePanel : Word

/-- What the Kuaryo training bundle makes of the records of the training ring, the base model's image and the policy with its seed: the candidate's
image, and whether a completion record of the job carries nan, cvt_nan or cvt_inf (R366 to R368). Log 115. -/
opaque trainImage : List (List Byte) → List Byte → List Byte → List Byte
opaque trainNan : List (List Byte) → List Byte → List Byte → Bool

/-- How UCI shares the coded bits of a PUSCH PDU (TS 38.212 6.2.7): by PDU and coded bit, 0 for data, 1 for UCI, 2 for data that UCI overwrites;
the soft bits of a part (HARQ-ACK, CSI 1, CSI 2) from the LLRs of the UCI positions. Log 107. -/
opaque uciUse : List Byte → Nat → Nat
opaque uciPart : List Byte → Nat → List Int → List Int

/-- The kernels of the radio DSP cores whose arithmetic the spec does not give, as functions of the PDU, the slot and what the grid ring holds of
the occasion: soft bits of a PUCCH part, the UCI flags (SR detected, HARQ-ACK detected), SINR; the list of eight of the polar decoder; an SRS
channel estimate (path, port, subcarrier; FP32 lanes), its SNR and timing; an eigenvector of a covariance (rank, path) and its layer scale; peaks
of a PRACH occasion from its samples. Log 107. -/
opaque pucchSoft : List Byte → Word → List Byte → Nat → List Int
opaque uciSeen : List Byte → Word → List Byte → Nat → Bool
opaque uciSinr : List Byte → Word → List Byte → Half
opaque polarList : Nat → List Int → Nat → List Bool
opaque srsChannel : List Byte → Word → List Byte → Nat → Nat → Nat → Word × Word
opaque srsMeas : List Byte → Word → List Byte → Half × Half
opaque eigVector : List (Word × Word) → Nat → Nat → Word × Word
opaque eigScale : List (Word × Word) → Nat → Word
opaque prachPeaks : List Byte → Word → List (List (Int × Int)) → List (Nat × Half × Half)

/-- Where the firmware puts the grid ring and the downlink ring of a carrier in its part of die memory and of hub memory and its capture rings in DDR5,
and the tensor identifiers of their headers. Log 102. -/
opaque ringSpot : Nat → Nat
opaque gridTensor : Nat → Word

/-- A carrier's centre frequency f0 in Hz, for the symbol phase compensation of R299 and R301; no message carries it. Log 103. -/
opaque carrierHz : Nat → Nat

/-- A tap of the pulse that CFR subtracts, from the carrier's FIR coefficients, its offset in Hz and the pulse length (R303). Log 108. -/
opaque cfrPulse : List Int → Int → Nat → Nat → Word × Word

/-- What the DPD fit makes of observation samples, transmitted samples and the set in use (R305): a coefficient of the new set, and the capture's
error in 1/16 dB. Log 109. -/
opaque dpdFit : List (Int × Int) → List (Int × Int) → List Dword → Nat → Dword
opaque dpdError : List (Int × Int) → List (Int × Int) → List Dword → Int

/-- The beacon's shaped chip at a sample around its centre, in units of 2⁻¹⁶ of a sample code, at the amplitude that a level (dB) gives; the flag marks
the data symbols of QPSK, whose lanes are lower by √2; then samples per chip and sample (R348, R350). Log 114. -/
opaque beaconPulse : Nat → Bool → Nat → Int → Int

/-- What the calibration kernel's fixed-point arithmetic makes of its exact inputs (R355, R356): a delay in ps from the peak's lag, the sample rate and
the powers at the peak and beside it; 20 log10 of a quotient in 1/256 dB; an angle in 2⁻¹⁶ turns; a mean from a sum and a count; SNR and
received level (1/16 dB) from the correlations, reference energies and powers of the bursts. Log 114. -/
opaque calDelay : Int → Nat → Nat × Nat × Nat → Int
opaque calDb : Int → Int → Nat → Half
opaque calTurn : Int → Int → Half
opaque calMean : Int → Nat → Int
opaque calSnr : List (Int × Int × Nat × Nat) → Half
opaque calLevel : List (Int × Int × Nat × Nat) → Half

/-- Whether a read with bypass takes the old value of a doubleword that something wrote while the read was live (R181): by core, serial number of the
command, place of the read, device time and `freeCtr`. Log 10. -/
opaque bypassOld : Nat → Nat → Nat → Nat → Nat → Bool

/-- Bytes of core memory (R164). -/
def coreMemBytes : Nat := 0x400000
/-- First byte of the core memory of core 0, and the step from core to core (R29). -/
def coreMemBase : Nat := 0x08800000000
def coreMemStep : Nat := 0x1000000
/-- First bytes of the two die memories and their size (R29). -/
def dieMemBase (die : Nat) : Nat := 0x08000000000 + die * 0x100000000
def dieMemBytes : Nat := 0x6000000
/-- First byte of the DDR5 window of a die (R29). -/
def ddrBase (die : Nat) : Nat := die * 0x04000000000
/-- Hub memory (R29). -/
def hubMemBase : Nat := 0x0C000000000
def hubMemBytes : Nat := 0x1800000
/-- The nominal rate word of the timing unit (Table 15-5). -/
def nominalRate : Nat := 0x200000000
/-- 200 ppm of the nominal rate word: the valid range (Table 15-5). -/
def rateSpan : Nat := 0x200000000 * 200 / 1000000
/-- The device sends event records of which the Lantern domain keeps this many (R462). -/
def eventLogDepth : Nat := 4096

end Sys2Proof.Config
end

