-- ==== Sys2Proof/Machine/State.lean ====
section
/-!
DEFINITION. The state of the block as plain data, the closed types of faults and refusals, and the state right after the Lantern
power-on reset (R461, R504). Every structure below names the rule that gives it.
-/
namespace Sys2Proof.Machine

/-- Reasons for a machine stop. No meaning raises it: what the spec calls a fault, an abort, a strike or a halt is a next state
with the reports the spec gives (log 1). -/
inductive Fault where
  /-- Raised by no meaning of this model; kept so that the type is inhabited. Safe. -/
  | machineStop
deriving DecidableEq, Repr

/-- Reasons for a refusal. -/
inductive Refusal where
  /-- An arm of exec without a meaning. Raised by Dispatch.lean only; safe. -/
  | notModelled (mnemonic : String)
deriving DecidableEq, Repr

/-! ### Engines (02, 04, 09) -/

/-- A scale attachment of an engine or half: pointers, group size code and next tag (R92). -/
structure Attach where
  aPtr : Nat
  bPtr : Nat
  gsz  : BitVec 3
  tag  : BitVec 4
deriving DecidableEq, Repr

/-- A row of a B FIFO (R38): the format of the stream that placed it and its bytes. -/
structure BRow where
  fmt   : BitVec 4
  bytes : List Byte
deriving DecidableEq, Repr

/-- Result state of an engine or half: sticky flags (Table 2-5), bank_valid (R59), void (R56). -/
structure PartRes where
  flags     : Byte := 0#8
  bankValid : Bool := false
  void      : Bool := false
deriving DecidableEq, Repr

/-- Accumulators and copy-out bank of one context: cell 64 i + j holds the imaginary lane in bits 63:32 and the real lane in
31:0; idx is 6 bits (R36, R42, R49). -/
structure EngRes where
  acc     : Cells 64 := []
  idx     : Cells 6 := []
  bank    : Cells 64 := []
  bankIdx : Cells 6 := []
  lo      : PartRes := {}
  up      : PartRes := {}
deriving DecidableEq, Repr

/-- Operand state of a whole engine (`lo`) or of one half: B FIFO, rows promised to it that no issued tile takes, attachment,
and mode, pair and grp of the most recently issued tile (Table 2-11). `seen`: a tile or a restored image stands behind the
bank (R57). -/
structure EngPart where
  fifo   : List BRow := []
  avail  : List (BitVec 4 × Nat) := []
  attach : Option Attach := none
  mode   : BitVec 3 := 0#3
  pair   : Byte := 0#8
  grp    : Bool := false
  seen   : Bool := false
deriving DecidableEq, Repr

/-- An engine command that issued and has not completed (R216): what it took at its issue, `slot` of the cluster that its logical engine
was mapped to among it (R15; 31 for none). `copy` is the context copy of the run `run` it belongs to, set when it executes (R236); `placed`
counts the rows an ENG_STREAMB has placed, and `fetched` holds the rows after them that a group's single fetch has brought and that wait for room
(R38, R60); `bind` is the vector operation that a copy-out feeds (R124); `faulted`: the tile aborted with ST_ENGINE_FAULT and awaits its replay
(R56, R224). -/
structure EngCmd where
  serial : Nat
  w      : CmdWord
  half   : BitVec 2
  mask   : Dword := 0#64
  attach : Option Attach := none
  run    : Nat := 0
  slot   : Nat := 31
  copy   : Nat := 0
  placed : Nat := 0
  fetched : List (List Byte) := []
  faulted : Bool := false
  mode   : BitVec 3 := 0#3
  pair   : Byte := 0#8
  grp    : Bool := false
  bind   : Option Nat := none
deriving DecidableEq, Repr

/-- One logical engine (R21, R36 to R38, R54, R235). `splitNext` is the split state that commands at issue see. `res` holds one
context copy per slot that may carry a run of logical engine 3 (R236); the others use copy 0. -/
structure Engine where
  aBuf      : Cells 8 := []
  aFmt      : Cells 5 := []
  split     : Bool := false
  splitNext : Bool := false
  lo        : EngPart := {}
  up        : EngPart := {}
  res       : Vector EngRes 3 := Vector.replicate 3 {}
  queue     : List EngCmd := []
deriving DecidableEq, Repr

/-! ### Vector engine (05, 06) -/

/-- One input tile that copy-outs supply to a chain (R110, R124): the copy-out command, its engines, its delivered rows (local to
the part), its columns, its lane types, and what each engine has delivered: bank cells 64 × row + column and their indices.
`engMask` is 0 for a command to a single engine, whose columns fill lanes 0 to 63. -/
structure VecIn where
  serial  : Nat
  engMask : BitVec 4
  rows    : List Nat
  cols    : Nat
  cplx    : Bool
  int     : Bool
  withIdx : Bool
  got     : List (Nat × Cells 64 × Cells 6) := []
deriving DecidableEq, Repr

/-- A finished tile of a send entry on its way (R159, R160): its ordinal, destination address, first local byte, bytes, bytes that the
destination has accepted, the trail messages that carry it to another package once they are sent, and the flag bytes of its record. -/
structure SendTile where
  ordinal : Nat
  dst     : Nat
  src     : Nat
  len     : Nat
  sent    : Nat := 0
  msgs    : Option (List Nat) := none
  cvt     : Byte := 0#8
  vec     : Byte := 0#8
deriving DecidableEq, Repr

/-- An issued vector operation (R122, R128, R135): its block as read at issue, its header copy, the scalars sampled at issue
(R116; P and Q of stage s at 2 s and 2 s + 1), its next tile, and its inputs in tile order. `shapes` keeps, per finished tile, the
rows and the lanes that are not idle, for a deferred pass (R154, R155); `tileFlags` the conversion and vector flag bytes of tiles
whose records wait for the second pass; `abort` the status of an aborted engine tile behind its remaining inputs (R141); `sends` the tiles
of a send entry that are written and not yet accepted (R160). -/
structure VecOp where
  serial    : Nat
  w         : CmdWord
  blk       : List Byte := []
  hdr       : List Byte := []
  scal      : List Dword := []
  next      : Nat := 0
  inputs    : List VecIn := []
  shapes    : List (Nat × List Nat × List Bool) := []
  tileFlags : List (Byte × Byte) := []
  abort     : Option Half := none
  sends     : List SendTile := []
deriving DecidableEq, Repr

/-- A tile that a deferred or attention operation took: its state block, its ordinal, its rows, and the lanes that are not idle. An operation
that is issued again from a later tile finds them here (R138, R154). -/
structure Panel where
  state : Nat
  tile  : Nat
  rows  : List Nat
  lanes : List Bool
deriving DecidableEq, Repr

/-! ### DMA engine (08) -/

/-- A descriptor as read at the issue of the command that names it (R184), and the source bytes, from its first in transfer order, that the
vestibule buffer held for it (R195). -/
structure DmaDesc where
  serial : Nat
  w      : CmdWord
  addr   : BitVec 22
  bytes  : List Byte
  ahead  : List Byte := []
deriving DecidableEq, Repr

/-- A DMA command that has not issued and whose source the sequencer has begun to read (R195): the command, the descriptor as it stood,
and the source bytes read, in transfer order. -/
structure Ahead where
  w    : CmdWord
  desc : List Byte
  data : List Byte
deriving DecidableEq, Repr

/-- A DMA channel (R188, Tables 8-4 and 8-5): the running descriptor and up to four appended ones, the send operation that
holds it (R160), suspension with the condition raised to the firmware and the faulting granule (R203), the point that the transfer has
reached, which is its progress point once it stops, and the last descriptor's address, gen and status. -/
structure Channel where
  descs   : List DmaDesc := []
  holder  : Option Nat := none
  susp    : Bool := false
  cond    : Half := 0#16
  faultVa : VirtAddr := 0#48
  row     : Word := 0#32
  offset  : BitVec 24 := 0#24
  addr    : BitVec 22 := 0#22
  gen     : Half := 0#16
  status  : Half := 0#16
deriving DecidableEq, Repr

/-! ### Cores (07, 09) -/

/-- A peg of the scoreboard (R176, Table 7-6) and the command that holds it. -/
structure Peg where
  serial : Nat
  write  : Bool
  owner  : BitVec 4
  half   : BitVec 2
  base   : Nat
  len    : Nat
deriving DecidableEq, Repr

/-- What core memory held, when a command with bypass issued, at a range that the command reads (R181). -/
structure Seen where
  serial : Nat
  base   : Nat
  bytes  : List Byte
deriving DecidableEq, Repr

/-- A running SEQ_LOOP (R218): first command of its body, first byte after it, count, index and index register. -/
structure LoopFrame where
  start : Nat
  stop  : Nat
  count : Dword
  index : Dword
  sidx  : BitVec 6
deriving DecidableEq, Repr

/-- What a core's stream belongs to (R33, R225, R476). -/
inductive Owner where
  | none
  | rank (job : Word) (rank : Nat)
  | carrier (k : CarrierId)
deriving DecidableEq, Repr

/-- Why a core is to be pre-empted (R228). -/
inductive PreReq where
  | claim
  | suspChan
  | host
  | repair
deriving DecidableEq, Repr

/-- What belongs to the stream on a core and moves with its rank (R231): program counter, loops, scalar registers, commands
waiting at issue, issued commands by unit, pegs, the pegs released at a preemption point that the resume takes again (R179, R230), what live commands with bypass may still read (R181), stakes,
channels, the tiles held in state blocks, the run ordinal of logical engine 3 (R236), the backed slots under
which its copies were formed (R470), VE_FLAGS. -/
structure Ctx where
  pc       : Nat := 0
  loops    : List LoopFrame := []
  sregs    : Vector Dword 64 := Vector.replicate 64 0#64
  waiting  : List CmdWord := []
  serial   : Nat := 0
  pegs     : List Peg := []
  shed     : List Peg := []
  seen     : List Seen := []
  engines  : Vector Engine 4 := Vector.replicate 4 {}
  run      : Nat := 0
  backed   : Nat := 4
  vec      : List VecOp := []
  panels   : List Panel := []
  veFlags  : Word := 0#32
  chans    : Vector Channel 8 := Vector.replicate 8 {}
  stakes   : Vector Word 16 := Vector.replicate 16 0#32
deriving DecidableEq, Repr

/-- A core: its owner, its context, its telemetry registers DM_STAT (Table 8-10) and CM_PEG_STAT wait counts (Table 7-5),
DM_PTROOT (Table 8-11), whether a rejection or a strike stopped its issuing (R223), the open preemption requests, whether the
preemption point is reached (R229), whether a map error holds it (R19), and the vestibule buffer of its DMA engine (R195). -/
structure Core where
  owner        : Owner := .none
  ctx          : Ctx := {}
  ahead        : List Ahead := []
  ptRoot       : Dword := 0#64
  discardKib   : Word := 0#32
  faults       : Half := 0#16
  conflictWait : Half := 0#16
  fullWait     : Half := 0#16
  stopped      : Bool := false
  preempt      : List PreReq := []
  atPoint      : Bool := false
  mapHeld      : Bool := false
  scrubbing    : Bool := false
deriving DecidableEq, Repr

/-! ### Jobs (09, 16, 19) -/

/-- A binding of job.submit (Table 16-7). -/
structure Bind where
  obj      : Word
  writable : Bool
  va       : Dword
deriving DecidableEq, Repr

/-- A rank of a job (R225): entry, footprint, affinity, the core it is on, its saved state while it is off its cores (R231),
the save area that holds that state, the core whose memory holds its data, and whether it has ended. -/
structure Rank where
  entry     : Nat
  footprint : Nat
  affinity  : Byte
  core      : Option CoreId := none
  saved     : Option Ctx := none
  area      : Nat := 0
  home      : CoreId := 0
  ended     : Bool := false
deriving DecidableEq, Repr

/-- States of Table 16-8; a running job that the host or the end of its training window suspended (R228, R365) shows as suspended. -/
inductive JobPhase where
  | queued
  | running
  | ended
deriving DecidableEq, Repr

/-- A job (R225, R414, Table 16-7, Table 16-8). `stop` is the status of a rejection or abort that stopped its issuing (R223,
R224); `since` the device time in ns from which it runs on cores; `held` the cores it held; `scrub` the regions not yet zeroed and
`pages` the physical ranges of its own pages (R478); `retire` the frames that leave allocation when it ends (R475); `carrier` the
carrier whose training job it is (R365); `pkgs` and `nodes` its packages and their nodes, `ix` the job package that this one is, `lead` the job
as its lead names it when that is another package (R425); `ready` the packages that placed their ranks, `go` that the ranks have started
on every package (R426), `doneBy` the packages whose ranks have all ended. -/
structure Job where
  id            : Word
  mailbox       : BitVec 4
  phase         : JobPhase
  status        : Half := 0#16
  ranks         : List Rank
  deterministic : Bool
  seed          : Dword
  faultLimit    : Word
  bundle        : Word
  queues        : List (List Dword)
  binds         : List Bind
  pkgs          : Nat := 1
  nodes         : List Nat := []
  ix            : Nat := 0
  lead          : Option JobRef := none
  ready         : List Nat := []
  go            : Bool := true
  doneBy        : List Nat := []
  root          : PhysAddr := 0#42
  hostSusp      : Bool := false
  winSusp       : Bool := false
  stop          : Option Half := none
  runNs         : Nat := 0
  since         : Option Nat := none
  preemptions   : Word := 0#32
  faults        : Word := 0#32
  counted       : Word := 0#32
  held          : List CoreId := []
  scrub         : List ScrubRegion := []
  pages         : List (Nat × Nat) := []
  retire        : List Nat := []
  carrier       : Option CarrierId := none
deriving DecidableEq, Repr

/-! ### Clusters, slots, dies (01, 19) -/

/-- Power state of a cluster (R449, R454, R455). -/
inductive ClusterPower where
  | gated
  | waking
  | starting (next : Nat)
  | up
deriving DecidableEq, Repr

/-- A cluster: CL_SPAREMAP and CL_SPAREMAP0 as written, and the mapping in effect, 20 bits of a core's four fields each
(R15, R467). -/
structure Cluster where
  map   : Dword
  map0  : Dword
  live  : Dword
  live0 : Dword
  power : ClusterPower := .gated
deriving DecidableEq, Repr

/-- Slot states of Table 19-2. -/
inductive SlotState where
  | active
  | spare
  | retired
  | failed
  | fusedOff
deriving DecidableEq, Repr

/-- HM_SLOT (Table 19-2): `faultsAt` holds the device times in ns of the ST_ENGINE_FAULT aborts that faults_24h counts; `retireDue`:
a retirement waits for the carrier's slot boundary (R472). The failed and retired states are the repair record (R467). -/
structure SlotRec where
  state     : SlotState
  faultsAt  : List Nat := []
  lag       : Half := 0#16
  corr      : Half := 0#16
  retireDue : Bool := false
deriving DecidableEq, Repr

/-- A compute die: DD_COAL_STAT (R198), its mutual authentication (R488), its retired frames and the corrected errors of
the last 24 h as (frame, device time in ns) (R475). -/
structure Die where
  coal     : Word := 0#32
  authed   : Bool := false
  retired  : List Nat := []
  corrAt   : List (Nat × Nat) := []
deriving DecidableEq, Repr

/-! ### Host interface (16) -/

/-- A message that the device sends: the header of Table 16-1 without its tag, the payload in clear, and the datagram as it goes out, with the tag
and the ciphertext of R396. -/
structure Msg where
  port    : Port
  session : Half
  typ     : Half
  prot    : Bool
  resp    : Bool
  unsol   : Bool
  seq     : Word
  token   : Half
  status  : Half
  payload : List Byte
  wire    : List Byte := []
deriving DecidableEq, Repr

/-- A remembered request of a session (R405): its mailbox, token, and its response once sent. -/
structure Token where
  mailbox : BitVec 4
  token   : Half
  resp    : Option Msg
deriving DecidableEq, Repr

/-- A session (R398 to R408): identifier, port, whether session.confirm opened it, whether it runs over IPv4, operator key and its roles, receive window
(highest accepted seq and the 64 flags of the values below it), next transmit seq, time of the last authenticated frame,
subscription mask, remembered tokens, counters of unsolicited messages by mailbox, records dropped by source (R390), the 72 bytes of key material and the
handshake digest TH (R401). -/
structure Session where
  id      : Half
  port    : Port
  isOpen  : Bool
  ipv4    : Bool := false
  keyId   : Dword := 0#64
  roles   : Byte := 0#8
  rxHigh  : Word := 0#32
  rxSeen  : Dword := 0#64
  txSeq   : Word := 1#32
  last    : Nat := 0
  mask    : Half := 0#16
  tokens  : List Token := []
  counts  : Cells 16 := []
  drops   : Cells 32 := []
  keys    : List Byte := []
  th      : List Byte := []
deriving DecidableEq, Repr

/-- A bulk object (R410): die, size, first physical byte, written bytes as ranges, sealed. -/
structure Obj where
  id      : Word
  die     : Fin 2
  size    : Nat
  base    : Nat
  written : List (Nat × Nat)
  isSealed : Bool
deriving DecidableEq, Repr

/-- Network settings of a Pleskabel port (Table 16-6) and its link. `hello`: dev.hello is owed each second (R394). -/
structure NetPort where
  mode   : Bool := false
  plen   : Byte := 0#8
  ipv4   : Word := 0#32
  up     : Bool := false
  hello  : Bool := false
deriving DecidableEq, Repr

/-- The host interface: sessions, objects, the ports (host, guy, eth0, eth1), messages queued and sent, discarded frames
(R395). -/
structure HostIf where
  sessions : List Session := []
  objects  : List Obj := []
  pHost    : NetPort := {}
  pGuy     : NetPort := {}
  pEth0    : NetPort := {}
  pEth1    : NetPort := {}
  txq      : List Msg := []
  sent     : List Msg := []
  discards : Word := 0#32
deriving DecidableEq, Repr

/-! ### Timing unit (15) -/

/-- Servo states (Table 15-2). -/
inductive Servo where
  | freerun
  | locking
  | locked
  | holdover
deriving DecidableEq, Repr

/-- One alarm (Table 15-6): staged low bits, the target it compares against, the arm and out fields and target_hi as written. -/
structure Alarm where
  lo     : Word := 0#32
  target : BitVec 40 := 0#40
  arm    : Bool := false
  out    : BitVec 2 := 0#2
deriving DecidableEq, Repr

/-- The timing unit: the accumulator in units of 2^-32 ns (R378), TU_CTL, TU_RATE, the fields of TU_STAT, the held rate word
(R384), the selected master and its announce state, good Syncs in a row (R382), the offset still to slew in 2^-32 ns (R383),
the mean path delay in 2^-16 ns (R380), the ESMC level, the alarms, and the frames that the transparent clock sent, as (port,
correctionField) (R385). -/
structure Timing where
  acc       : BitVec 96 := 0#96
  ctl       : Dword
  rate      : BitVec 48
  offset    : Word := 0#32
  epoch     : Byte := 0#8
  synceLock : Bool := false
  state     : Servo := .freerun
  held      : BitVec 48
  master    : Option Dword := none
  good      : Nat := 0
  slew      : Int := 0
  delay     : Int := 0
  ql        : Byte := 0#8
  alarms    : Vector Alarm 16 := Vector.replicate 16 {}
  forwarded : List (Nat × Dword) := []
deriving DecidableEq, Repr

/-! ### Health (19) -/

/-- Counters of Table 19-6, selector 0. -/
structure Health where
  failed     : Half := 0#16
  retired    : Half := 0#16
  strikes    : Word := 0#32
  faults     : Word := 0#32
  eccCorr    : Dword := 0#64
  eccUncorr  : Word := 0#32
  frames     : Word := 0#32
deriving DecidableEq, Repr

/-- Counters of Table 19-6, selector 2. -/
structure CarHealth where
  deadlineMiss : Word := 0#32
  differ       : Word := 0#32
  replays      : Dword := 0#64
  dspReloads   : Word := 0#32
  eccUncorr    : Word := 0#32
deriving DecidableEq, Repr

/-- Identity of the part: grade, serial number, MAC base, firmware and ROM versions, populated DDR5 per die, bad slots at test,
trim fuses, fused digests of the firmware keys and those revoked, fused digests of certificates 0 to 4, the hub die's private key, key identifier of
the firmware's signer, digest of the reference receiver, straps (R3, R393, R446, R466, R483, R486, R492, R505, Table 16-5). -/
structure Part where
  sh9632   : Bool
  serial   : BitVec 128
  macBase  : BitVec 48
  fwVer    : Word
  romVer   : Word
  ddrGib   : Half
  badSlots : BitVec 144
  trim     : BitVec 3
  fwSlots  : Vector (BitVec 384) 4
  revoked  : BitVec 4
  certs    : Vector (BitVec 384) 5
  hubPriv  : BitVec 384
  fwKey    : Dword
  refModel : BitVec 384
  straps   : Half
deriving DecidableEq, Repr

/-! ### Uplink and downlink schedules (10, 11) -/

/-- One PDU of a schedule (Tables 10-10 to 10-13, 11-2 to 11-4): its bytes, whether its outcome is known, the status it is reported
with, and whether its report is sent. Of a PUSCH block: the result frame fields of Table 10-14, the delivered bytes, the kept features of its captured tiles (R359), and what its
pair counts (learned failed, classical failed). Of a PDSCH PDU: the transport block bytes received, byte b at its offset as b + 1
(R296). -/
structure Pdu where
  bytes    : List Byte
  decided  : Bool := false
  status   : Half := 0#16
  reported : Bool := false
  path     : Byte := 0#8
  iters    : Byte := 0#8
  cbFail   : Byte := 0#8
  sinr     : Half := 0#16
  ta       : Half := 0#16
  data     : List Byte := []
  pair     : Option (Bool × Bool) := none
  feat     : List (Nat × List Byte) := []
  tb       : Cells 9 := []
  tbDone   : Bool := false
deriving DecidableEq, Repr

/-- The schedule of one slot: its slot reference, parts announced, parts received as (part, first PDU, PDUs), whether complete, and
the PDUs of the complete schedule; `late` (R273, R292); `ended`: the slot has ended, under receiver state `rx` and model `model`
(R264); `closed`: its deadline has passed (R245); `tiles`: capture tiles written or dropped, as (PDU, tile) (R360), under the
policy `pol` of the schedule's acceptance (R359); `early`: dl.tb payloads that
arrived before the schedule was complete (R296). -/
structure Sched where
  slot   : Word
  parts  : Nat := 0
  got    : List (Nat × Nat × List Pdu) := []
  ready  : Bool := false
  pdus   : List Pdu := []
  late   : Bool := false
  ended  : Bool := false
  rx     : Nat := 0
  model  : Word := 0#32
  closed : Bool := false
  done   : Bool := false
  tiles  : List (Nat × Nat) := []
  pol    : List Byte := []
  early  : List (List Byte) := []
deriving DecidableEq, Repr

/-- A HARQ process's soft buffer (R257): RNTI and process, ndi of its last block, combined LLR bytes; `owed`: its section is outstanding
(R436, R437). -/
structure SoftBuf where
  rnti : Half
  harq : BitVec 4
  ndi  : Bool
  soft : List Byte
  owed : Bool := false
deriving DecidableEq, Repr

/-- Receiver states (Table 10-3). -/
inductive RxState where
  | cOnly
  | probation
  | learned
  | fallback
deriving DecidableEq, Repr

/-- A weight set (R251): its bytes as cell.weights lays them out, the device time in ns since which it holds, and earlier contents with
theirs, newest first (R290). -/
structure WeightSet where
  num   : Nat
  bytes : List Byte
  since : Nat := 0
  old   : List (Nat × List Byte) := []
deriving DecidableEq, Repr

/-- What a TX path of the DFE still holds of the samples before the running symbol (R301): baseband samples at 122.88 MS/s, ramp gains at
245.76 MS/s, the cyclic extension of the last symbol (R306), and the samples that it placed on its lanes for that symbol. -/
structure TxPath where
  path  : Nat
  base  : List (FV × FV) := []
  gains : List FV := []
  ext   : List (FV × FV) := []
  out   : List (Int × Int) := []
deriving DecidableEq, Repr

/-- What the DFE measured on an RX path in a symbol (R310): level in 0.25 dB, none for a symbol without any power, and clipped samples. -/
structure RxMeas where
  path  : Nat
  level : Option Int
  clips : Nat
deriving DecidableEq, Repr

/-- Lines that 7.2x packets brought for a symbol (R318): path, symbol, lanes. -/
structure UpLine where
  path  : Nat
  sym   : Nat
  lanes : List Word
deriving DecidableEq, Repr

/-- A sent U-plane symbol of a path: exponent and mantissas of each PRB (R317). -/
structure FhSym where
  slot : Word
  path : Nat
  sym  : Nat
  prbs : List (BitVec 4 × List Int)
deriving DecidableEq, Repr

/-- A sent C-plane message (R319): section type 1 for a symbol range, or 3 for a PRACH occasion. -/
structure FhCtl where
  slot    : Word
  section3 : Bool
  up      : Bool
  sym     : Nat
  count   : Nat
deriving DecidableEq, Repr

/-! ### Calibration (13) -/

/-- What a path's capture of one burst gives (R355): delay in ps, correlation at the peak, reference energy, power of the capture, and the bits of
the data symbols. -/
structure CalGot where
  path   : Nat
  delay  : Int
  re     : Int
  im     : Int
  energy : Nat
  power  : Nat
  bits   : List Bool
deriving DecidableEq, Repr

/-- A calibration round (R346, R349): its counter value, direction, DF_CAL under which it started, transmitting paths, the sequence and the
frame of each, data symbols sent, bursts, slot of the last burst, whether it ended early, and what each burst gave. -/
structure CalRound where
  round   : Half
  rx      : Bool
  reg     : Dword
  paths   : List Nat
  frames  : List (Nat × Nat × BitVec 48)
  sentSym : Nat := 0
  bursts  : Nat := 0
  last    : Word := 0#32
  aborted : Bool := false
  got     : List (List CalGot) := []
deriving DecidableEq, Repr

/-- A burst as sent (R350 to R352): slot, first guard symbol, first data symbol of the frame, data symbols, its first sample from the start of
counting at the TX link's rate, and the samples of each transmitting path. -/
structure CalBurst where
  slot  : Word
  sym   : Nat
  round : Half
  first : Nat
  count : Nat
  start : Nat := 0
  wave  : List (Nat × List (Int × Int)) := []
deriving DecidableEq, Repr

/-- The beacon of a carrier (R346, R351): round counter, the running round, TX paths covered in the cycle, rounds that have ended and await
their result, bursts sent. -/
structure Cal where
  round   : Half := 0#16
  cur     : Option CalRound := none
  covered : List Nat := []
  done    : List CalRound := []
  sent    : List CalBurst := []
deriving DecidableEq, Repr

/-! ### Models and learning (14, 20) -/

/-- A model of a carrier: identifier, image, digest, training record (Table 20-6), validated (R371), whether it is a device candidate,
whether it was reinstated by a revert (R374), its base, whether its job's policy swaps it in by itself (R371), and the train.result
fields from base_id on. -/
structure Model where
  id         : Word
  image      : List Byte
  digest     : BitVec 384
  trec       : List Byte
  validated  : Bool := true
  candidate  : Bool := false
  reinstated : Bool := false
  base       : Word := 0#32
  auto       : Bool := false
  report     : List Byte := []
deriving DecidableEq, Repr

/-- A capture ring (Table 14-2) and its records by ring position. -/
structure Ring where
  cap     : Nat
  nextK   : Nat := 0
  firstK  : Nat := 0
  lock    : Option (Nat × Nat) := none
  dropped : Dword := 0#64
  recs    : List (Nat × List Byte) := []
deriving DecidableEq, Repr

/-- The training job of a carrier (R365, R366): job, base model and its image, policy it was submitted with, protected ranges. -/
structure Training where
  job    : Word
  base   : Word
  image  : List Byte := []
  policy : List Byte
  train  : Nat × Nat
  hold   : Nat × Nat
deriving DecidableEq, Repr

/-- The policy block of Table 14-3 with its defaults. -/
def policyDefault (c : Nat) : List Byte :=
  [BitVec.ofNat 8 c, 0x03#8, 0x00#8, 0x04#8, 0x02#8, 0x08#8, 0#8, 0#8] ++ List.replicate 8 0#8
    ++ [0#8, 0#8, 1#8, 0#8] ++ [0#8, 0x20#8, 0#8, 0#8] ++ [0#8, 0x10#8, 0#8, 0#8] ++ [20#8, 0#8] ++ [10#8, 0#8] ++ [0#8, 0x10#8, 0#8, 0#8]
    ++ [120#8, 0#8] ++ [180#8, 0#8] ++ [9#8, 2#8] ++ [0#8, 2#8] ++ [0#8, 0#8, 0x80#8, 0x38#8] ++ [0x0A#8, 0xD7#8, 0x23#8, 0x3C#8]
    ++ [0#8, 0#8, 0#8, 0#8] ++ List.replicate 8 0#8

/-! ### Carriers -/

/-- A carrier: the cell.configure payload in effect or none (Table 16-9), the payload that takes effect at the next slot boundary (R415),
removal pending, its first slot index (R514) and whether it is reached, the index of the running slot; home cluster, floor and lift cores
(R32), lift cores held (R247), claims awaiting preemption; receiver state, force and window counters (R262 to R266); weight sets;
schedules; soft buffers; measured RX paths; TX paths; received 7.2x lines, dropped and duplicate packets; sent 7.2x symbols
and C-plane messages; JESD204C lanes that lost lock in the symbol (R320); downlink symbols sent as
zero in this slot; gains and pending gains per RX path; model slots, swap in progress, later swaps, and its boundary, the old slot's guard (R372);
policy in force and the one that waits; rings, capture counter, training job; frames to retire at cell.remove (R475); last
checkpoint (R433); on a standby whether a resync is outstanding (R437), on an active the sections that later records carry (R436). -/
structure Carrier where
  cfg       : Option (List Byte) := none
  change    : Option (List Byte) := none
  removing  : Bool := false
  firstIx   : Nat := 0
  started   : Bool := false
  slotIx    : Nat := 0
  home      : ClusterId := 0
  floor     : List CoreId := []
  lift      : List CoreId := []
  held      : Bool := false
  rx        : RxState := .cOnly
  force     : Bool := false
  pairs     : Nat := 0
  failL     : Nat := 0
  failC     : Nat := 0
  weights   : List WeightSet := []
  ul        : List Sched := []
  dl        : List Sched := []
  soft      : List SoftBuf := []
  meas      : List RxMeas := []
  txPath    : List TxPath := []
  upLines   : List UpLine := []
  upDropped : Word := 0#32
  upDup     : Word := 0#32
  fhSent    : List FhSym := []
  fhCtl     : List FhCtl := []
  laneLost  : BitVec 18 := 0#18
  txZero    : BitVec 14 := 0#14
  gains     : Cells 5 := []
  gainNext  : List (Nat × Nat) := []
  live      : Option Model := none
  prev      : Option Model := none
  cand      : Option Model := none
  loaded    : Option Model := none
  swap      : Option Model := none
  swapq     : List Model := []
  swapIx    : Option Nat := none
  guardSlot : Option Word := none
  policy    : List Byte := []
  policyNew : Option (List Byte) := none
  winPolicy : Nat × Nat := (4096, 10)
  train     : Ring := { cap := 65536 }
  hold      : Ring := { cap := 8192 }
  capCount  : Dword := 0#64
  job       : Option Training := none
  retire    : List Nat := []
  lastCkpt  : Word := 0#32
  resync    : Bool := false
  carry     : List (List Byte) := []
  cal       : Cal := {}
  health    : CarHealth := {}
deriving DecidableEq, Repr

/-! ### Digital front end (11) -/

/-- DPD of a TX path (R305): the set in use with the error under which it was fitted, the previous one, the one that waits for the slot
boundary (`back`: it is the previous one), and whether the slot that runs is the first of the set in use. -/
structure Dpd where
  cur     : List Dword := []
  prev    : Option (List Dword) := none
  prevErr : Int := 0
  wait    : Option (List Dword) := none
  back    : Bool := false
  fresh   : Bool := false
deriving DecidableEq, Repr

/-- The DFE and JESD204C registers (Tables 11-7 to 11-14, 13-3), register entries that wait for a carrier's boundary as (carrier,
register, index, value), mutes and mutes that wait, violation counts by 4 × path + band, DPD sets, LEMC alignment, locked lanes. -/
structure Dfe where
  firCtl  : Vector Word 8 := Vector.replicate 8 0xC80#32
  firCoef : Cells 32 := []
  cfr     : Vector Word 4 := Vector.replicate 4 0x0003405A#32
  dpdReg  : Vector Word 64 := Vector.replicate 64 0x9A#32
  ramp    : Vector Word 4 := Vector.replicate 4 0x500FA0C8#32
  rampTab : Cells 32 := []
  mask    : Vector Dword 16 := Vector.replicate 16 (BitVec.ofNat 64 (450 * 2 ^ 19 + 3 * 2 ^ 14))
  agc     : Vector Dword 4 := Vector.replicate 4
    (BitVec.ofNat 64 (31 * 2 ^ 53 + 16 * 2 ^ 43 + 2 ^ 39 + 6 * 2 ^ 35 + 4 * 2 ^ 31 + 32000 * 2 ^ 16 + 0xB8 * 2 ^ 8 + 32))
  calReg  : Vector Dword 4 := Vector.replicate 4
    (BitVec.ofNat 64 (3 * 2 ^ 61 + 5 * 2 ^ 58 + 2 ^ 57 + 40 * 2 ^ 50 + 2 ^ 20 + 16 * 2 ^ 15 + 15 * 2 ^ 11))
  jsCfg   : Dword := 0x20000#64
  queued  : List (Nat × Nat × Nat × Dword) := []
  muted   : Dword := 0#64
  muteDue : Dword := 0#64
  viol    : Cells 4 := []
  dpd     : Vector Dpd 64 := Vector.replicate 64 {}
  aligned : Bool := false
  locked  : BitVec 18 := 0x3FFFF#18
deriving DecidableEq, Repr

/-! ### Radio DSP cores (12) -/

/-- Where a result of a DSP instruction goes (Table 12-5); `acLow`: bits 31:0 of an accumulator (R329). -/
inductive DspDest where
  | d (i : Nat)
  | a (i : Nat)
  | o (i : Nat)
  | ac (i : Nat)
  | acLow (i : Nat)
  | cr (i : Nat)
  | flags
deriving DecidableEq, Repr

/-- A result on its way: issue cycles left, destination, value, and whether a MAC formed it (R328). -/
structure DspPend where
  left : Nat
  dest : DspDest
  val  : BitVec 64
  mac  : Bool := false
deriving DecidableEq, Repr

/-- A DSP DMA channel (R341): the descriptor of the running transfer. -/
structure DspChan where
  run  : Option (List Byte) := none
  done : Bool := false
deriving DecidableEq, Repr

/-- A branch in its delay bundles (R334): bundles left, target, whether it is taken, and whether it is RTI. -/
structure DspBranch where
  left   : Nat
  target : BitVec 17
  taken  : Bool
  rti    : Bool
deriving DecidableEq, Repr

/-- A DSP core (R321 to R341): registers, control registers by number (IPEND, CYC and ACG have their own homes), pending writes, program
counter, a branch in its delay bundles, bundles since a MOVC to FL, a bundle held at issue by WAIT or a busy channel, a stop that
waits for a transfer (Table 12-14), local memory, DMA
channels, DS_CTL, DS_STAT. -/
structure Dsp where
  d      : Vector Word 16 := Vector.replicate 16 0#32
  ac     : Vector (BitVec 40) 4 := Vector.replicate 4 0#40
  x      : Word := 0#32
  y      : Word := 0#32
  a      : Vector (BitVec 17) 8 := Vector.replicate 8 0#17
  o      : Vector (BitVec 17) 8 := Vector.replicate 8 0#17
  cr     : Vector Word 32 := Vector.replicate 32 0#32
  ipend  : BitVec 3 := 0#3
  cyc    : Word := 0#32
  pend   : List DspPend := []
  pc     : BitVec 17 := 0#17
  branch : Option DspBranch := none
  shadow : Nat := 0
  held   : Option (Word × Word) := none
  stopping : Bool := false
  chans  : Vector DspChan 4 := Vector.replicate 4 {}
  mem    : Cells 8 := []
  ctl    : Word := 0#32
  halted : Bool := true
  cause  : BitVec 4 := 0#4
  fault  : BitVec 17 := 0#17
deriving DecidableEq, Repr

/-- A window of a kernel (R343): scratch bytes, or the grid ring of a carrier. -/
inductive Window where
  | scratch (size : Nat) (bytes : Cells 8)
  | ring (k : CarrierId)
deriving DecidableEq, Repr

/-- A loaded kernel (R342): identifier, its cores, windows. -/
structure Kernel where
  id      : Word
  cores   : List DspId
  windows : List Window
deriving DecidableEq, Repr

/-! ### Trail (17) -/

/-- A message on its way (R423): destination, number, class, bytes, and what it asks of its destination. -/
structure TrailMsg where
  node  : Nat
  num   : Nat
  cls   : BitVec 2
  bytes : List Byte
  body  : TrailBody := .other
deriving DecidableEq, Repr

/-- A flit of Table 17-1 but for its link numbers and CRC. -/
structure TrailFlit where
  typ     : Byte
  cls     : BitVec 2
  dst     : BitVec 3
  src     : BitVec 3
  msg     : Byte
  payload : List Byte
deriving DecidableEq, Repr

/-- A trail port (R420 to R424, Table 17-2): counters, neighbour, lock and up, next sequence number to send and expected, flits sent and not
acknowledged, flits that wait, the last answer (nak, number expected), and the messages being assembled by source and class. -/
structure TrailPort where
  replays : Half := 0#16
  crcErrs : Half := 0#16
  fecCorr : Half := 0#16
  nbrNode : BitVec 3 := 0#3
  nbrPort : BitVec 2 := 0#2
  lock    : Bool := false
  up      : Bool := false
  txSeq   : BitVec 12 := 0#12
  rxSeq   : BitVec 12 := 0#12
  replay  : List TrailFlit := []
  queue   : List TrailFlit := []
  answer  : Option (Bool × BitVec 12) := none
  part    : List (BitVec 3 × BitVec 2 × List Byte) := []
deriving DecidableEq, Repr

/-- The trail: its ports, links between other nodes, messages not yet acknowledged end to end, the next message number, accepted
(source, number) pairs, end-to-end acknowledgements sent, delivered messages (source, class, bytes). -/
structure Trail where
  ports   : Vector TrailPort 4 := Vector.replicate 4 {}
  links   : List (BitVec 3 × BitVec 3) := []
  unacked : List TrailMsg := []
  nextNum : Nat := 0
  taken   : List (BitVec 3 × Nat) := []
  acks    : List (BitVec 3 × Nat) := []
  inbox   : List (BitVec 3 × BitVec 2 × List Byte) := []
deriving DecidableEq, Repr

/-! ### Twin (17) -/

inductive TwinRole where
  | unpaired
  | active
  | standby
  | isolated
deriving DecidableEq, Repr

/-- The twin (R432 to R443): role, pairing payload, formed, heartbeat counter sent, the counters of the guy line (R396), last peer heartbeat
and its payload, declared loss and its boundary, planned boundary, checkpoint records sent, carriers reported as not in step. -/
structure Twin where
  role     : TwinRole := .unpaired
  pairing  : List Byte := []
  formed   : Bool := false
  beat     : Word := 0#32
  guy      : Session := { id := 0#16, port := .guy, isOpen := true }
  peerBeat : Word := 0#32
  peer     : List Byte := []
  takeAt   : Option Nat := none
  planAt   : Option Nat := none
  records  : List (List Byte) := []
  told     : BitVec 4 := 0#4
deriving DecidableEq, Repr

/-! ### Power and the Lantern domain (18) -/

inductive PowerState where
  | active
  | standby
  | bivouac
deriving DecidableEq, Repr

/-- Power (Tables 18-9, 18-10): state (which PM_CTL resets to 0, Active, and the boot sets to Standby), site cap, job duty, step, ceiling, VID code, a step that waits for its VID; average, peak and
junction readings; evaluations in a row below 0.95 × cap, and over the cap at the floor with no duty; thermal excursion, tripped. -/
structure Power where
  state   : PowerState := .active
  capW    : Byte := 0#8
  duty    : Nat := 16
  step    : BitVec 2 := 1#2
  ceiling : BitVec 2 := 3#2
  vid     : BitVec 7 := 20#7
  rising  : Option (BitVec 2) := none
  avgMw   : Word := 0#32
  peakMw  : Word := 0#32
  tj      : Half := 0#16
  below   : Nat := 0
  overCap : Nat := 0
  hot     : Bool := false
  tripped : Bool := false
deriving DecidableEq, Repr

/-- The Lantern domain (Tables 18-8, 18-9): powered, wake cause, supplies, switched, wake mask and time, retention digest, cold flag,
failed bank sequence numbers (R507), the package quote key's private key and certificate 5 as its signed part and r ‖ s (R485). -/
structure Lantern where
  powered   : Bool := true
  wakeCause : Byte := 0#8
  bkpOk     : Bool := false
  mainOk    : Bool := false
  onBkp     : Bool := false
  switched  : Bool := false
  wakeMask  : BitVec 3 := 0#3
  wakeTime  : Dword := 0#64
  digest    : Option (BitVec 384) := none
  cold      : Bool := false
  failedSeq : List Word := []
  quoteKey  : Option (BitVec 384) := none
  cert5     : List Byte × List Byte := ([], [])
deriving DecidableEq, Repr

/-! ### Security (20) -/

/-- A key of the owner store (R496). -/
structure OwnerKey where
  id    : Dword
  roles : Byte
  key   : List Byte
deriving DecidableEq, Repr

/-- Anti-rollback counters (R494), owner store (R496), measurement registers and their extend counts (R500). -/
structure Security where
  counters : Vector (BitVec 9) 64 := Vector.replicate 64 0#9
  owners   : List OwnerKey := []
  regs     : Vector (BitVec 384) 16 := Vector.replicate 16 0#384
  counts   : Vector Half 16 := Vector.replicate 16 0#16
deriving DecidableEq, Repr

/-! ### Boot (21) -/

inductive BootPhase where
  | reset
  | enabled
  | booting (bankB : Bool)
  | running
  | hold
  | dieFail
  | halt
  | bivouac
deriving DecidableEq, Repr

/-- A flash bank: its header as magic valid, seq (Table 21-4). -/
structure Bank where
  valid : Bool := true
  seq   : Word := 0#32
deriving DecidableEq, Repr

/-- Boot (R504 to R512): phase, banks, the booted bank, a bank being written with its new seq, what the boot ROM last found, warm exit
in progress, floor that counter 0 takes at Standby (R495). -/
structure Boot where
  phase   : BootPhase := .reset
  bankA   : Bank := { seq := 1#32 }
  bankB   : Bank := {}
  booted  : Option Bool := none
  writing : Bool := false
  finding : Option BootFinding := none
  warm    : Bool := false
  floorA  : Nat := 0
  floorB  : Nat := 0
deriving DecidableEq, Repr

/-! ### Pins (22) -/

/-- Output balls (Table 22-3): PWR_EN, BOOT_STAT, THERMTRIP_N, XP_OWN, pulses on PPS_OUT, TU_OUT0, TU_OUT1, PA_EN, ORX selections, the
radio gain interface's latched gains and its loads, TX lanes zeroed by a trip. -/
structure Pins where
  pwrEn    : Bool := false
  bootStat : Bool := false
  tripN    : Bool := true
  xpOwn    : Bool := false
  pps      : Nat := 0
  tuOut0   : Nat := 0
  tuOut1   : Nat := 0
  paEn     : Half := 0#16
  orx0     : BitVec 6 := 0#6
  orx1     : BitVec 6 := 0#6
  rg       : Vector (BitVec 5) 64 := Vector.replicate 64 0#5
  rgLoads  : Nat := 0
deriving DecidableEq, Repr

/-! ### The block -/

/-- The whole state of the block. -/
structure State where
  pending  : List Instr := []
  freeCtr  : Nat := 0
  mem      : Cells 8 := []
  part     : Part
  clusters : Vector Cluster 8
  slots    : Vector SlotRec 144
  dies     : Vector Die 2 := Vector.replicate 2 {}
  cores    : Vector Core 32 := Vector.replicate 32 {}
  jobs     : List Job := []
  nextJob  : Word := 1#32
  carriers : Vector Carrier 4 := Vector.replicate 4 {}
  models   : Word := 0#32
  nextMod  : Word := 2#32
  dfe      : Dfe := {}
  dsps     : Vector Dsp 16 := Vector.replicate 16 {}
  kernels  : List Kernel := []
  nextKern : Word := 1#32
  seqs     : Cells 32 := []
  events   : List (List Byte) := []
  host     : HostIf := {}
  time     : Timing
  trail    : Trail := {}
  twin     : Twin := {}
  power    : Power := {}
  lantern  : Lantern := {}
  security : Security := {}
  boot     : Boot := {}
  pins     : Pins := {}
  health   : Health := {}
deriving DecidableEq, Repr

/-- CL_SPAREMAP of a cluster without bad slots: logical engine e of local core c in slot 4 c + e (Table 1-2). -/
def sparemapReset : Dword := 0x07B9AC5A928398A4#64

/-- CL_SPAREMAP0 of a cluster without bad slots: slots 0 to 3 (Table 1-2). -/
def sparemap0Reset : Dword := 0x18820#64

/-- TU_CTL at reset (Table 15-3). -/
def tuCtlReset : Dword := BitVec.ofNat 64 (1000 * 2 ^ 48 + 10 * 2 ^ 40 + 100 * 2 ^ 24 + 24 * 2 ^ 16 + 0x24)

/-- The machine right after the Lantern power-on reset (R377, R461, R504): a part of grade SH-9640 without bad slots (log 4), device time
0, PWR_EN low, every other unit unpowered at the values its tables give for reset. -/
def State.reset : State where
  part := { sh9632 := false, serial := 0#128, macBase := 0#48, fwVer := 0#32, romVer := 0#32, ddrGib := 16#16, badSlots := 0#144,
            trim := 0#3, fwSlots := Vector.replicate 4 0#384, revoked := 0#4, certs := Vector.replicate 5 0#384, hubPriv := 1#384, fwKey := 0#64, refModel := 0#384, straps := 0#16 }
  clusters := Vector.replicate 8 { map := sparemapReset, map0 := sparemap0Reset, live := sparemapReset, live0 := sparemap0Reset }
  slots := Vector.ofFn fun i : Fin 144 => { state := if i.val % 18 < 16 then .active else .spare }
  time := { ctl := tuCtlReset, rate := 0x200000000#48, held := 0x200000000#48 }

end Sys2Proof.Machine
end

