-- ==== Sys2Proof/Machine/Ops.lean ====
section
/-!
DEFINITION. Named operations over the state: memory, cores, contexts, jobs, free values, device time, record numbering, event and
completion records, and frames to the host.
-/
namespace Sys2Proof.Machine

/-! ### Status codes (Table 16-12) -/
def stOk : Half := 0x0000#16
def stMsgInvalid : Half := 0x0101#16
def stMboxFull : Half := 0x0102#16
def stNoSession : Half := 0x0103#16
def stStaleToken : Half := 0x0104#16
def stBulkMissing : Half := 0x0105#16
def stBulkDigest : Half := 0x0106#16
def stObjectUnknown : Half := 0x0107#16
def stPortWrong : Half := 0x0108#16
def stJobUnknown : Half := 0x0201#16
def stQueueFull : Half := 0x0202#16
def stJobKilled : Half := 0x0203#16
def stCmdInvalid : Half := 0x0204#16
def stChainReject : Half := 0x0205#16
def stNondet : Half := 0x0206#16
def stBundleInvalid : Half := 0x0207#16
def stJobState : Half := 0x0208#16
def stJobUnplaceable : Half := 0x0209#16
def stPageUnresolved : Half := 0x0302#16
def stPageFault : Half := 0x0301#16
def stPermDenied : Half := 0x0303#16
def stAtomicTarget : Half := 0x0304#16
def stRearmBusy : Half := 0x0305#16
def stPhysHole : Half := 0x0306#16
def stPtInvalid : Half := 0x0307#16
def stScaleSkew : Half := 0x0401#16
def stHeaderInvalid : Half := 0x0402#16
def stDeadlineMiss : Half := 0x0501#16
def stCrcFail : Half := 0x0502#16
def stSchedLate : Half := 0x0503#16
def stPduInvalid : Half := 0x0504#16
def stTbLate : Half := 0x0505#16
def stMaskViolation : Half := 0x0506#16
def stJesdLink : Half := 0x0507#16
def stCfgBusy : Half := 0x0508#16
def stDspFault : Half := 0x0509#16
def stKernelInvalid : Half := 0x050A#16
def stCalUnavailable : Half := 0x050B#16
def stCalAborted : Half := 0x050C#16
def stValidationFail : Half := 0x050D#16
def stModelStale : Half := 0x050E#16
def stTrainData : Half := 0x050F#16
def stCellInvalid : Half := 0x0510#16
def stModelInvalid : Half := 0x0511#16
def stTimeHoldover : Half := 0x0601#16
def stTimeFreerun : Half := 0x0602#16
def stTimeStep : Half := 0x0603#16
def stSigInvalid : Half := 0x0701#16
def stCertInvalid : Half := 0x0702#16
def stRollback : Half := 0x0703#16
def stKeyUnknown : Half := 0x0704#16
def stSessionLimit : Half := 0x0705#16
def stDieAuth : Half := 0x0706#16
def stPowerState : Half := 0x0801#16
def stCapUnmet : Half := 0x0802#16
def stMainLost : Half := 0x0803#16
def stThermal : Half := 0x0804#16
def stEccUncorr : Half := 0x0901#16
def stEngineFault : Half := 0x0902#16
def stEngineRetired : Half := 0x0903#16
def stSparesExhausted : Half := 0x0904#16
def stTwinLost : Half := 0x0A01#16
def stTwinTakeover : Half := 0x0A02#16
def stTrailDown : Half := 0x0A03#16
def stPkgCount : Half := 0x0A04#16

/-! ### Cores and contexts -/

def State.core (s : State) (c : CoreId) : Core := s.cores.get c
def State.setCore (s : State) (c : CoreId) (k : Core) : State := { s with cores := s.cores.set c k }
def State.modCore (s : State) (c : CoreId) (f : Core → Core) : State := s.setCore c (f (s.core c))
def State.ctx (s : State) (c : CoreId) : Ctx := (s.core c).ctx
def State.setCtx (s : State) (c : CoreId) (x : Ctx) : State := s.setCore c { s.core c with ctx := x }
def State.modCtx (s : State) (c : CoreId) (f : Ctx → Ctx) : State := s.setCtx c (f (s.ctx c))

def Ctx.sreg (x : Ctx) (r : Nat) : Dword := x.sregs[r % 64]'(Nat.mod_lt _ (by decide))
def Ctx.setSreg (x : Ctx) (r : Nat) (v : Dword) : Ctx := { x with sregs := x.sregs.set (r % 64) v (Nat.mod_lt _ (by decide)) }
def Ctx.engine (x : Ctx) (e : Nat) : Engine := x.engines[e % 4]'(Nat.mod_lt _ (by decide))
def Ctx.setEngine (x : Ctx) (e : Nat) (g : Engine) : Ctx := { x with engines := x.engines.set (e % 4) g (Nat.mod_lt _ (by decide)) }
def Ctx.modEngine (x : Ctx) (e : Nat) (f : Engine → Engine) : Ctx := x.setEngine e (f (x.engine e))
def Ctx.chan (x : Ctx) (h : Nat) : Channel := x.chans[h % 8]'(Nat.mod_lt _ (by decide))
def Ctx.setChan (x : Ctx) (h : Nat) (k : Channel) : Ctx := { x with chans := x.chans.set (h % 8) k (Nat.mod_lt _ (by decide)) }
def Ctx.modChan (x : Ctx) (h : Nat) (f : Channel → Channel) : Ctx := x.setChan h (f (x.chan h))
def Ctx.stake (x : Ctx) (i : Nat) : Word := x.stakes[i % 16]'(Nat.mod_lt _ (by decide))
def Ctx.setStake (x : Ctx) (i : Nat) (v : Word) : Ctx := { x with stakes := x.stakes.set (i % 16) v (Nat.mod_lt _ (by decide)) }

/-! ### Memory (R8, R29) -/

/-- The physical address of a byte of a core's memory (R29). -/
def coreAddr (c : CoreId) (a : Nat) : Nat := Config.coreMemBase + c.val * Config.coreMemStep + a

def State.readPhys (s : State) (a n : Nat) : List Byte := s.mem.slice a n
def State.writePhys (s : State) (a : Nat) (bs : List Byte) : State := { s with mem := s.mem.splice a bs }
def State.readCore (s : State) (c : CoreId) (a n : Nat) : List Byte := s.readPhys (coreAddr c a) n
def State.writeCore (s : State) (c : CoreId) (a : Nat) (bs : List Byte) : State := s.writePhys (coreAddr c a) bs
def State.erasePhys (s : State) (a n : Nat) : State := { s with mem := s.mem.erase a n }

/-- A little-endian word of `n` bytes of a core's memory. -/
def State.loadCore (s : State) (c : CoreId) (a n : Nat) : Nat := leNat (s.readCore c a n)

/-- Bytes of populated DDR5 per die: at most 192 GiB (R30). -/
def State.ddrBytes (s : State) : Nat := min s.part.ddrGib.toNat 192 * 0x40000000

/-- The sub-channel of an offset in a die's DDR5 window (R30). -/
def ddrSub (off : Nat) : Nat := off / 256 % 6

/-- What a physical address is (R29, R31); an address of DDR5 with its die and sub-channel. -/
inductive PhysKind where
  | ddr (die sub : Nat)
  | die (die : Nat)
  | core (c : CoreId)
  | forbidden
deriving DecidableEq, Repr

def State.physKind (s : State) (a : Nat) : PhysKind :=
  if a < 0x08000000000 then
    (let die := a / 0x04000000000
     let off := a - die * 0x04000000000
     if off < s.ddrBytes then .ddr die (ddrSub off) else .forbidden)
  else if a < 0x08000000000 + Config.dieMemBytes then .die 0
  else if 0x08100000000 ≤ a ∧ a < 0x08100000000 + Config.dieMemBytes then .die 1
  else if Config.coreMemBase ≤ a ∧ a < Config.coreMemBase + 32 * Config.coreMemStep then
    (let o := a - Config.coreMemBase
     if o % Config.coreMemStep < Config.coreMemBytes then .core (Fin.ofNat 32 (o / Config.coreMemStep)) else .forbidden)
  else .forbidden

/-- A populated DDR5 byte of a die. -/
def State.onDdr (s : State) (die a : Nat) : Bool :=
  match s.physKind a with
  | .ddr d _ => d == die
  | _ => false

/-! ### Free values (log 2) -/

/-- The next free value, and the state with the counter advanced. -/
def State.draw (s : State) : Dword × State := (Config.freeWord s.freeCtr, { s with freeCtr := s.freeCtr + 1 })

/-- `n` free 64-bit values. -/
def State.drawMany (s : State) (n : Nat) : List Dword × State :=
  ((List.range n).map (fun i => Config.freeWord (s.freeCtr + i)), { s with freeCtr := s.freeCtr + n })

/-- `n` free bytes. -/
def State.drawBytes (s : State) (n : Nat) : List Byte × State :=
  let (ws, s) := s.drawMany ((n + 7) / 8)
  (((ws.map fun w => leBytes 8 w.toNat).flatten).take n, s)

/-! ### Device time (R377, R378) -/

/-- Device time in nanoseconds, 64 bits. -/
def State.nowNs (s : State) : Nat := s.time.acc.toNat / 2 ^ 32
/-- The 16-bit fraction of device time. -/
def State.nowFrac (s : State) : Nat := s.time.acc.toNat / 2 ^ 16 % 2 ^ 16
/-- The short format of Table 15-1. -/
def State.shortTime (s : State) : Nat := s.nowNs % 2 ^ 48 * 2 ^ 16 + s.nowFrac
/-- The full format of Table 15-1, 16 bytes. -/
def State.fullTime (s : State) : List Byte := leBytes 8 s.nowNs ++ leBytes 2 s.nowFrac ++ leBytes 6 0

/-! ### Locations and sources (R20, Table 15-8) -/

def locSlot (slot : Nat) : Nat := slot
def locEngine (e : Nat) (half : Nat) : Nat := 0x2000 + half * 0x100 + e
def locCore (c : Nat) : Nat := 0x4000 + c
def locCluster (k : Nat) : Nat := 0x6000 + k

/-- A source word (Table 15-8). -/
def srcWord (cls index : Nat) : Word := BitVec.ofNat 32 (cls * 0x10000000 + index)

/-- The next sequence number of a source (R388). -/
def State.takeSeq (s : State) (src : Word) : Word × State :=
  let n := s.seqs.get src.toNat
  (n, { s with seqs := s.seqs.set src.toNat (n + 1#32) })

/-! ### Frames to the host (16) -/

def isPort100G : Port → Bool
  | .eth0 => true
  | .eth1 => true
  | _ => false

def State.session (s : State) (sid : Half) : Option Session := s.host.sessions.find? (fun x => x.id == sid)

def State.modSession (s : State) (sid : Half) (f : Session → Session) : State :=
  { s with host := { s.host with sessions := s.host.sessions.map fun x => if x.id == sid then f x else x } }

def HostIf.net (h : HostIf) : Port → NetPort
  | .host => h.pHost
  | .guy => h.pGuy
  | .eth0 => h.pEth0
  | .eth1 => h.pEth1

def HostIf.setNet (h : HostIf) (p : Port) (n : NetPort) : HostIf :=
  match p with
  | .host => { h with pHost := n }
  | .guy => { h with pGuy := n }
  | .eth0 => { h with pEth0 := n }
  | .eth1 => { h with pEth1 := n }

/-- End a session: it leaves the table, its queued frames are discarded, and on a 1000BASE-T1 port dev.hello starts again when
no session is left (R394, R403). -/
def State.endSession (s : State) (sid : Half) : State :=
  match s.session sid with
  | none => s
  | some x =>
    let rest := s.host.sessions.filter (fun y => y.id != sid)
    let h := { s.host with
      sessions := rest
      txq := s.host.txq.filter (fun m => !(m.session == sid && m.prot)) }
    let again := (x.port == .host || x.port == .guy) && rest.all (fun y => !(y.port == x.port && y.isOpen))
    { s with host := if again then h.setNet x.port { h.net x.port with hello := (h.net x.port).up } else h }

/-! ### Protection (R395, R396, R401) -/

def Session.keyIn (x : Session) : List Byte := x.keys.take 32
def Session.keyOut (x : Session) : List Byte := (x.keys.drop 32).take 32
def Session.saltIn (x : Session) : List Byte := (x.keys.drop 64).take 4
def Session.saltOut (x : Session) : List Byte := (x.keys.drop 68).take 4

/-- The nonce of a frame: the salt, four zero bytes and seq (R396). -/
def gcmNonce (salt : List Byte) (seq : Word) : List Byte := salt ++ leBytes 4 0 ++ leBytes 4 seq.toNat

/-- Bytes 0x00 to 0x0F of a frame that the device sends (Table 16-1). -/
def Msg.head (m : Msg) : List Byte :=
  leBytes 1 (0x20 + (if m.prot then 16 else 0) + (if m.resp then 8 else 0) + (if m.unsol then 4 else 0)) ++ leBytes 1 (m.typ.toNat / 256)
    ++ leBytes 2 m.typ.toNat ++ leBytes 2 m.session.toNat ++ leBytes 2 m.payload.length ++ leBytes 4 m.seq.toNat ++ leBytes 2 m.token.toNat
    ++ leBytes 2 m.status.toNat

/-- The datagram of an unprotected frame: its tag is 0 (Table 16-1). -/
def Msg.clear (m : Msg) : Msg := { m with wire := m.head ++ List.replicate 16 0#8 ++ m.payload }

/-- The datagram of a protected frame (R396). -/
def Msg.protect (m : Msg) (key salt : List Byte) : Msg :=
  let iv := gcmNonce salt m.seq
  let ct := gcmCtr key iv m.payload
  { m with wire := m.head ++ gcmTag key iv m.head ct ++ ct }

/-- Queue one protected frame of a session, with its next seq; a session ends before it would send seq 0xFFFF_FFFF (R402). -/
def State.sendFrame (s : State) (sid : Half) (typ : Nat) (resp unsol : Bool) (token status : Half) (payload : List Byte) : State :=
  match s.session sid with
  | none => s
  | some x =>
    if x.txSeq = 0xFFFFFFFF#32 then s.endSession sid
    else
      let m : Msg := { port := x.port, session := sid, typ := BitVec.ofNat 16 typ, prot := true, resp := resp, unsol := unsol,
                       seq := x.txSeq, token := token, status := status, payload := payload }
      let s := { s with host := { s.host with txq := s.host.txq ++ [m.protect x.keyOut x.saltOut] } }
      s.modSession sid fun x => { x with txSeq := x.txSeq + 1#32 }

/-- Unsolicited frames of a session still queued (R408). -/
def State.queuedUnsol (s : State) (sid : Half) : Nat := s.host.txq.countP (fun m => m.session == sid && m.unsol)

/-- One unsolicited message to one session: its token is the counter of the session and mailbox; a full queue of 256 drops it
(R408). The answer tells whether it was queued. -/
def State.notifyOne (s : State) (sid : Half) (typ : Nat) (status : Half) (payload : List Byte) : State × Bool :=
  match s.session sid with
  | none => (s, false)
  | some x =>
    let mb := typ / 256
    let token := x.counts.get mb
    let s := s.modSession sid fun x => { x with counts := x.counts.set mb (token + 1#16) }
    if 256 ≤ s.queuedUnsol sid then (s, false)
    else (s.sendFrame sid typ false true token status payload, true)

/-- The sessions that receive an unsolicited message of a mailbox: open, subscribed, on a port where its type is allowed
(R408). -/
def State.listeners (s : State) (mb : Nat) (ok : Port → Bool) : List Half :=
  (s.host.sessions.filter (fun x => x.isOpen && x.mask.getLsbD mb && ok x.port)).map (·.id)

/-- An unsolicited message (R408). -/
def State.notify (s : State) (typ : Nat) (status : Half) (payload : List Byte) (ok : Port → Bool) : State :=
  (s.listeners (typ / 256) ok).foldl (fun s sid => (s.notifyOne sid typ status payload).1) s

/-- An unsolicited message whose type is allowed on the host port only (Table 16-4). -/
def State.notifyT1 (s : State) (typ : Nat) (status : Half) (payload : List Byte) : State :=
  s.notify typ status payload (fun p => p == .host)

/-! ### Event records (15, 19) -/

/-- The bytes of an event record (Table 15-7). -/
def eventBytes (src seq : Word) (time : Nat) (epoch : Byte) (kind : Nat) (status : Half) (payload : List Byte) : List Byte :=
  leBytes 4 src.toNat ++ leBytes 4 seq.toNat ++ leBytes 8 time ++ [epoch] ++ leBytes 1 kind ++ leBytes 2 status.toNat
    ++ (payload ++ List.replicate 12 0#8).take 12

/-- The drop record for `lost` records of a source that were dropped before number `seq` (R390). -/
def State.dropBytes (s : State) (src seq lost : Word) : List Byte :=
  eventBytes src (seq - lost) s.shortTime s.time.epoch 0xFF stOk (leBytes 4 lost.toNat)

/-- health.event with one record for one session, preceded by the drop record that R390 asks for. -/
def State.healthOne (s : State) (sid : Half) (src seq : Word) (status : Half) (bytes : List Byte) : State :=
  match s.session sid with
  | none => s
  | some x =>
    let lost := x.drops.get src.toNat
    let lead := if lost = 0#32 then [] else s.dropBytes src seq lost
    let (s, queued) := s.notifyOne sid 0x0D02 status (lead ++ bytes)
    s.modSession sid fun x => { x with drops := x.drops.set src.toNat (if queued then 0#32 else lost + 1#32) }

/-- Write an event record of a source: it takes the source's next number, enters the event log of the Lantern domain (its last
4,096 records, R462) and goes to the host as health.event (R388, R390, R409, R481). -/
def State.event (s : State) (src : Word) (kind : Nat) (status : Half) (payload : List Byte) : State :=
  let (seq, s) := s.takeSeq src
  let bytes := eventBytes src seq s.shortTime s.time.epoch kind status payload
  let log := s.events ++ [bytes]
  let s := { s with events := log.drop (log.length - Config.eventLogDepth) }
  (s.listeners 0x0D (fun p => p == .host)).foldl (fun s sid => s.healthOne sid src seq status bytes) s

/-- An event of the health monitor that no slot carries (class 0x7, R481). -/
def State.healthEvent (s : State) (kind : Nat) (status : Half) (payload : List Byte) : State :=
  s.event (srcWord 7 0) kind status payload

/-! ### Fetch-ahead (R197) -/

/-- Fetched-ahead work is cancelled: its bytes are discarded and counted in discard_kib, rounded up to whole KiB (R197, log 82). -/
def Core.dropAhead (k : Core) : Core :=
  let kib := ((k.ahead.foldl (fun n a => n + a.data.length) 0) + 1023) / 1024
  { k with ahead := [], discardKib := BitVec.ofNat 32 (min 0xFFFFFFFF (k.discardKib.toNat + kib)) }

/-! ### Jobs -/

def State.job (s : State) (id : Word) : Option Job := s.jobs.find? (fun j => j.id == id)
def State.modJob (s : State) (id : Word) (f : Job → Job) : State :=
  { s with jobs := s.jobs.map fun j => if j.id == id then f j else j }

def Job.modRank (j : Job) (r : Nat) (f : Rank → Rank) : Job :=
  { j with ranks := j.ranks.mapIdx fun i x => if i = r then f x else x }

/-- The job whose rank a core runs. -/
def State.coreJob (s : State) (c : CoreId) : Option Job :=
  match (s.core c).owner with
  | .rank id _ => s.job id
  | _ => none

def State.coreRank (s : State) (c : CoreId) : Nat :=
  match (s.core c).owner with
  | .rank _ r => r
  | _ => 0

/-! ### Completion records (R221, R222) -/

/-- What a completion record reports beside its command (Table 9-4). -/
structure RecInfo where
  unit    : Nat
  source  : Word
  loc     : Nat
  status  : Half := 0#16
  final   : Bool := true
  side    : Nat := 0
  ordinal : Nat := 0
  eng     : Byte := 0#8
  cvt     : Byte := 0#8
  vec     : Byte := 0#8
  group   : Nat := 0

/-- The bytes of a completion record (Table 9-4). -/
def recordBytes (w : CmdWord) (i : RecInfo) (seq : Word) (rank time : Nat) : List Byte :=
  let info := (if cbit w 13 then 128 else 0) + (if i.final then 64 else 0) + i.side * 16 + i.unit
  leBytes 2 (cbits w 16 16) ++ leBytes 1 (cbits w 0 8) ++ leBytes 1 info ++ leBytes 2 i.status.toNat ++ leBytes 2 i.loc
    ++ leBytes 4 seq.toNat ++ leBytes 4 i.ordinal ++ [i.eng, i.cvt, i.vec] ++ leBytes 1 i.group ++ leBytes 4 rank ++ leBytes 8 time

/-- job.signal with a completion record for one session; a drop record that R390 asks for goes ahead in a job.signal of its own (log 117). -/
def State.signalOne (s : State) (sid : Half) (typ : Nat) (status : Half) (job : List Byte) (src seq : Word) (bytes : List Byte) : State :=
  match s.session sid with
  | none => s
  | some x =>
    let lost := x.drops.get src.toNat
    let (s, told) := if lost = 0#32 then (s, true) else s.notifyOne sid typ stOk (job ++ s.dropBytes src seq lost)
    let (s, queued) := s.notifyOne sid typ status (job ++ bytes)
    s.modSession sid fun x => { x with drops := x.drops.set src.toNat (if queued then 0#32 else (if told then 0#32 else lost) + 1#32) }

/-- Produce a completion record: the firmware forwards it as job.signal when sig is set or the status is not ST_OK, and counts it
otherwise (R221, R222, R409). The header status of job.signal is the record's status (DEDUCED, log 31). -/
def State.complete (s : State) (c : CoreId) (w : CmdWord) (i : RecInfo) : State :=
  let (seq, s) := s.takeSeq i.source
  match (s.core c).owner with
  | .rank id r =>
    match s.job id with
    | none => s
    | some j =>
      if cbit w 13 || i.status != stOk then
        (s.listeners j.mailbox.toNat (fun p => p == .host)).foldl (fun (s : State) sid =>
          s.signalOne sid (j.mailbox.toNat * 256 + 7) i.status (leBytes 4 id.toNat) i.source seq (recordBytes w i seq r s.shortTime)) s
      else s.modJob id fun j => { j with counted := j.counted + 1#32 }
  | _ => s

/-- Source words and locations of a core's units (Table 15-8, R20). -/
def recSeq (c : CoreId) : RecInfo := { unit := 0, source := srcWord 4 c.val, loc := locCore c.val }
def recVec (c : CoreId) : RecInfo := { unit := 6, source := srcWord 3 c.val, loc := locCore c.val }
def recDma (c : CoreId) (h : Nat) : RecInfo := { unit := 7, source := srcWord 2 (c.val * 256 + h), loc := locCore c.val }
def recEng (c : CoreId) (e : Nat) (half : BitVec 2) : RecInfo :=
  let l := locEngine (c.val * 4 + e) half.toNat
  { unit := e + 1, source := srcWord 1 l, loc := l }

/-! ### Pegs (R176, R177, R179) -/

/-- Release every peg of a command, and what it may still read with bypass. -/
def Ctx.dropPegs (x : Ctx) (serial : Nat) : Ctx :=
  { x with pegs := x.pegs.filter (fun p => p.serial != serial), seen := x.seen.filter (fun p => p.serial != serial) }

/-- Two ranges conflict when they overlap and one is a write (R177). -/
def Peg.hits (p : Peg) (write : Bool) (base len : Nat) : Bool :=
  (p.write || write) && decide (p.base < base + len) && decide (base < p.base + p.len)

/-- A peg request: write, first byte, bytes. -/
abbrev Range := Bool × Nat × Nat

/-- Whether a command's ranges wait at issue: a conflict with a live peg, or too few free pegs of the 128 (R177). Zero-length
ranges take no peg (R176). -/
def Ctx.pegsBlock (x : Ctx) (rs : List Range) : Bool :=
  let rs := rs.filter (fun r => decide (0 < r.2.2))
  rs.any (fun r => x.pegs.any (fun p => p.hits r.1 r.2.1 r.2.2)) || decide (128 < x.pegs.length + rs.length)

def Ctx.takePegs (x : Ctx) (serial : Nat) (owner : Nat) (half : BitVec 2) (rs : List Range) : Ctx :=
  { x with pegs := x.pegs ++ (rs.filter (fun r => decide (0 < r.2.2))).map fun r =>
      { serial := serial, write := r.1, owner := BitVec.ofNat 4 owner, half := half, base := r.2.1, len := r.2.2 } }

/-! ### Reads with bypass (R181) -/

/-- A command issues: with bypass, what the ranges that it reads hold now is kept. -/
def Ctx.keepSeen (x : Ctx) (bypass : Bool) (serial : Nat) (rs : List Range) (read : Nat → Nat → List Byte) : Ctx :=
  if bypass then { x with seen := x.seen ++ (rs.filter (fun r => !r.1 && decide (0 < r.2.2))).map fun r =>
    { serial := serial, base := r.2.1, bytes := read r.2.1 r.2.2 } } else x

/-- Old and present bytes from an address on, each doubleword whole: old where `old` says so and `own` does not. -/
def mixBytes (old own : Nat → Bool) (base : Nat) (a b : List Byte) : List Byte :=
  (List.zip a b).mapIdx fun i p => if old ((base + i) / 8) && !own (base + i) then p.1 else p.2

/-- The memory of a core as a command with bypass reads it at one of its places: each doubleword holds what it held before or after the writes of
others since the command issued; `own` are the bytes that the command itself writes (R181, log 10). Without bypass it is the memory. -/
def State.view (s : State) (c : CoreId) (serial place : Nat) (own : Nat → Bool := fun _ => false) : State :=
  ((s.ctx c).seen.filter fun p => p.serial == serial).foldl (fun t p =>
    t.writeCore c p.base (mixBytes (fun q => Config.bypassOld c.val serial (place * 0x80000 + q) s.time.acc.toNat s.freeCtr) own p.base p.bytes
      (t.readCore c p.base p.bytes.length))) s

/-- Back from such a view: what the command did not write holds what it held. -/
def State.unview (s : State) (c : CoreId) (serial : Nat) (own : Nat → Bool) (t : State) : State :=
  ((s.ctx c).seen.filter fun p => p.serial == serial).foldl (fun t p =>
    t.writeCore c p.base (mixBytes (fun _ => true) own p.base (s.readCore c p.base p.bytes.length) (t.readCore c p.base p.bytes.length))) t

/-- An address lies in one of some ranges. -/
def inSpans (rs : List (Nat × Nat)) (a : Nat) : Bool := rs.any fun r => decide (r.1 ≤ a) && decide (a < r.1 + r.2)

end Sys2Proof.Machine
end

