-- ==== Sys2Proof/Machine/Operands.lean ====
section
/-!
DEFINITION. Operand fields of commands, descriptors, configuration blocks and tensor headers, each from its table.
-/
namespace Sys2Proof.Machine

/-! ### Word 0 (Table 9-1) -/
def opcodeOf (w : CmdWord) : Nat := cbits w 0 8
def unitOf (w : CmdWord) : Nat := cbits w 8 4
def fenceOf (w : CmdWord) : Bool := cbit w 12
def bypassOf (w : CmdWord) : Bool := cbit w 14

/-! ### Sequencer commands (Table 9-2) -/
def sdOf (w : CmdWord) : Nat := cbits w 122 6
def aluA (w : CmdWord) : Nat := cbits w 116 6
def aluB (w : CmdWord) : Nat := cbits w 110 6
def aluImm (w : CmdWord) : Bool := cbit w 109
def aluOp (w : CmdWord) : Nat := cbits w 104 5
def imm64 (w : CmdWord) : Dword := BitVec.ofNat 64 (cbits w 32 64)
def ldSize (w : CmdWord) : Nat := if cbit w 121 then 8 else 4
def ldUseBase (w : CmdWord) : Bool := cbit w 120
def ldBase (w : CmdWord) : Nat := cbits w 114 6
def ldAddr (w : CmdWord) : Nat := cbits w 74 22
def loopUseImm (w : CmdWord) : Bool := cbit w 121
def loopIdx (w : CmdWord) : Nat := cbits w 115 6
def loopBody (w : CmdWord) : Nat := cbits w 103 12
def loopImm (w : CmdWord) : Nat := cbits w 64 32
def skipB (w : CmdWord) : Nat := cbits w 116 6
def skipCond (w : CmdWord) : Nat := cbits w 113 3
def skipN (w : CmdWord) : Nat := cbits w 101 12
def barMask (w : CmdWord) : Nat := cbits w 120 8
def qpopQ (w : CmdWord) : Nat := cbits w 120 2

/-! ### Engine commands (Tables 2-8 to 2-10) -/
def engMaskOf (w : CmdWord) : Nat := cbits w 124 4
def tileMaskReg (w : CmdWord) : Nat := cbits w 118 6
def tileMaskEn (w : CmdWord) : Bool := cbit w 117
def tileAcc (w : CmdWord) : Bool := cbit w 116
def tileConjA (w : CmdWord) : Bool := cbit w 115
def tileConjB (w : CmdWord) : Bool := cbit w 114
def tileMode (w : CmdWord) : Nat := cbits w 109 3
def tileGrp (w : CmdWord) : Bool := cbit w 108
def tileFmtB (w : CmdWord) : Nat := cbits w 104 4
def tileFmtA (w : CmdWord) : Nat := cbits w 100 4
def tileK (w : CmdWord) : Nat := cbits w 84 12
def tileM (w : CmdWord) : Nat := cbits w 77 7
def tileN (w : CmdWord) : Nat := cbits w 70 7
def tileKbase (w : CmdWord) : Nat := cbits w 64 6
def tileAOff (w : CmdWord) : Nat := cbits w 54 10
def moveFmt (w : CmdWord) : Nat := cbits w 118 4
def loadaOff (w : CmdWord) : Nat := cbits w 108 10
def moveSrc (w : CmdWord) : Nat := cbits w 74 22
def loadaK (w : CmdWord) : Nat := cbits w 62 12
def loadaStride (w : CmdWord) : Nat := cbits w 40 22
def streamRows (w : CmdWord) : Nat := cbits w 58 16
def streamStride (w : CmdWord) : Nat := cbits w 36 22
def copyDest (w : CmdWord) : Bool := cbit w 121
def copyIdx (w : CmdWord) : Bool := cbit w 120
def copyMaskReg (w : CmdWord) : Nat := cbits w 114 6
def copyMaskEn (w : CmdWord) : Bool := cbit w 113
def copyM (w : CmdWord) : Nat := cbits w 106 7
def copyN (w : CmdWord) : Nat := cbits w 99 7
def copyDst (w : CmdWord) : Nat := cbits w 74 22
def copyStride (w : CmdWord) : Nat := cbits w 52 22
def splitBit (w : CmdWord) : Bool := cbit w 96
def imageAddr (w : CmdWord) : Nat := cbits w 74 22
def flagsClear (w : CmdWord) : Bool := cbit w 121
def flagsSreg (w : CmdWord) : Nat := cbits w 96 6
def scalesGsz (w : CmdWord) : Nat := cbits w 119 3
def scalesTag (w : CmdWord) : Nat := cbits w 115 4
def scalesA (w : CmdWord) : Nat := cbits w 74 22
def scalesB (w : CmdWord) : Nat := cbits w 52 22

/-- The half field of an engine command; ENG_SPLIT has none. -/
def halfOf (w : CmdWord) : BitVec 2 :=
  if opcodeOf w = 0x12 then BitVec.ofNat 2 (cbits w 112 2)
  else if opcodeOf w = 0x15 then 0#2
  else BitVec.ofNat 2 (cbits w 122 2)

/-! ### Vector and DMA commands (Tables 5-12 and 8-3) -/
def vecAddr (w : CmdWord) : Nat := cbits w 106 22
def chainFirst (w : CmdWord) : Nat := cbits w 90 16
def streamFirst (w : CmdWord) : Nat := cbits w 82 24
def dmaCh (w : CmdWord) : Nat := cbits w 125 3
def dmaAddr (w : CmdWord) : Nat := cbits w 103 22
def stakeOf (w : CmdWord) : Nat := cbits w 124 4
def stakeAdd (w : CmdWord) : Bool := cbit w 123
def stakeValue (w : CmdWord) : Word := BitVec.ofNat 32 (cbits w 64 32)

/-! ### Reserved bits (R11): the bits of each command that its table leaves res, as (first bit, count) -/
def resFields (w : CmdWord) : List (Nat × Nat) :=
  (15, 1) ::
  match opcodeOf w with
  | 0x00 => [(32, 96)]
  | 0x01 => [(96, 26)]
  | 0x02 => [(96, 8)]
  | 0x03 => [(96, 18), (32, 42)]
  | 0x04 => [(96, 18), (32, 42)]
  | 0x05 => [(96, 7), (32, 32)]
  | 0x06 => [(32, 69)]
  | 0x07 => [(32, 88)]
  | 0x08 => [(32, 90)]
  | 0x09 => [(32, 90)]
  | 0x0A => [(32, 88)]
  | 0x0B => [(32, 96)]
  | 0x10 => [(96, 12), (32, 8)]
  | 0x11 => [(96, 22), (32, 4)]
  | 0x12 => [(96, 4), (32, 22)]
  | 0x13 => [(96, 3), (32, 20)]
  | 0x15 => [(97, 27), (32, 64)]
  | 0x16 => [(96, 26), (32, 42)]
  | 0x17 => [(96, 26), (32, 42)]
  | 0x18 => [(102, 19), (32, 64)]
  | 0x19 => [(96, 19), (32, 20)]
  | 0x30 => [(32, 58)]
  | 0x31 => [(32, 50)]
  | 0x32 => [(122, 6), (102, 19), (32, 64)]
  | 0x60 => [(32, 71)]
  | 0x61 => [(32, 71)]
  | 0x62 => [(96, 28), (32, 32)]
  | 0x63 => [(96, 27), (32, 32)]
  | 0x64 => [(102, 23), (32, 64)]
  | _ => []

def resClear (w : CmdWord) : Bool := (resFields w).all (fun p => cbits w p.1 p.2 == 0)

/-- The commands that bypass may be set on (Table 9-3, column V: b). -/
def bypassAllowed (op : Nat) : Bool :=
  op ∈ [0x03, 0x04, 0x10, 0x11, 0x12, 0x13, 0x16, 0x17, 0x30, 0x31, 0x60, 0x61]

/-- The commands that are always V-marked (Table 9-3, column V: V). -/
def alwaysV (op : Nat) : Bool := op ∈ [0x08, 0x09, 0x0A, 0x64]

/-- The opcode lies in the range of its unit and is not reserved (R211, R60, R134, R194, R217). -/
def opcodeFits (w : CmdWord) : Bool :=
  let op := opcodeOf w
  let u := unitOf w
  if u = 0 then op < 0x0C
  else if u < 6 then op ∈ [0x10, 0x11, 0x12, 0x13, 0x15, 0x16, 0x17, 0x18, 0x19]
  else if u = 6 then op ∈ [0x30, 0x31, 0x32]
  else if u = 7 then op ∈ [0x60, 0x61, 0x62, 0x63, 0x64]
  else false

/-! ### DMA descriptor (Table 8-1), as its 64 bytes -/
def ddOp (d : List Byte) : Nat := fieldAt d 0 1 % 16
def ddNfy (d : List Byte) : Bool := fieldAt d 1 1 / 4 % 2 = 1
def ddDstSp (d : List Byte) : Bool := fieldAt d 1 1 / 2 % 2 = 1
def ddSrcSp (d : List Byte) : Bool := fieldAt d 1 1 % 2 = 1
def ddGen (d : List Byte) : Nat := fieldAt d 2 2
def ddRowLen (d : List Byte) : Nat := fieldAt d 4 3
def ddSrc (d : List Byte) : Nat := fieldAt d 8 6
def ddDst (d : List Byte) : Nat := fieldAt d 0x10 6
def ddSrcStride (d : List Byte) : Nat := fieldAt d 0x18 6
def ddDstStride (d : List Byte) : Nat := fieldAt d 0x20 6
def ddRows (d : List Byte) : Nat := fieldAt d 0x28 4
def ddFill (d : List Byte) : List Byte := (d.drop 0x2C).take 4
def ddPkg (d : List Byte) : Nat := fieldAt d 0x30 1
def ddRank (d : List Byte) : Nat := fieldAt d 0x31 1 % 32
def ddStake (d : List Byte) : Nat := fieldAt d 0x32 1 % 16
def ddAdd (d : List Byte) : Word := BitVec.ofNat 32 (fieldAt d 0x34 4)

/-- Every reserved field of a descriptor is 0 and its op is not reserved (R11, Table 8-1). -/
def ddResOk (d : List Byte) : Bool :=
  fieldAt d 0 1 < 4 && fieldAt d 1 1 < 8 && fieldAt d 7 1 == 0
    && (ddSrcSp d || fieldAt d 8 8 < 0x400000) && fieldAt d 0x0E 2 == 0
    && (ddDstSp d || fieldAt d 0x10 8 < 0x400000) && fieldAt d 0x16 2 == 0
    && fieldAt d 0x1E 2 == 0 && fieldAt d 0x26 2 == 0
    && (ddOp d == 1 || fieldAt d 0x2C 4 == 0)
    && fieldAt d 0x31 1 < 32 && fieldAt d 0x32 1 < 16 && fieldAt d 0x33 1 == 0 && fieldAt d 0x38 8 == 0

/-! ### Tensor header (Table 4-2), as its bytes -/
def hdTensorId (h : List Byte) : Nat := fieldAt h 0 4
def hdFmt (h : List Byte) : Nat := fieldAt h 4 1 % 16
def hdMode (h : List Byte) : Nat := fieldAt h 5 1 % 8
def hdGsz (h : List Byte) : Nat := fieldAt h 6 1 % 8
def hdPlanes (h : List Byte) : Nat := fieldAt h 8 4
def hdLines (h : List Byte) : Nat := fieldAt h 0xC 4
def hdLength (h : List Byte) : Nat := fieldAt h 0x10 4
def hdPanelLines (h : List Byte) : Nat := fieldAt h 0x14 4
def hdPanelCount (h : List Byte) : Nat := fieldAt h 0x18 2
def hdScaleVa (h : List Byte) : Nat := fieldAt h 0x28 8
def hdPanel (h : List Byte) (j : Nat) : Word := BitVec.ofNat 32 (fieldAt h (0x40 + 4 * j) 4)
/-- The group size G (Table 4-2). -/
def hdG (h : List Byte) : Nat := 32 + 16 * hdGsz h

def ceilDiv (a b : Nat) : Nat := (a + b - 1) / b

/-- The bytes a header of some panel count occupies (R86). -/
def hdBytes (panels : Nat) : Nat := ceilDiv (64 + 4 * panels) 64 * 64

/-- A positive finite FP32 code. -/
def posFinite (w : Word) : Bool := decide (0 < w.toNat) && decide (w.toNat < 0x7F800000)

/-- Formats that a scale mode allows (Table 4-1). -/
def fmtAllowed (mode fmt : Nat) : Bool :=
  if mode = 0 then fmt < 0xB
  else if mode = 1 then fmt ≤ 5 || fmt = 9
  else if mode = 2 then fmt = 1 || fmt = 4
  else fmt = 0xB

/-- A header copy passes R87. -/
def headerOk (h : List Byte) : Bool :=
  let mode := hdMode h
  let g := hdG h
  let n := hdPanelCount h
  fieldAt h 4 1 < 16 && fieldAt h 5 1 < 4 && fieldAt h 6 1 < 7 && fieldAt h 7 1 == 0 && fieldAt h 0x1A 6 == 0
    && fieldAt h 0x34 4 == 0
    && fmtAllowed mode (hdFmt h)
    && ((mode != 1 && mode != 3) || hdLength h % g == 0)
    && (mode != 1 || decide (hdPanelLines h * hdLength h / g ≤ 65536))
    && (if mode = 1 then n == hdPlanes h * ceilDiv (hdLines h) (hdPanelLines h) else if mode = 3 then n == hdPlanes h else n == 0)
    && decide (n ≤ 1008)
    && (List.range n).all (fun j => posFinite (hdPanel h j))
    && (if mode = 1 then decide (0 < hdPanelLines h) else if mode = 3 then hdPanelLines h == hdLines h else hdPanelLines h == 0)
    && (if mode = 3 then hdGsz h == 1 else if mode = 1 then true else hdGsz h == 0)
    && (if mode = 0 then hdScaleVa h == 0 else hdScaleVa h % 128 == 0)
    && (h.drop (64 + 4 * n)).all (fun b => b == 0#8)

/-- The panel scale of a line of a plane (R88); 1.0 for a tensor without panels and for a line outside the header's shape
(DEDUCED, log 32). -/
def panelOf (h : List Byte) (plane line : Nat) : Word :=
  let j := if hdMode h = 1 then plane * ceilDiv (hdLines h) (hdPanelLines h) + line / hdPanelLines h else plane
  if hdMode h = 0 ∨ hdMode h = 2 ∨ hdPanelCount h ≤ j ∨ (hdMode h = 1 ∧ hdLines h ≤ line) then 0x3F800000#32 else hdPanel h j

end Sys2Proof.Machine
end

