-- ==== Sys2Proof/Machine/Issue.lean ====
section
/-!
DEFINITION. Issuing a command on a core: what it may wait for, rejection (R223), the program counter and its loops (R214, R218),
and the mapping of logical engines to slots (R15, R470).
-/
namespace Sys2Proof.Machine

/-- The outcome of a command at issue: it waits (R178), it is rejected with a status (R223), or it issues and gives a state. -/
inductive Issue where
  | wait
  | reject (st : Half)
  | go (s : State)

/-- Reject unless a condition holds. -/
def Issue.need (b : Bool) (st : Half) (k : Issue) : Issue := if b then k else .reject st
/-- Wait unless a condition holds. -/
def Issue.hold (b : Bool) (k : Issue) : Issue := if b then k else .wait

/-! ### Logical engines and slots -/

/-- The slot field of a logical engine in a cluster's two map words (Table 1-2). -/
def slotField (map map0 : Dword) (lc e : Nat) : Nat :=
  if lc = 0 then bitsOf map0.toNat (5 * e) 5 else bitsOf map.toNat (20 * (lc - 1) + 5 * e) 5

/-- The slot field in effect for a logical engine of a core. -/
def State.slotOf (s : State) (c : CoreId) (e : Nat) : Nat :=
  let k := s.clusters.get (Fin.ofNat 8 (c.val / 4))
  slotField k.live k.live0 (c.val % 4) e

/-- Backed slots of a core (Table 19-3). -/
def State.backed (s : State) (c : CoreId) : Nat :=
  ((List.range 4).filter (fun e => decide (s.slotOf c e < 18))).length

/-- The slot, of the core's cluster, that a command of run `run` of a logical engine executes on when it issues (R15, R235, R236,
R470). -/
def State.cmdSlot (s : State) (c : CoreId) (e run : Nat) : Nat :=
  let b := s.backed c
  s.slotOf c (if b = 3 ∧ e = 3 then (run - 1) % 3 else if b = 2 then e % 2 else e)

/-- Whether a core runs nothing (Table 19-3, last row). -/
def State.closedCore (s : State) (c : CoreId) : Bool := decide (s.backed c < 2)

/-! ### What is in flight -/

def Ctx.engIdle (x : Ctx) (e : Nat) : Bool := (x.engine e).queue.isEmpty
def Ctx.vecIdle (x : Ctx) : Bool := x.vec.isEmpty
def Ctx.dmaIdle (x : Ctx) : Bool := x.chans.toList.all (fun h => h.descs.isEmpty)

/-- Every earlier-issued command is complete (R212). -/
def Ctx.idle (x : Ctx) : Bool := (List.range 4).all x.engIdle && x.vecIdle && x.dmaIdle

/-- The units that a SEQ_BARRIER mask selects are idle; mask 0 selects all (Table 9-2). -/
def Ctx.maskIdle (x : Ctx) (m : Nat) : Bool :=
  if m = 0 then x.idle
  else (List.range 4).all (fun e => !(m.testBit (e + 1)) || x.engIdle e)
    && (!(m.testBit 6) || x.vecIdle) && (!(m.testBit 7) || x.dmaIdle)

/-- Scalar registers that an issued command will still write (R215). -/
def Ctx.owedRegs (x : Ctx) : List Nat :=
  (x.engines.toList.flatMap fun g => (g.queue.filter (fun q => opcodeOf q.w == 0x18)).map fun q => flagsSreg q.w)
    ++ (x.vec.filter (fun v => opcodeOf v.w == 0x32)).map fun v => flagsSreg v.w

/-- None of these registers is still owed a write. -/
def Ctx.regsReady (x : Ctx) (rs : List Nat) : Bool := rs.all (fun r => !x.owedRegs.contains r)

/-! ### Program counter and loops (R214, R218) -/

/-- Where control goes when it reaches `pc`: back to the start of a body that ends there and has iterations left, with its next
index, or out of it. -/
def loopBack (pc : Nat) : List LoopFrame → Nat × List LoopFrame × Option (BitVec 6 × Dword)
  | [] => (pc, [], none)
  | f :: fs =>
    if pc = f.stop then
      (if f.index.toNat + 1 < f.count.toNat then
        (f.start, { f with index := f.index + 1#64 } :: fs, some (f.sidx, f.index + 1#64))
      else loopBack pc fs)
    else (pc, f :: fs, none)

/-- Move the program counter to an address, taking the loops that end there. -/
def Ctx.jump (x : Ctx) (pc : Nat) : Ctx :=
  let (pc, fs, w) := loopBack pc x.loops
  let x := { x with pc := pc, loops := fs }
  match w with
  | none => x
  | some (r, v) => x.setSreg r.toNat v

/-- Past the command at the program counter. -/
def Ctx.advance (x : Ctx) : Ctx := x.jump (x.pc + 16)

/-! ### Rejections (R221, R223) -/

/-- The reporting unit of a command's rejection record: its own unit, an engine group at the core (DEDUCED, log 33). -/
def rejectInfo (c : CoreId) (w : CmdWord) (st : Half) : RecInfo :=
  let u := unitOf w
  let base := if 1 ≤ u ∧ u ≤ 4 then recEng c (u - 1) (halfOf w)
    else if u = 6 then recVec c
    else if u = 7 then recDma c (if opcodeOf w = 0x60 ∨ opcodeOf w = 0x61 then dmaCh w else 8)
    else recSeq c
  { base with unit := u, status := st }

/-- Stop issuing on every core of a job, and cancel what was fetched ahead (R197, R223, R224); an abort with ST_SCALE_SKEW abandons preemptions
that have not reached their point (Table 9-8). -/
def State.stopJob (s : State) (id : Word) (st : Half) : State :=
  let s := s.modJob id fun j => { j with stop := j.stop.orElse (fun _ => some st) }
  { s with cores := vmap s.cores fun k => match k.owner with
      | .rank i _ =>
        if i == id then
          ({ k with stopped := true, preempt := if st = stScaleSkew && !k.atPoint then [] else k.preempt,
                    ctx := { k.ctx with waiting := [] } }).dropAhead
        else k
      | _ => k }

/-- Stop the stream of a core, and with it the job whose rank it runs. -/
def State.stopStream (s : State) (c : CoreId) (st : Half) : State :=
  match (s.core c).owner with
  | .rank id _ => s.stopJob id st
  | _ => s.modCore c fun k => ({ k with stopped := true, ctx := { k.ctx with waiting := [] } }).dropAhead

/-- A rejected command: one record with its status, and nothing issues after it (R223). -/
def State.rejectCmd (s : State) (c : CoreId) (w : CmdWord) (st : Half) : State :=
  (s.complete c w (rejectInfo c w st)).stopStream c st

/-- The job of a core is deterministic (R220). -/
def State.deterministic (s : State) (c : CoreId) : Bool :=
  match s.coreJob c with
  | some j => j.deterministic
  | none => false

/-- A fresh command serial of a context. -/
def Ctx.takeSerial (x : Ctx) : Nat × Ctx := (x.serial, { x with serial := x.serial + 1 })

/-- A core whose cluster's units have all started (R454). -/
def State.clusterUp (s : State) (c : CoreId) : Bool := (s.clusters.get (Fin.ofNat 8 (c.val / 4))).power == .up

/-- The units of a core work: its cluster is up, no map error holds the core, and it has not stopped at a preemption point (R19, R229,
R454). -/
def State.unitsRun (s : State) (c : CoreId) : Bool := s.clusterUp c && !(s.core c).mapHeld && !(s.core c).atPoint

/-- A tile aborted with ST_ENGINE_FAULT and awaits its replay (R56). -/
def Ctx.replaying (x : Ctx) : Bool := x.engines.toList.any fun g => g.queue.any (·.faulted)

/-- The ranks of the core's job have started on every package (R426). -/
def State.started (s : State) (c : CoreId) : Bool := match s.coreJob c with | some j => j.go | none => true

/-- The core's stream may issue: it has an owner, its job has started, nothing stopped it, no preemption is requested, no map error holds it, its
memory is scrubbed, it is not closed, no tile awaits its replay, and its cluster is up (R19, R223, R224, R229, R454, R471, R479). -/
def State.mayIssue (s : State) (c : CoreId) : Bool :=
  let k := s.core c
  k.owner != .none && !k.stopped && s.started c && k.preempt.isEmpty && !k.scrubbing && !s.closedCore c && !k.ctx.replaying && s.unitsRun c

end Sys2Proof.Machine
end

