-- ==== Sys2Proof/Machine/TrailLink.lean ====
section
/-!
DEFINITION. Trail links (R420 to R424): flits and their CRC, sequence numbers and replay, routes, and sending a message.
-/
namespace Sys2Proof.Machine

/-! ### Flits (Table 17-1) -/

/-- One bit of the CRC-32 of IEEE 802.3, least significant bit first. -/
def crc32Shift (r : Word) : Word := if r.getLsbD 0 then (r >>> 1) ^^^ 0xEDB88320#32 else r >>> 1
def crc32Byte (r : Word) (b : Byte) : Word := (List.range 8).foldl (fun r _ => crc32Shift r) (r ^^^ b.setWidth 32)
def crc32 (bs : List Byte) : Word := bs.foldl crc32Byte 0xFFFFFFFF#32 ^^^ 0xFFFFFFFF#32

/-- The 256 bytes of a flit with its link numbers. -/
def TrailFlit.bytes (f : TrailFlit) (seq : BitVec 12) (nak : Bool) (ack : BitVec 12) : List Byte :=
  let b := [f.typ] ++ leBytes 1 f.cls.toNat ++ leBytes 2 seq.toNat ++ leBytes 2 (ack.toNat + (if nak then 32768 else 0))
    ++ leBytes 1 f.dst.toNat ++ leBytes 1 f.src.toNat ++ leBytes 1 f.payload.length ++ [f.msg, 0#8, 0#8]
    ++ (f.payload ++ List.replicate 240 0#8).take 240
  b ++ leBytes 4 (crc32 b).toNat

/-- A received flit has its CRC. -/
def flitCrcOk (b : List Byte) : Bool := b.length == 256 && fieldAt b 0xFC 4 == (crc32 (b.take 0xFC)).toNat

def flitSeq (b : List Byte) : BitVec 12 := BitVec.ofNat 12 (fieldAt b 2 2)
def flitAck (b : List Byte) : BitVec 12 := BitVec.ofNat 12 (fieldAt b 4 2)
def flitNak (b : List Byte) : Bool := (fieldAt b 4 2).testBit 15

/-- The reserved bits and codes of Table 17-1 are not used. -/
def flitFieldsOk (b : List Byte) : Bool :=
  decide (fieldAt b 0 1 ≤ 2) && decide (fieldAt b 1 1 < 3) && decide (fieldAt b 2 2 < 4096) && fieldAt b 4 2 / 4096 % 8 == 0
    && decide (fieldAt b 6 1 < 8) && decide (fieldAt b 7 1 < 8) && decide (fieldAt b 8 1 ≤ 240) && fieldAt b 9 1 % 64 == 0 && fieldAt b 0x0A 2 == 0

def flitOf (b : List Byte) : TrailFlit :=
  { typ := BitVec.ofNat 8 (fieldAt b 0 1), cls := BitVec.ofNat 2 (fieldAt b 1 1), dst := BitVec.ofNat 3 (fieldAt b 6 1), src := BitVec.ofNat 3 (fieldAt b 7 1)
    msg := BitVec.ofNat 8 (fieldAt b 9 1), payload := (b.drop 0x0C).take (fieldAt b 8 1) }

/-! ### Ports (R422) -/

def Trail.port (t : Trail) (p : Nat) : TrailPort := t.ports[p % 4]'(Nat.mod_lt _ (by decide))
def Trail.setPort (t : Trail) (p : Nat) (x : TrailPort) : Trail := { t with ports := t.ports.set (p % 4) x (Nat.mod_lt _ (by decide)) }
def State.modTrail (s : State) (f : Trail → Trail) : State := { s with trail := f s.trail }

/-- The next flit to send: carrier class first, then control, then job. -/
def nextFlit (q : List TrailFlit) : Option TrailFlit :=
  match q.find? fun f => f.cls == 0#2 with
  | some f => some f
  | none =>
    match q.find? fun f => f.cls == 2#2 with
    | some f => some f
    | none => q.head?

/-- Send waiting flits while the replay buffer of 512 has room; `n` bounds them. -/
def TrailPort.pump : Nat → TrailPort → TrailPort
  | 0, x => x
  | n + 1, x =>
    if !x.up || 512 ≤ x.replay.length then x
    else match nextFlit x.queue with
      | none => x
      | some f => TrailPort.pump n { x with queue := x.queue.erase f, replay := x.replay ++ [f], txSeq := x.txSeq + 1#12 }

/-- An ack drops the flits below it from the replay buffer; a nak replays the rest from there. -/
def TrailPort.acked (x : TrailPort) (ack : BitVec 12) : TrailPort :=
  let base := x.txSeq - BitVec.ofNat 12 x.replay.length
  let n := (ack - base).toNat
  if n ≤ x.replay.length then { x with replay := x.replay.drop n } else x

/-! ### Routes (R423) -/

/-- The node number: the straps TRAIL_ID (R420, Table 21-2). -/
def State.node (s : State) : BitVec 3 := BitVec.ofNat 3 (s.part.straps.toNat / 8192)

/-- The checkpoint port of a paired package (Table 17-4). -/
def State.ckptPort (s : State) : Option Nat :=
  match s.twin.role with
  | .active => some (fieldAt s.twin.pairing 1 1 % 4)
  | .standby => some (fieldAt s.twin.pairing 1 1 % 4)
  | _ => none

/-- Nodes next to a set of nodes over the links between other nodes, as masks. -/
def trailStep (links : List (BitVec 3 × BitVec 3)) (m : Nat) : Nat :=
  links.foldl (fun n l =>
    let n := if m.testBit l.1.toNat then n ||| 2 ^ l.2.toNat else n
    if m.testBit l.2.toNat then n ||| 2 ^ l.1.toNat else n) m

/-- Hops from one other node to another, at most 7. -/
def trailHops (links : List (BitVec 3 × BitVec 3)) (a b : BitVec 3) : Option Nat :=
  (List.range 8).find? fun k => ((List.range k).foldl (fun m _ => trailStep links m) (2 ^ b.toNat)).testBit a.toNat

/-- The port toward a node: the fewest hops, then the lowest neighbour, then the lowest port. The checkpoint port carries no job traffic
(R426). -/
def State.trailRoute (s : State) (dst : BitVec 3) (cls : BitVec 2) : Option Nat :=
  let links := s.trail.links.filter fun l => l.1 != s.node && l.2 != s.node
  let keys := (List.range 4).filterMap fun p =>
    let x := s.trail.port p
    if !x.up || (cls == 1#2 && s.ckptPort == some p) then none
    else (trailHops links x.nbrNode dst).map fun h => h * 64 + x.nbrNode.toNat * 4 + p
  match keys with
  | [] => none
  | k :: ks => some (ks.foldl min k % 4)

/-- Other nodes that a job may reach, in ascending order (R425). -/
def State.reachable (s : State) : List Nat :=
  (List.range 8).filter fun n => n != s.node.toNat && (s.trailRoute (BitVec.ofNat 3 n) 1#2).isSome

/-! ### Messages (R423) -/

/-- The flits of a message. -/
def trailCut (dst src : BitVec 3) (cls : BitVec 2) : Nat → Bool → List Byte → List TrailFlit
  | 0, _, _ => []
  | n + 1, first, bs =>
    let last := decide (bs.length ≤ 240)
    let f : TrailFlit := { typ := 1#8, cls := cls, dst := dst, src := src, msg := BitVec.ofNat 8 ((if first then 128 else 0) + (if last then 64 else 0)), payload := bs.take 240 }
    f :: (if last then [] else trailCut dst src cls n false (bs.drop 240))

/-- Put a message's flits on its route; without one it waits. -/
def State.trailQueue (s : State) (m : TrailMsg) : State :=
  match s.trailRoute (BitVec.ofNat 3 m.node) m.cls with
  | none => s
  | some p => s.modTrail fun t =>
      let x := t.port p
      t.setPort p ({ x with queue := x.queue ++ trailCut (BitVec.ofNat 3 m.node) s.node m.cls 18 true m.bytes }.pump 512)

/-- Send one message of at most 4 KiB, held until its end-to-end acknowledgement. -/
def State.trailSend (s : State) (node : Nat) (cls : BitVec 2) (bytes : List Byte) (body : TrailBody := .other) : State :=
  let m : TrailMsg := { node := node, num := s.trail.nextNum, cls := cls, bytes := bytes, body := body }
  (s.modTrail fun t => { t with unacked := t.unacked ++ [m], nextNum := t.nextNum + 1 }).trailQueue m

/-- Send bytes in messages of at most `n` bytes, each behind a header. -/
def State.trailSendAll (s : State) (node : Nat) (cls : BitVec 2) (header : List Byte) (n : Nat) : Nat → List Byte → State
  | 0, _ => s
  | k + 1, bs => if bs.isEmpty then s else (s.trailSend node cls (header ++ bs.take n)).trailSendAll node cls header n k (bs.drop n)

/-- A job as every package names it (R425). -/
def State.refOf (s : State) (j : Job) : JobRef := j.lead.getD { node := s.node, id := j.id }

/-- The job of this package that a reference names. -/
def State.jobOf (s : State) (r : JobRef) : Option Job := if r.node = s.node then s.job r.id else s.jobs.find? fun j => j.lead == some r

/-- A pkg field names the job package that this one is (R428). -/
def Job.ownPkg (j : Job) (v : Nat) : Bool := v == 0 || v == j.ix + 1

/-- The same for the stream on a core. -/
def State.ownPkg (s : State) (c : CoreId) (v : Nat) : Bool := match s.coreJob c with | some j => j.ownPkg v | none => true

/-- One message of a job to job package `pkg − 1`, in job class or, between firmwares, in control class: 16 bytes of a header that the spec does
not give, free, then data (R426, R428, log 54). -/
def State.jobMessage (s : State) (j : Job) (pkg : Nat) (body : TrailBody) (data : List Byte) (cls : BitVec 2 := 1#2) : State :=
  match j.nodes[pkg - 1]? with
  | none => s
  | some node => if node = s.node.toNat then s else let (h, s) := s.drawBytes 16; s.trailSend node cls (h ++ data) body

/-- A control message to every other package of a job. -/
def State.toOthers (s : State) (j : Job) (body : Nat → TrailBody) : State :=
  (List.range j.pkgs).foldl (fun s i => if i = j.ix then s else s.jobMessage j (i + 1) (body i) [] 2#2) s

/-- Bytes for a virtual address of the job on another package, in messages of at most 4 KiB in ascending order (R159, R428). -/
def State.jobBytes (s : State) (j : Job) (pkg : Nat) : Nat → Nat → List Byte → State
  | 0, _, _ => s
  | k + 1, va, bs =>
    if bs.isEmpty then s
    else (s.jobMessage j pkg (.bytes (s.refOf j) (BitVec.ofNat 48 va) (bs.take 4080)) (bs.take 4080)).jobBytes j pkg k (va + 4080) (bs.drop 4080)

end Sys2Proof.Machine
end

