-- ==== Sys2Proof/Machine/Dma.lean ====
section
/-!
DEFINITION. DMA: descriptors at issue (R184 to R195), stakes (R192), translation (R200 to R202), the transfer in units (R185, R186,
R203) and the end of a descriptor (R187, R188).
-/
namespace Sys2Proof.Machine

/-! ### Descriptors -/

/-- Bytes from the first to the last byte of `n` pieces. -/
def spanOf (n stride len : Nat) : Nat := if n = 0 ∨ len = 0 then 0 else (n - 1) * stride + len

/-- A descriptor that moves nothing (R187). -/
def ddEmpty (d : List Byte) : Bool := ddRowLen d == 0 || ddRows d == 0

def ddSrcSpan (d : List Byte) : Nat := spanOf (ddRows d) (ddSrcStride d) (ddRowLen d)
def ddDstSpan (d : List Byte) : Nat := spanOf (ddRows d) (ddDstStride d) (ddRowLen d)

/-- The requirements of Table 8-2 and R185. -/
def ddOk (d : List Byte) : Bool :=
  let op := ddOp d
  ddResOk d
    && (op != 1 || (!ddSrcSp d && ddSrc d == 0 && ddSrcStride d == 0))
    && (op < 2 || (!ddSrcSp d && ddDstSp d && ddRowLen d % 4 == 0 && ddSrc d % 4 == 0 && ddDst d % 4 == 0
          && ddSrcStride d % 4 == 0 && ddDstStride d % 4 == 0))
    && (op == 1 || ddSrcSp d || ddSrcSpan d == 0 || decide (ddSrc d + ddSrcSpan d ≤ 0x400000))
    && (ddDstSp d || ddDstSpan d == 0 || decide (ddDst d + ddDstSpan d ≤ 0x400000))

/-- The stake a descriptor bumps names a rank and a package of the job (R192, R428). -/
def ddTargetOk (j : Option Job) (d : List Byte) : Bool :=
  !ddNfy d || match j with
    | none => ddPkg d == 0
    | some j => decide (ddRank d < j.ranks.length) && decide (ddPkg d ≤ j.pkgs)

/-- The local ranges of a descriptor (R190). -/
def ddRanges (d : List Byte) : List Range :=
  (if ddOp d != 1 && !ddSrcSp d then [(false, ddSrc d, ddSrcSpan d)] else [])
    ++ (if !ddDstSp d then [(true, ddDst d, ddDstSpan d)] else [])

/-- A descriptor address is live (R188). -/
def Ctx.addrLive (x : Ctx) (a : Nat) : Bool :=
  x.chans.toList.any (fun h => h.descs.any (fun d => d.addr.toNat == a))

/-- A channel is busy: it runs a descriptor or a send operation holds it (R160, R188). -/
def Channel.busy (h : Channel) : Bool := !h.descs.isEmpty || h.holder.isSome

/-- A descriptor begins on a channel: address, gen, status ST_OK, progress at its start (Tables 8-4, 8-5). -/
def Channel.start (h : Channel) (d : DmaDesc) : Channel :=
  { h with addr := d.addr, gen := BitVec.ofNat 16 (ddGen d.bytes), status := stOk, row := 0#32, offset := 0#24, susp := false, cond := 0#16 }

/-- The running descriptor leaves a channel with a status, and the next queued one starts (R187, R188). -/
def Channel.pop (h : Channel) (st : Half) : Channel :=
  let h' := { h with descs := h.descs.drop 1, status := st, row := 0#32, offset := 0#24, susp := false, cond := 0#16 }
  match h.descs.drop 1 with
  | [] => h'
  | e :: _ => h'.start e

/-- What is left of an endpoint's rows from a position: first byte and bytes of the bounding range (R190, R205). -/
def restSpan (a stride len rows row off : Nat) : Nat × Nat :=
  if rows ≤ row ∨ len = 0 then (a, 0)
  else
    let lo := if row + 1 = rows then row * stride + off else min (row * stride + off) ((row + 1) * stride)
    (a + lo, (rows - 1) * stride + len - lo)

/-- What a descriptor has left to write, from a position, when its destination is a virtual address. -/
def ddWritesLeft (d : List Byte) (row off : Nat) : List (Nat × Nat) :=
  if ddDstSp d then [restSpan (ddDst d) (ddDstStride d) (ddRowLen d) (ddRows d) row off] else []

/-- Virtual ranges that a core's channels have still to write for descriptors that issued before `serial` (R195). -/
def Ctx.writesBefore (x : Ctx) (serial : Nat) : List (Nat × Nat) :=
  x.chans.toList.flatMap fun h => (h.descs.mapIdx fun i d => (i, d)).flatMap fun p =>
    if p.2.serial < serial then (if p.1 = 0 then ddWritesLeft p.2.bytes h.row.toNat h.offset.toNat else ddWritesLeft p.2.bytes 0 0) else []

/-- Two ranges share a byte. -/
def spansMeet (a n b m : Nat) : Bool := decide (a < b + m) && decide (b < a + n)

/-! ### Stakes (R192) -/

/-- Offset of the stakes in a save area (Table 9-5). -/
def saveStakes : Nat := 0x1800

/-- Add to a stake of a rank of a job, on its core, or in its saved state and its save area (R192, R241). -/
def State.bumpRank (s : State) (id : Word) (rank stake : Nat) (v : Word) : State :=
  match s.job id with
  | none => s
  | some j =>
    match j.ranks[rank]? with
    | none => s
    | some r =>
      match r.core, r.saved with
      | some c, none => s.modCtx c fun x => x.setStake stake (x.stake stake + v)
      | _, none => s
      | _, some x =>
        let n := x.stake stake + v
        (s.writePhys (r.area + saveStakes + 4 * (stake % 16)) (leBytes 4 n.toNat)).modJob id fun j => j.modRank rank fun r =>
          { r with saved := some (x.setStake stake n) }

/-- The cores that run a carrier's ranks, in ascending order: rank r of the carrier is the r-th (DESIGN CHOICE, log 34). -/
def State.carrierCores (s : State) (k : CarrierId) : List CoreId :=
  (List.finRange 32).filter fun c => (s.core c).owner == .carrier k

/-- The stake bump of a finished descriptor; one for another package leaves by the trail (R428). -/
def State.bumpFor (s : State) (c : CoreId) (d : List Byte) : State :=
  if !ddNfy d then s else
  match (s.core c).owner with
  | .rank id _ =>
    match s.job id with
    | some j =>
      if j.ownPkg (ddPkg d) then s.bumpRank id (ddRank d) (ddStake d) (ddAdd d)
      else s.jobMessage j (ddPkg d) (.bump (s.refOf j) (ddRank d) (BitVec.ofNat 4 (ddStake d)) (ddAdd d)) []
    | none => s
  | .carrier k =>
    match (s.carrierCores k)[ddRank d]? with
    | some t => s.modCtx t fun x => x.setStake (ddStake d) (x.stake (ddStake d) + ddAdd d)
    | none => s
  | .none => s

/-! ### Issue (R184 to R192, R220) -/

/-- The end of a channel's running descriptor: status, stake, pegs, record, and the next queued descriptor starts; empty ones
behind it end in their turn (R187, R188, R192). `fuel` bounds the queue. -/
def State.descEnd (c : CoreId) (ch : Nat) : Nat → State → State
  | 0, s => s
  | fuel + 1, s =>
    let h := (s.ctx c).chan ch
    match h.descs with
    | [] => s
    | d :: rest =>
      let s := s.bumpFor c d.bytes
      let s := s.modCtx c fun x => (x.modChan ch fun h => h.pop stOk).dropPegs d.serial
      let s := s.complete c d.w (recDma c ch)
      match rest with
      | [] => s
      | e :: _ => if ddEmpty e.bytes then State.descEnd c ch fuel s else s

/-- What the vestibule buffer holds for a command that issues, and the rest of the buffer. What was read under other descriptor bytes is
dropped (R195). -/
def takeAhead (w : CmdWord) (d : List Byte) (q : List Ahead) : List Byte × List Ahead :=
  match q with
  | [] => ([], [])
  | a :: rest => if a.w = w then (if a.desc = d then a.data else [], rest) else ([], q)

/-- DMA_ARM and DMA_APPEND at issue. -/
def issueArm (c : CoreId) (w : CmdWord) (s : State) : Issue :=
  let x := s.ctx c
  let ch := dmaCh w
  let h := x.chan ch
  let a := dmaAddr w
  let append := opcodeOf w = 0x61
  let d := s.readCore c a 64
  let dPeg : Range := (false, a, 64)
  let ranges := if bypassOf w then [] else ddRanges d
  .need (a % 64 == 0 && decide (a + 64 ≤ 0x400000)) stCmdInvalid <|
  .hold (!x.pegsBlock [dPeg]) <|
  .need (!(s.deterministic c && ddOp d == 3)) stNondet <|
  .need (ddOk d && ddTargetOk (s.coreJob c) d) stCmdInvalid <|
  .need (!(x.addrLive a || h.holder.isSome || (!append && h.busy))) stRearmBusy <|
  .hold (decide (h.descs.length < 5) && !x.pegsBlock (dPeg :: ranges)) <|
  let (serial, x) := x.takeSerial
  let (ahead, rest) := takeAhead w d (s.core c).ahead
  let e : DmaDesc := { serial := serial, w := w, addr := BitVec.ofNat 22 a, bytes := d, ahead := ahead }
  let x := x.modChan ch fun h =>
    let h' := { h with descs := h.descs ++ [e] }
    if h.descs.isEmpty then h'.start e else h'
  let x := (x.takePegs serial (8 + ch) 0#2 ranges).keepSeen (bypassOf w) serial (ddRanges d) (s.readCore c)
  let s := s.setCore c { s.core c with ctx := x, ahead := rest }
  .go (if ddEmpty d && h.descs.isEmpty then s.descEnd c ch 1 else s)

/-- DMA_WAIT at issue: it waits until (stake − target), signed, is 0 or more (R193). -/
def issueWait (c : CoreId) (w : CmdWord) (s : State) : Issue :=
  .hold (decide (0 ≤ ((s.ctx c).stake (stakeOf w) - stakeValue w).toInt)) <|
  .go (s.complete c w (recDma c 8))

/-- DMA_STAKE (R194). -/
def issueStake (c : CoreId) (w : CmdWord) (s : State) : Issue :=
  let s := s.modCtx c fun x => x.setStake (stakeOf w) (if stakeAdd w then x.stake (stakeOf w) + stakeValue w else stakeValue w)
  .go (s.complete c w (recDma c 8))

/-- The status word of a channel (Table 8-4). -/
def Channel.statWord (h : Channel) : Dword :=
  BitVec.ofNat 64 ((if h.busy then 2 ^ 63 else 0) + (if h.susp then 2 ^ 62 else 0) + (h.descs.length - 1) * 2 ^ 59
    + h.addr.toNat * 2 ^ 32 + h.gen.toNat * 2 ^ 16 + h.status.toNat)

/-- The progress word of a channel (Table 8-5). -/
def Channel.progWord (h : Channel) : Dword := BitVec.ofNat 64 (h.row.toNat * 2 ^ 32 + h.offset.toNat)

/-- DMA_CHSTAT (R194, R215, R220). -/
def issueChstat (c : CoreId) (w : CmdWord) (s : State) : Issue :=
  .hold ((s.ctx c).regsReady [flagsSreg w]) <|
  let s := s.modCtx c fun x => x.setSreg (flagsSreg w) (x.chan (dmaCh w)).statWord
  .go (s.complete c w (recDma c 8))

/-! ### Translation (R200 to R202) -/

inductive Xlate where
  | ok (pa : Nat)
  | fault
  | err (st : Half)
deriving DecidableEq, Repr

/-- Virtual-address bits below a level, and the bytes of a table that an entry of the level names (Table 8-6). -/
def levelShift (lv : Nat) : Nat := match lv with | 0 => 39 | 1 => 30 | 2 => 21 | _ => 16
def levelEntries (lv : Nat) : Nat := if lv = 3 then 32 else 512
def nextTable (lv : Nat) : Nat := if lv = 2 then 256 else 4096

/-- The physical address of an entry's table or page (Table 8-7). -/
def ptePa (e : Nat) : Nat := bitsOf e 8 34 * 256

/-- An entry breaks the first row of Table 8-8. -/
def pteBad (lv e : Nat) : Bool :=
  let leaf := e.testBit 1
  bitsOf e 42 22 != 0 || bitsOf e 3 5 != 0 || (leaf && lv == 0) || (!leaf && lv == 3)
    || ptePa e % (if leaf then 2 ^ levelShift lv else nextTable lv) != 0

/-- Walk from a table at a level: `n` levels remain. A table outside memory counts as malformed (DEDUCED, log 35). -/
def State.walk (s : State) (va : Nat) (write : Bool) : Nat → Nat → Nat → Xlate
  | 0, _, _ => .err stPtInvalid
  | n + 1, lv, table =>
    let at' := table + 8 * (va / 2 ^ levelShift lv % levelEntries lv)
    if s.physKind at' = .forbidden then .err stPtInvalid
    else
      let e := leNat (s.readPhys at' 8)
      if pteBad lv e then .err stPtInvalid
      else if !e.testBit 0 then .fault
      else if e.testBit 1 then
        (if write && !e.testBit 2 then .err stPermDenied
         else .ok (ptePa e + va % 2 ^ levelShift lv))
      else s.walk va write n (lv + 1) (ptePa e)

/-- The root of the tables that a core's channels use (Table 8-11). -/
def State.ptRootOf (s : State) (c : CoreId) : Nat := bitsOf (s.core c).ptRoot.toNat 12 30 * 4096

/-- Translate one access of a core's DMA (R202). -/
def State.translate (s : State) (c : CoreId) (va : Nat) (write atomic : Bool) : Xlate :=
  match s.walk (va % 2 ^ 48) write 4 0 (s.ptRootOf c) with
  | .ok pa =>
    match s.physKind pa with
    | .forbidden => .err stPhysHole
    | .die _ => .ok pa
    | _ => if atomic then .err stAtomicTarget else .ok pa
  | x => x

/-! ### The transfer (R185, R186, R203) -/

/-- How far a transfer came: to its end, to a granule of a not-present page, to a translation error, or to a unit that waits (for a peg of
the target core at port 7, R180, or an earlier write, R195) or at which it stops. -/
inductive Progress where
  | done
  | fault (row off va : Nat)
  | err (row off : Nat) (st : Half)
  | held (row off : Nat)
deriving DecidableEq, Repr

/-- The address of an endpoint: local core memory or translated. -/
def State.endpoint (s : State) (c : CoreId) (sp : Bool) (a : Nat) (write atomic : Bool) : Xlate :=
  if sp then s.translate c a write atomic else .ok (coreAddr c a)

/-- An access to a core's memory by physical address waits at port 7 while it overlaps a live peg it conflicts with, but for pegs that
`mine` names (R169, R180). -/
def State.portHeld (s : State) (mine : CoreId → Peg → Bool) (write : Bool) (pa n : Nat) : Bool :=
  match s.physKind pa with
  | .core t => (s.ctx t).pegs.any fun p => !mine t p && p.hits write ((pa - Config.coreMemBase) % Config.coreMemStep) n
  | _ => false

/-- The pegs of a command of a core. -/
def pegOf (c : CoreId) (serial : Nat) (t : CoreId) (p : Peg) : Bool := t == c && p.serial == serial

/-- The bytes of a fill pattern from byte `off` of a row on (Table 8-1). -/
def fillBytes (d : List Byte) (off n : Nat) : List Byte := (List.range n).map fun i => (ddFill d).getD ((off + i) % 4) 0#8

/-- 32-bit words combined one by one (R175). -/
def addWords (float : Bool) : Nat → List Byte → List Byte → List Byte
  | 0, _, _ => []
  | n + 1, old, src =>
    let a := BitVec.ofNat 32 (leNat (old.take 4))
    let b := BitVec.ofNat 32 (leNat (src.take 4))
    leBytes 4 (if float then fadd a b else a + b).toNat ++ addWords float n (old.drop 4) (src.drop 4)

/-- Bytes of the next unit: at most 64, in one 64-byte line of each endpoint (R185). -/
def unitLen (d : List Byte) (row off : Nat) : Nat :=
  let da := ddDst d + row * ddDstStride d + off
  let sa := ddSrc d + row * ddSrcStride d + off
  let n := min (ddRowLen d - off) (64 - da % 64)
  if ddOp d = 1 then n else min n (64 - sa % 64)

/-- A unit's source read waits for a virtual range that an earlier-issued DMA command of the core has still to write (R195). -/
def readWaits (d : List Byte) (before : List (Nat × Nat)) (sa n : Nat) : Bool :=
  ddSrcSp d && before.any fun r => spansMeet (sa % 2 ^ 48) n (r.1 % 2 ^ 48) r.2 || decide (2 ^ 48 < r.1 % 2 ^ 48 + r.2)

/-- The bytes of a core's own memory that a descriptor writes. -/
def ownBytes (d : List Byte) (a : Nat) : Bool := !ddDstSp d && inSpans ((List.range (ddRows d)).map fun i => (ddDst d + i * ddDstStride d, ddRowLen d)) a

/-- Run a descriptor from a position, unit by unit, up to the unit that `stop` names; `before`: the virtual ranges whose writes its reads
wait for. Bytes that the vestibule buffer holds are not read again. `fuel` bounds the number of units. -/
def State.transfer (c : CoreId) (e : DmaDesc) (before : List (Nat × Nat)) (stop : Nat → Nat → Bool) : Nat → State → Nat → Nat → State × Progress
  | 0, s, _, _ => (s, .done)
  | fuel + 1, s, row, off =>
    let d := e.bytes
    if ddRows d ≤ row then (s, .done)
    else if ddRowLen d ≤ off then State.transfer c e before stop fuel s (row + 1) 0
    else if stop row off then (s, .held row off)
    else
      let n := unitLen d row off
      let sa := ddSrc d + row * ddSrcStride d + off
      let da := ddDst d + row * ddDstStride d + off
      let atomic := decide (2 ≤ ddOp d)
      let pos := row * ddRowLen d + off
      let have' := decide (pos + n ≤ e.ahead.length)
      let src := if ddOp d = 1 || have' then .ok 0 else s.endpoint c (ddSrcSp d) sa false false
      match src, s.endpoint c (ddDstSp d) da true atomic with
      | .err st, _ => (s, .err row off st)
      | .fault, _ => (s, .fault row off (sa / 4096 * 4096))
      | .ok _, .err st => (s, .err row off st)
      | .ok _, .fault => (s, .fault row off (da / 4096 * 4096))
      | .ok sp, .ok dp =>
        if (!have' && (readWaits d before sa n || (ddSrcSp d && s.portHeld (pegOf c e.serial) false sp n)))
            || (ddDstSp d && s.portHeld (pegOf c e.serial) true dp n) then (s, .held row off)
        else
          let data := if ddOp d = 1 then fillBytes d off n else if have' then (e.ahead.drop pos).take n
            else (if ddSrcSp d then s else s.view c e.serial row (ownBytes d)).readPhys sp n
          let out := if atomic then addWords (ddOp d == 3) (n / 4) (s.readPhys dp n) data else data
          State.transfer c e before stop fuel (s.writePhys dp out) row (off + n)

/-- Enough fuel for every unit of a descriptor. -/
def ddFuel (d : List Byte) : Nat := ddRows d * (ddRowLen d + 2) + 1

/-- Run a channel's descriptor from its progress point. -/
def State.runChannel (s : State) (c : CoreId) (ch : Nat) : Option (State × Progress) :=
  let h := (s.ctx c).chan ch
  match h.descs with
  | [] => none
  | d :: _ => some (State.transfer c d ((s.ctx c).writesBefore d.serial) (fun _ _ => false) (ddFuel d.bytes) s h.row.toNat h.offset.toNat)

/-- Set a channel's progress point. -/
def State.setProgress (s : State) (c : CoreId) (ch row off : Nat) : State :=
  s.modCtx c fun x => x.modChan ch fun h => { h with row := BitVec.ofNat 32 row, offset := BitVec.ofNat 24 off }

/-- Add 1 to a saturating 16-bit counter. -/
def satInc16 (v : Half) : Half := if v = 0xFFFF#16 then v else v + 1#16
def satInc32 (v : Word) : Word := if v = 0xFFFFFFFF#32 then v else v + 1#32
def satInc64 (v : Dword) : Dword := if v = 0xFFFFFFFFFFFFFFFF#64 then v else v + 1#64
def satInc8 (v : Byte) : Byte := if v = 0xFF#8 then v else v + 1#8

/-- Suspend a channel on a page fault: progress point, susp, ST_PAGE_FAULT raised to the firmware with the granule, the fault count (R203,
Table 8-10). -/
def State.suspend (s : State) (c : CoreId) (ch row off va : Nat) : State :=
  let s := s.setProgress c ch row off
  let s := s.modCtx c fun x => x.modChan ch fun h => { h with susp := true, cond := stPageFault, faultVa := BitVec.ofNat 48 va }
  s.modCore c fun k => { k with faults := satInc16 k.faults }

/-! ### Coalescing (R198) -/

/-- 64-byte lines that a descriptor reads by virtual address, at most. -/
def ddLines (d : List Byte) : Nat := if ddSrcSp d then ddRows d * (ddRowLen d / 64 + 2) else 0

/-- The coalescers of both dies count the reads of a finished transfer that they merged into earlier reads in flight: how many is timing, a
free value for each die (R198, log 2). -/
def State.countMerges (s : State) (d : List Byte) : State :=
  if ddLines d = 0 then s
  else
    let (v, s) := s.drawMany 2
    let add := fun (x : Die) (i : Nat) => { x with coal := x.coal + BitVec.ofNat 32 ((v.getD i 0#64).toNat % (ddLines d + 1)) }
    { s with dies := (s.dies.set 0 (add (s.dies.get 0) 0)).set 1 (add (s.dies.get 1) 1) }

/-! ### Fetch-ahead (R195 to R197) -/

/-- The DMA commands that fetch-ahead may reach: those among the commands that wait at issue, up to the first fence and the first DMA_WAIT, at
most 16. -/
def aheadCmds (ws : List CmdWord) : List CmdWord :=
  ((ws.takeWhile fun w => !fenceOf w && opcodeOf w != 0x62).filter fun w => opcodeOf w == 0x60 || opcodeOf w == 0x61).take 16

/-- Read more of a command's source into the vestibule buffer: at most `fuel` units of its transfer order from byte `data.length` on. The
read stops at the end, at a page that is not present, at a translation error, at a peg of port 7, and at a range that an earlier command has
still to write. -/
def State.readAhead (s : State) (c : CoreId) (d : List Byte) (before : List (Nat × Nat)) : Nat → Nat → Nat → List Byte → List Byte
  | 0, _, _, data => data
  | fuel + 1, row, off, data =>
    if ddRows d ≤ row then data
    else if ddRowLen d ≤ off then s.readAhead c d before fuel (row + 1) 0 data
    else
      let n := unitLen d row off
      let sa := ddSrc d + row * ddSrcStride d + off
      match s.translate c sa false false with
      | .ok pa =>
        if readWaits d before sa n || s.portHeld (fun _ _ => false) false pa n then data
        else s.readAhead c d before fuel row (off + n) (data ++ s.readPhys pa n)
      | _ => data

/-- Bytes that the vestibule buffer of a core holds (R194). -/
def aheadBytes (q : List Ahead) : Nat := q.foldl (fun n a => n + a.data.length) 0

/-- One pass of fetch-ahead over the commands in order: units to read, commands, buffer, and ranges still to be written by earlier ones. -/
def State.aheadPass (s : State) (c : CoreId) : Nat → List CmdWord → List Ahead → List (Nat × Nat) → List Ahead
  | _, [], q => fun _ => q
  | units, w :: ws, q => fun before =>
    let d := s.readCore c (dmaAddr w) 64
    let own := match q with | a :: _ => if a.w = w && a.desc = d then a.data else [] | [] => []
    let rest := match q with | a :: as => if a.w = w then as else a :: as | [] => []
    let row := own.length / max 1 (ddRowLen d)
    let data := if ddOk d && ddSrcSp d then s.readAhead c d before units row (own.length - row * ddRowLen d) own else []
    { w := w, desc := d, data := data : Ahead } :: s.aheadPass c (units - (data.length - own.length + 63) / 64) ws rest (before ++ ddWritesLeft d 0 0)

/-- Some command that fetch-ahead reaches reads by virtual address. -/
def State.mayFetch (s : State) (c : CoreId) : Bool :=
  let k := s.core c
  s.unitsRun c && !k.stopped && k.preempt.isEmpty &&
    (aheadCmds k.ctx.waiting).any fun w => let d := s.readCore c (dmaAddr w) 64; ddOk d && ddSrcSp d && !ddEmpty d

/-- Fetch-ahead: the sequencer may begin the source reads of commands that wait at issue; how much it reads is a free value (R195, log 82). -/
def State.fetchAhead (s : State) (c : CoreId) : State :=
  if !s.mayFetch c then s
  else
    let (v, s) := s.draw
    let x := s.ctx c
    s.modCore c fun k => { k with ahead := s.aheadPass c (min (v.toNat % 1025) ((65536 - aheadBytes k.ahead) / 64)) (aheadCmds x.waiting) k.ahead (x.writesBefore x.serial) }

end Sys2Proof.Machine
end

