-- ==== Sys2Proof/Machine/Cell.lean ====
section
/-!
DEFINITION. The arithmetic of one accumulator cell over the steps of a tile (R36, R44 to R51), and a whole tile over the cells
of an engine or half (R37, R52, R54).
-/
namespace Sys2Proof.Machine

/-- The pairs of R39. -/
def pairOk (fa fb : Nat) : Bool :=
  (decide (fa ≤ 2) && decide (fb ≤ 2)) || (decide (3 ≤ fa ∧ fa ≤ 5) && decide (3 ≤ fb ∧ fb ≤ 5))
    || (fa == fb && (fa == 6 || fa == 7)) || (fmtComplex fa && fmtComplex fb)

/-- A cell's state while a tile runs: real lane, imaginary lane, index, flags. -/
structure CellSt where
  re    : Word
  im    : Word
  idx   : BitVec 6
  flags : Byte := 0#8
deriving DecidableEq, Repr

/-- What a tile does to each cell (Table 2-8). -/
structure TileOp where
  mode  : Nat
  fmtA  : Nat
  fmtB  : Nat
  grp   : Bool
  acc   : Bool
  conjA : Bool
  conjB : Bool
  kbase : Nat
  gsize : Nat
deriving DecidableEq, Repr

def TileOp.cplx (t : TileOp) : Bool := fmtComplex t.fmtA
def TileOp.isInt (t : TileOp) : Bool := fmtInteger t.fmtA

/-- The identity of a mode in the accumulator type of the pair (R51). -/
def TileOp.identity (t : TileOp) : Word :=
  if t.mode = 3 then (if t.isInt then 0x7FFFFFFF#32 else 0x7F800000#32)
  else if t.mode = 4 then (if t.isInt then 0x80000000#32 else 0xFF800000#32)
  else 0#32

def CellSt.addFlags (c : CellSt) (f : Byte) : CellSt := { c with flags := c.flags ||| f }

/-- A clamped addition to the real lane (R44). -/
def CellSt.addRe (c : CellSt) (v : Int) : CellSt :=
  let (w, sat) := clamp32 (c.re.toInt + v)
  ({ c with re := w }).addFlags (satFlag sat)

/-- A clamped addition to the imaginary lane (R46). -/
def CellSt.addIm (c : CellSt) (v : Int) : CellSt :=
  let (w, sat) := clamp32 (c.im.toInt + v)
  ({ c with im := w }).addFlags (satFlag sat)

/-- MINPLUS and MAXPLUS on the value s (R49): a NaN takes the lane and freezes it, an extreme takes the lane and its index. -/
def CellSt.extreme (c : CellSt) (less : Bool) (better : Bool) (s : Word) (sNan accNan : Bool) (k : BitVec 6) : CellSt :=
  if accNan then c
  else if sNan then { c with re := 0x7FC00000#32, idx := k }
  else if less && better then { c with re := s, idx := k } else c

/-- One step on an integer pair (R44, R48, R49). -/
def stepInt (t : TileOp) (k : Nat) (c : CellSt) (a b : Int) : CellSt :=
  match t.mode with
  | 0 => c.addRe (a * b)
  | 1 => c.addRe ((a - b) * (a - b))
  | 2 => c.addRe ((a - b).natAbs : Int)
  | 3 => c.extreme true (a + b < c.re.toInt) (BitVec.ofInt 32 (a + b)) false false (BitVec.ofNat 6 (t.kbase + k))
  | _ => c.extreme true (c.re.toInt < a + b) (BitVec.ofInt 32 (a + b)) false false (BitVec.ofNat 6 (t.kbase + k))

/-- One accumulation of an exact term on FP32 (R45). -/
def CellSt.accum (c : CellSt) (term : FV) (opFin opNan : Bool) : CellSt :=
  let a := f32 c.re
  let r := rne32 (a.add term)
  ({ c with re := r }).addFlags (accFlags (a.isFin && opFin) (opNan || (fIsNan r && !a.isNan)) r)

/-- One step on a float pair (R45, R48, R49, R50). In a distance step finite operands whose rounded d or d·d is an infinity set acc_inf
(DEDUCED, log 93). -/
def stepFloat (t : TileOp) (k : Nat) (c : CellSt) (a b : FV) : CellSt :=
  match t.mode with
  | 0 => c.accum (a.mul b) (a.isFin && b.isFin) (a.mul b).isNan
  | 1 =>
    let d := f32 (rne32 (a.sub b))
    c.accum (f32 (rne32 (d.mul d))) (a.isFin && b.isFin) (d.mul d).isNan
  | 2 =>
    let d := f32 (rne32 (a.sub b))
    c.accum d.abs (a.isFin && b.isFin) d.isNan
  | _ =>
    let s := rne32 (a.add b)
    let better := if t.mode = 3 then flt s c.re else flt c.re s
    (c.extreme true better s (fIsNan s) (fIsNan c.re) (BitVec.ofNat 6 (t.kbase + k))).addFlags
      (accFlags (a.isFin && b.isFin) (fIsNan s) s)

/-- Conjugates as conj_a and conj_b ask (R46). -/
def conjIf (b : Bool) (z : Int × Int) : Int × Int := if b then (z.1, -z.2) else z

/-- One step on a complex pair (R46, R48). -/
def stepComplex (t : TileOp) (c : CellSt) (a b : Int × Int) : CellSt :=
  let a := conjIf t.conjA a
  let b := conjIf t.conjB b
  let dr := a.1 - b.1
  let di := a.2 - b.2
  match t.mode with
  | 0 => (c.addRe (a.1 * b.1 - a.2 * b.2)).addIm (a.1 * b.2 + a.2 * b.1)
  | 1 => c.addRe (dr * dr + di * di)
  | _ => c.addRe ((dr.natAbs + di.natAbs : Nat) : Int)

/-- The exact sum of a group's products; products that are not finite contribute their IEEE sum alone (R47). -/
def groupSum (ps : List FV) : FV :=
  let odd := ps.filter (fun p => !p.isFin)
  if odd.isEmpty then
    match ps.foldl FV.add (.fin false 0 0) with
    | .fin neg m e => if m = 0 then .fin false 0 0 else .fin neg m e
    | x => x
  else odd.foldl FV.add (.fin false 0 0)

/-- One group step on an FP32 lane: acc = RNE32(acc + RNE32(g × sA × sB)) (R47); the new lane and its flags. -/
def groupLane (acc : Word) (g sA sB : FV) : Word × Byte :=
  let p := (g.mul sA).mul sB
  let inner := rne32 p
  let a := f32 acc
  let r := rne32 (a.add (f32 inner))
  let fin := a.isFin && g.isFin && sA.isFin && sB.isFin
  (r, flagIf (p.isNan || (fIsNan r && !a.isNan)) fNan
      ||| flagIf (fin && ((!fIsFin inner && !fIsNan inner) || (!fIsFin r && !fIsNan r))) fInf)

/-- The real-lane product of two element codes of a pair. -/
def prodRe (t : TileOp) (a b : Nat) : FV :=
  if t.cplx then
    let x := conjIf t.conjA (decodeComplex t.fmtA a)
    let y := conjIf t.conjB (decodeComplex t.fmtB b)
    FV.ofInt (x.1 * y.1 - x.2 * y.2)
  else (decodeReal t.fmtA a).mul (decodeReal t.fmtB b)

/-- The imaginary-lane product of a complex pair. -/
def prodIm (t : TileOp) (a b : Nat) : FV :=
  let x := conjIf t.conjA (decodeComplex t.fmtA a)
  let y := conjIf t.conjB (decodeComplex t.fmtB b)
  FV.ofInt (x.1 * y.2 + x.2 * y.1)

/-- One group on a cell: its element codes and the two scales (R47). -/
def stepGroup (t : TileOp) (c : CellSt) (as bs : List Nat) (sA sB : FV) : CellSt :=
  let ps := List.zipWith (prodRe t) as bs
  let (re, f) := groupLane c.re (groupSum ps) sA sB
  let c := ({ c with re := re }).addFlags f
  if t.cplx then
    let (im, f) := groupLane c.im (groupSum (List.zipWith (prodIm t) as bs)) sA sB
    ({ c with im := im }).addFlags f
  else c

/-- One step outside group mode, on element codes. -/
def stepCell (t : TileOp) (k : Nat) (c : CellSt) (a b : Nat) : CellSt :=
  if t.cplx then stepComplex t c (decodeComplex t.fmtA a) (decodeComplex t.fmtB b)
  else if t.isInt then
    match decodeReal t.fmtA a, decodeReal t.fmtB b with
    | .fin sa ma ea, .fin sb mb eb => stepInt t k c (FV.intAt sa ma ea 0) (FV.intAt sb mb eb 0)
    | _, _ => c
  else stepFloat t k c (decodeReal t.fmtA a) (decodeReal t.fmtB b)

/-- Steps from index k on. -/
def runSteps (t : TileOp) : Nat → List Nat → List Nat → CellSt → CellSt
  | k, a :: as, b :: bs, c => runSteps t (k + 1) as bs (stepCell t k c a b)
  | _, _, _, c => c

/-- Groups, each with its scales. -/
def runGroups (t : TileOp) : List (FV × FV) → List Nat → List Nat → CellSt → CellSt
  | (sA, sB) :: ss, as, bs, c =>
    runGroups t ss (as.drop t.gsize) (bs.drop t.gsize) (stepGroup t c (as.take t.gsize) (bs.take t.gsize) sA sB)
  | [], _, _, c => c

/-- The fold of a tile over one cell (R36): from the identity or from the cell as it stands (R51), every step in ascending k. An acc = 0
tile on a real pair sets the imaginary lane to 0 too (DESIGN CHOICE, log 92). -/
def runCell (t : TileOp) (as bs : List Nat) (scales : List (FV × FV)) (c : CellSt) : CellSt :=
  let c := if t.acc then { c with flags := 0#8 } else { re := t.identity, im := 0#32, idx := 0#6 }
  if t.grp then runGroups t scales as bs c else runSteps t 0 as bs c

/-- Element `i` of `bits` bits in a list of bytes; a 4-bit element with even index sits in the low half of its byte (R37, R68). -/
def elemAt (bits : Nat) (bs : List Byte) (i : Nat) : Nat :=
  if bits = 4 then
    let b := (bs.getD (i / 2) 0#8).toNat
    if i % 2 = 0 then b % 16 else b / 16
  else leNat ((bs.drop (i * (bits / 8))).take (bits / 8))

/-- The cell numbers of accumulator rows `r0` to `r0 + 63`. -/
def cellOf (word : Dword) (idx : BitVec 6) : CellSt :=
  { re := word.setWidth 32, im := (word >>> 32).setWidth 32, idx := idx }

def CellSt.word (c : CellSt) : Dword := (c.im.setWidth 64 <<< 32) ||| c.re.setWidth 64

/-- Rows of a part: the first accumulator row and the number of rows (R54). -/
def partRows (half : BitVec 2) : Nat × Nat :=
  if half = 0#2 then (0, 64) else if half = 2#2 then (0, 32) else (32, 32)

/-- Row i of a part is enabled: i < m and the mask bit of its accumulator row (R52, R54). -/
def rowOn (half : BitVec 2) (m : Nat) (mask : Dword) (i : Nat) : Bool :=
  decide (i < m) && mask.getLsbD ((partRows half).1 + i)

/-- The result of a tile on its part: the new state of each enabled cell of the 64 × 64 array, none elsewhere. -/
abbrev TileOut := List (Option CellSt)

/-- Whether a tile or copy-out of a part enables accumulator cell q (R52). -/
def cellOn (half : BitVec 2) (m n : Nat) (mask : Dword) (q : Nat) : Bool :=
  let (r0, h) := partRows half
  decide (r0 ≤ q / 64) && decide (q / 64 < r0 + h) && rowOn half m mask (q / 64 - r0) && decide (q % 64 < n)

/-- A tile over every enabled cell of a part. `cols` are the A columns (64 or 32 elements), `rows` the B rows, as bytes;
`scales` gives the group scales of a local row and a column. -/
def runTile (t : TileOp) (half : BitVec 2) (m n : Nat) (mask : Dword) (cols rows : List (List Byte))
    (scales : Nat → Nat → List (FV × FV)) (acc : Cells 64) (idx : Cells 6) : TileOut :=
  let as := (List.range (partRows half).2).map fun i => cols.map fun c => elemAt (fmtBits t.fmtA) c i
  let bs := (List.range 64).map fun j => rows.map fun r => elemAt (fmtBits t.fmtB) r j
  (List.range 4096).map fun q =>
    if cellOn half m n mask q then
      let i := q / 64 - (partRows half).1
      some (runCell t (as.getD i []) (bs.getD (q % 64) []) (if t.grp then scales i (q % 64) else []) (cellOf (acc.get q) (idx.get q)))
    else none

/-- The accumulators after a tile. -/
def TileOut.acc (o : TileOut) (old : Cells 64) : Cells 64 :=
  Cells.ofList 0 (o.mapIdx fun q c => match c with | some c => c.word | none => old.get q)

/-- The indices after a tile. -/
def TileOut.idx (o : TileOut) (old : Cells 6) : Cells 6 :=
  Cells.ofList 0 (o.mapIdx fun q c => match c with | some c => c.idx | none => old.get q)

/-- The flags of a tile (R50). -/
def TileOut.flags (o : TileOut) : Byte :=
  o.foldl (fun f c => match c with | some c => f ||| c.flags | none => f) 0#8

end Sys2Proof.Machine
end

