-- ==== Sys2Proof/Machine/Engine.lean ====
section
/-!
DEFINITION. Engine commands at issue (R36 to R66, R92, R93, R216, R236): what each checks, waits for and takes.
-/
namespace Sys2Proof.Machine

def Engine.part (g : Engine) (h : BitVec 2) : EngPart := if h = 3#2 then g.up else g.lo
def Engine.setPart (g : Engine) (h : BitVec 2) (p : EngPart) : Engine := if h = 3#2 then { g with up := p } else { g with lo := p }
def Engine.modPart (g : Engine) (h : BitVec 2) (f : EngPart → EngPart) : Engine := g.setPart h (f (g.part h))
def EngRes.part (r : EngRes) (h : BitVec 2) : PartRes := if h = 3#2 then r.up else r.lo
def EngRes.setPart (r : EngRes) (h : BitVec 2) (p : PartRes) : EngRes := if h = 3#2 then { r with up := p } else { r with lo := p }
def Engine.copy (g : Engine) (k : Nat) : EngRes := g.res[k % 3]'(Nat.mod_lt _ (by decide))
def Engine.setCopy (g : Engine) (k : Nat) (r : EngRes) : Engine := { g with res := g.res.set (k % 3) r (Nat.mod_lt _ (by decide)) }
def Engine.modCopy (g : Engine) (k : Nat) (f : EngRes → EngRes) : Engine := g.setCopy k (f (g.copy k))

/-- First A-buffer byte and bytes of a part (R37, R54). -/
def aBase (h : BitVec 2) : Nat := if h = 3#2 then 32768 else 0
def aSize (h : BitVec 2) : Nat := if h = 0#2 then 65536 else 32768
/-- Room of a part's B FIFO (R38, R54). -/
def fifoRoom (h : BitVec 2) : Nat := if h = 0#2 then 32768 else 16384
/-- Bytes of an A column (R65) and of a B row (R38). -/
def colBytes (fmt : Nat) (h : BitVec 2) : Nat := (if h = 0#2 then 8 else 4) * fmtBits fmt
def rowBytes (fmt : Nat) : Nat := 8 * fmtBits fmt

/-- The formats of Table 2-1. -/
def operandFmt (fmt : Nat) : Bool := decide (fmt < 8) || decide (9 ≤ fmt ∧ fmt ≤ 11)

/-- The logical engines a command addresses (R60). -/
def engSel (w : CmdWord) : List Nat :=
  if unitOf w = 5 then (List.range 4).filter (fun e => (engMaskOf w).testBit e) else [unitOf w - 1]

/-- The selection rules of R60: eng_mask 0 with one engine, not 0 with a group; ENG_SAVE, ENG_RESTORE and ENG_FLAGS take no
group. -/
def engSelOk (w : CmdWord) : Bool :=
  if unitOf w = 5 then engMaskOf w != 0 && !(opcodeOf w ∈ [0x16, 0x17, 0x18]) else engMaskOf w == 0

/-- The half field fits the split state that the command sees (R55). ENG_SPLIT has no half. -/
def halfOk (w : CmdWord) (g : Engine) : Bool :=
  opcodeOf w = 0x15 || (if g.splitNext then halfOf w = 2#2 || halfOf w = 3#2 else halfOf w = 0#2)

/-- Engines that the attention operation which runs, the oldest issued one, owns (R135, R146, R147). -/
def Ctx.pvOwned (x : Ctx) (e : Nat) : Bool :=
  (x.vec.take 1).any fun v => opcodeOf v.w == 0x30 && (fieldAt v.blk 0 1 == 5 || fieldAt v.blk 0 1 == 6)
    && decide (fieldAt v.blk 0x10 8 / 2 ^ 54 % 16 ≤ e)

/-- Bytes of a strided range of `n` pieces of `len` bytes. -/
def strided (n stride len : Nat) : Nat := if n = 0 ∨ len = 0 then 0 else (n - 1) * stride + len

/-- The bytes stay inside core memory (R61, R139, R185). -/
def inCore (a len : Nat) : Bool := len = 0 || decide (a + len ≤ 0x400000)

/-- The context copy that commands on a logical engine use (R236): copies differ for engine 3 of a core with three backed
slots. -/
def runCopy (backed e run : Nat) : Nat := if e = 3 ∧ backed = 3 then (run - 1) % 3 else 0

/-- An engine part's queue has room for a fifth command no more (R216). -/
def Engine.full (g : Engine) (h : BitVec 2) : Bool := decide (4 ≤ g.queue.countP (fun q => q.half == h))

/-- The rows of a part that a tile may take are of format fmt_b for the first k (R38, R61). -/
def rowsOk (fmt : Nat) : Nat → List (BitVec 4 × Nat) → Bool
  | k, [] => k = 0
  | k, (f, n) :: rest => k = 0 || ((f.toNat == fmt || n = 0) && rowsOk fmt (k - n) rest)

/-- The rows left after a tile takes k. -/
def takeRows : Nat → List (BitVec 4 × Nat) → List (BitVec 4 × Nat)
  | _, [] => []
  | k, (f, n) :: rest => if n ≤ k then takeRows (k - n) rest else (f, n - k) :: rest

/-- The A-buffer lines that `len` bytes from line `off` of a part touch. -/
def linesOf (h : BitVec 2) (off len : Nat) : Nat × Nat := (aBase h / 64 + off, ceilDiv len 64)

/-- The lines agree with a format: each was last written in it, or by no ENG_LOADA (R61). -/
def linesOk (g : Engine) (h : BitVec 2) (off len fmt : Nat) : Bool :=
  let (a, n) := linesOf h off len
  (g.aFmt.slice a n).all (fun v => v == 0#5 || v == BitVec.ofNat 5 (fmt + 1))

/-- Group size of an attachment (R66). -/
def Attach.size (a : Attach) : Nat := 32 + 16 * a.gsz.toNat

/-- A tile consumes rows and blocks only when K, M and N are above 0 (R38, R92). -/
def tileWorks (w : CmdWord) : Bool := decide (0 < tileK w) && decide (0 < tileM w) && decide (0 < tileN w)

/-- The format, mode and operand checks of ENG_TILE that no engine state enters (R39, R46 to R49, R54, R64). -/
def tileFieldsOk (w : CmdWord) : Bool :=
  let fa := tileFmtA w
  let fb := tileFmtB w
  let cplx := fmtComplex fa
  let grpFmt := fun f => decide (f ≤ 5) || f == 9 || f == 11
  decide (tileMode w ≤ 4) && operandFmt fa && operandFmt fb && pairOk fa fb
    && (!tileGrp w || (tileMode w == 0 && grpFmt fa && grpFmt fb))
    && (cplx || (!tileConjA w && !tileConjB w))
    && (tileMode w < 3 || !cplx)
    && ((tileMode w == 3 || tileMode w == 4) || tileKbase w == 0)
    && decide (tileM w ≤ if halfOf w = 0#2 then 64 else 32) && decide (tileN w ≤ 64)

/-- The checks of ENG_TILE on one engine (R37, R38, R61, R93). -/
def tileEngineOk (w : CmdWord) (g : Engine) : Bool :=
  let h := halfOf w
  let p := g.part h
  let len := tileK w * colBytes (tileFmtA w) h
  (len == 0 || decide (tileAOff w * 64 + len ≤ aSize h))
    && linesOk g h (tileAOff w) len (tileFmtA w)
    && (!tileWorks w || rowsOk (tileFmtB w) (tileK w) p.avail)
    && (!tileGrp w || match p.attach with
      | none => false
      | some a => tileK w % a.size == 0
          && (!tileWorks w || (inCore a.aPtr (128 * (tileK w / a.size)) && inCore a.bPtr (128 * (tileK w / a.size)))))

/-- The scale-block ranges of a group-mode tile on one engine (R93). -/
def tileRanges (w : CmdWord) (g : Engine) : List Range :=
  match tileGrp w && tileWorks w, (g.part (halfOf w)).attach with
  | true, some a => [(false, a.aPtr, 128 * (tileK w / a.size)), (false, a.bPtr, 128 * (tileK w / a.size))]
  | _, _ => []

/-- The attachment after a tile's issue: both pointers and the tag move on (R92). -/
def Attach.advance (a : Attach) (k : Nat) : Attach :=
  { a with aPtr := a.aPtr + 128 * (k / a.size), bPtr := a.bPtr + 128 * (k / a.size), tag := a.tag + BitVec.ofNat 4 (k / a.size) }

/-- The row mask a tile or copy-out samples at issue (R52, R116). -/
def sampleMask (x : Ctx) (en : Bool) (r : Nat) : Dword := if en then x.sreg r else 0xFFFFFFFFFFFFFFFF#64

/-- Register and range needs of an engine command, its fields checked against the engines it selects. -/
structure EngNeed where
  ok     : Bool
  regs   : List Nat
  ranges : List Range

/-- The bank a copy-out or save reads holds complex elements (R58). With no tile since rank start or ENG_SPLIT it counts as real INT32, so
w = 4 (DESIGN CHOICE, log 97). -/
def EngPart.cplx (p : EngPart) : Bool := fmtComplex (p.pair.toNat % 16)

/-- The bank a copy-out reads holds INT32 lanes (R112). -/
def EngPart.int (p : EngPart) : Bool := fmtInteger (p.pair.toNat % 16) && !p.grp

/-- The rows a copy-out delivers (R54, R57). -/
def copyRows (w : CmdWord) (mask : Dword) : List Nat :=
  (List.range (partRows (halfOf w)).2).filter (rowOn (halfOf w) (copyM w) mask)

/-- Bytes per element of a copy-out to core memory (R58). -/
def copyWidth (w : CmdWord) (p : EngPart) : Nat := if copyIdx w || p.cplx then 8 else 4

/-- The bounding range of a copy-out's writes. -/
def copyRange (w : CmdWord) (p : EngPart) (mask : Dword) : List Range :=
  let rows := copyRows w mask
  match rows.head?, rows.getLast? with
  | some a, some b =>
    if copyN w = 0 then [] else
      [(true, copyDst w + a * copyStride w, (b - a) * copyStride w + copyN w * copyWidth w p)]
  | _, _ => []

/-- Bytes of a state image (R59). -/
def imageBytes (h : BitVec 2) : Nat := if h = 0#2 then 36928 else 18496

/-- An image header passes Table 2-11. One that names another split state or part than the command is taken (DESIGN CHOICE, log 94). -/
def imageHeaderOk (b : List Byte) : Bool :=
  let fmtOk := fun f => decide (f ≤ 11)
  fieldAt b 0 1 ≤ 4 && fmtOk (fieldAt b 1 1 % 16) && fmtOk (fieldAt b 1 1 / 16) && fieldAt b 2 1 < 2
    && fieldAt b 3 1 < 8 && fieldAt b 3 1 % 4 != 1 && fieldAt b 4 1 < 8 && fieldAt b 5 1 < 2
    && (((b.drop 6).take 58).all (fun v => v == 0#8))

/-- What an engine command needs, from its fields and the engines it selects; the image header of an ENG_RESTORE is judged apart. An
ENG_LOADA whose columns pass the end of the A buffer or half is rejected as R37 rejects a tile (DEDUCED, log 95). -/
def engNeed (x : Ctx) (w : CmdWord) (gs : List Engine) : EngNeed :=
  let h := halfOf w
  match opcodeOf w with
  | 0x10 =>
    let cb := colBytes (moveFmt w) h
    let len := strided (loadaK w) (loadaStride w) cb
    { ok := operandFmt (moveFmt w) && moveSrc w % 4 == 0 && loadaStride w % 4 == 0 && inCore (moveSrc w) len
        && (loadaK w == 0 || decide (loadaOff w * 64 + loadaK w * cb ≤ aSize h))
      regs := [], ranges := [(false, moveSrc w, len)] }
  | 0x11 =>
    let len := strided (streamRows w) (streamStride w) (rowBytes (moveFmt w))
    { ok := operandFmt (moveFmt w) && moveSrc w % 4 == 0 && streamStride w % 4 == 0 && inCore (moveSrc w) len
      regs := [], ranges := [(false, moveSrc w, len)] }
  | 0x12 =>
    { ok := tileFieldsOk w && gs.all (tileEngineOk w)
      regs := if tileMaskEn w then [tileMaskReg w] else []
      ranges := gs.flatMap (tileRanges w) }
  | 0x13 =>
    let mask := sampleMask x (copyMaskEn w) (copyMaskReg w)
    let fieldsOk := decide (copyM w ≤ if h = 0#2 then 64 else 32) && decide (copyN w ≤ 64)
      && gs.all (fun g => !((g.copy 0).part h).void && !((g.copy 1).part h).void && !((g.copy 2).part h).void)
      && (!copyIdx w || gs.all (fun g => (g.part h).seen && ((g.part h).mode == 3#3 || (g.part h).mode == 4#3)))
    let regs := if copyMaskEn w then [copyMaskReg w] else []
    if copyDest w then
      { ok := fieldsOk && unitOf w != 5
          && gs.all (fun g => copyStride w % 4 == 0 && decide (copyN w * copyWidth w (g.part h) ≤ copyStride w)
            && (copyRange w (g.part h) mask).all (fun r => inCore r.2.1 r.2.2))
        regs := regs, ranges := gs.flatMap (fun g => copyRange w (g.part h) mask) }
    else { ok := fieldsOk && copyDst w == 0 && copyStride w == 0, regs := regs, ranges := [] }
  | 0x15 => { ok := true, regs := [], ranges := [] }
  | 0x16 =>
    { ok := imageAddr w % 64 == 0 && inCore (imageAddr w) (imageBytes h)
        && gs.all (fun g => !((g.copy 0).part h).void && !((g.copy 1).part h).void && !((g.copy 2).part h).void)
      regs := [], ranges := [(true, imageAddr w, imageBytes h)] }
  | 0x17 =>
    { ok := imageAddr w % 64 == 0 && inCore (imageAddr w) (imageBytes h)
      regs := [], ranges := [(false, imageAddr w, imageBytes h)] }
  | 0x18 => { ok := true, regs := [flagsSreg w], ranges := [] }
  | _ => { ok := scalesGsz w != 7, regs := [], ranges := [] }

/-- Clear the void marks of a part in every copy (R56). -/
def Engine.unvoid (g : Engine) (h : BitVec 2) : Engine :=
  { g with res := vmap g.res fun r => r.setPart h { r.part h with void := false } }

/-- A command begins a run of logical engine 3 (R236). -/
def startsRun (w : CmdWord) : Bool := (opcodeOf w = 0x12 && !tileAcc w) || opcodeOf w = 0x17

/-- What a command's issue does to the operand state of one engine. -/
def issueOn (w : CmdWord) (imgHdr : List Byte) (g : Engine) : Engine :=
  let h := halfOf w
  match opcodeOf w with
  | 0x10 =>
    let (a, n) := linesOf h (loadaOff w) (loadaK w * colBytes (moveFmt w) h)
    { g with aFmt := g.aFmt.splice a (List.replicate n (BitVec.ofNat 5 (moveFmt w + 1))) }
  | 0x11 => g.modPart h fun p => { p with avail := p.avail ++ [(BitVec.ofNat 4 (moveFmt w), streamRows w)] }
  | 0x12 =>
    let g := if tileAcc w then g else g.unvoid h
    g.modPart h fun p =>
      { p with
        avail := if tileWorks w then takeRows (tileK w) p.avail else p.avail
        attach := if tileGrp w && tileWorks w then p.attach.map (fun a => a.advance (tileK w)) else p.attach
        mode := BitVec.ofNat 3 (tileMode w)
        pair := BitVec.ofNat 8 (tileFmtB w * 16 + tileFmtA w)
        grp := tileGrp w
        seen := true }
  | 0x15 => { g with splitNext := splitBit w, lo := { g.lo with avail := [], attach := none, mode := 0#3, pair := 0#8, grp := false, seen := false },
                     up := { g.up with avail := [], attach := none, mode := 0#3, pair := 0#8, grp := false, seen := false } }
  | 0x17 =>
    let g := g.unvoid h
    g.modPart h fun p =>
      { p with attach := none, mode := BitVec.ofNat 3 (fieldAt imgHdr 0 1), pair := BitVec.ofNat 8 (fieldAt imgHdr 1 1), grp := fieldAt imgHdr 2 1 = 1, seen := true }
  | 0x19 => g.modPart h fun p =>
      { p with attach := some { aPtr := scalesA w, bPtr := scalesB w, gsz := BitVec.ofNat 3 (scalesGsz w), tag := BitVec.ofNat 4 (scalesTag w) } }
  | _ => g

/-- Commands that complete at issue and touch no memory (R53). -/
def zeroSize (w : CmdWord) : Bool :=
  match opcodeOf w with
  | 0x10 => loadaK w == 0
  | 0x11 => streamRows w == 0
  | 0x13 => copyM w == 0 || copyN w == 0
  | _ => false

/-- The queue entry of a command on one engine; the attachment and the bank's type are those before its issue. -/
def engEntry (x : Ctx) (w : CmdWord) (serial run slot : Nat) (bind : Option Nat) (g : Engine) : EngCmd :=
  let p := g.part (halfOf w)
  let mask := if opcodeOf w = 0x12 then sampleMask x (tileMaskEn w) (tileMaskReg w)
    else if opcodeOf w = 0x13 then sampleMask x (copyMaskEn w) (copyMaskReg w) else 0#64
  { serial := serial, w := w, half := halfOf w, mask := mask, attach := p.attach, run := run, slot := slot, mode := p.mode,
    pair := p.pair, grp := p.grp, bind := bind }

/-- Enter a command on each engine it selects; `slot` maps a logical engine and a run to the slot that it executes on. -/
def Ctx.enterEngines (x : Ctx) (w : CmdWord) (serial : Nat) (bind : Option Nat) (imgHdr : List Byte) (slot : Nat → Nat → Nat) : Ctx :=
  let starts := startsRun w && (engSel w).contains 3
  let run := if starts then x.run + 1 else x.run
  let x := { x with run := run }
  (engSel w).foldl (fun x e =>
    let g := x.engine e
    let q := engEntry x w serial run (slot e run) bind g
    let g := issueOn w imgHdr g
    x.setEngine e (if zeroSize w then g else { g with queue := g.queue ++ [q] })) x

/-- One record per engine for a command that completes at issue, the last one final (R221). -/
def State.recordEngines (s : State) (c : CoreId) (w : CmdWord) : State :=
  (engSel w).foldl (fun s e => s.complete c w { recEng c e (halfOf w) with final := (engSel w).getLast? == some e }) s

/-- Issue of an engine command other than a copy-out to the vector engine: its checks (R60, R61), its waits (R177, R215, R216),
and its entry on each selected engine. An ENG_RESTORE reads its header only once no live write peg covers the image (R62, R177). -/
def issueEngine (c : CoreId) (w : CmdWord) (s : State) : Issue :=
  let x := s.ctx c
  let gs := (engSel w).map x.engine
  let imgHdr := if opcodeOf w = 0x17 then s.readCore c (imageAddr w) 64 else []
  let n := engNeed x w gs
  let ranges := if bypassOf w then [] else n.ranges
  .hold (x.regsReady n.regs) <|
  .need (engSelOk w && (engSel w).all (fun e => !x.pvOwned e) && gs.all (halfOk w) && n.ok) stCmdInvalid <|
  .hold (!gs.any (fun g => g.full (halfOf w)) && !x.pegsBlock ranges) <|
  .need (opcodeOf w != 0x17 || imageHeaderOk imgHdr) stCmdInvalid <|
  let (serial, x) := x.takeSerial
  let x := x.enterEngines w serial none imgHdr (s.cmdSlot c)
  let x := if zeroSize w then x else x.takePegs serial (if unitOf w = 5 then (engSel w).headD 0 + 1 else unitOf w) (halfOf w) ranges
  let x := if zeroSize w then x else x.keepSeen (bypassOf w) serial n.ranges (s.readCore c)
  let s := s.setCtx c x
  .go (if zeroSize w then s.recordEngines c w else s)

end Sys2Proof.Machine
end

