-- ==== Sys2Proof/Machine/EngineRun.lean ====
section
/-!
DEFINITION. What engine commands do when they reach their completion points (Table 2-7): buffer moves, tiles, copy-outs, images,
flags, and the abort of a tile (R56). A command's accesses and arithmetic are performed at its completion point (log 10).
-/
namespace Sys2Proof.Machine

/-! ### B rows (R38) -/

/-- How the streams of a core read memory: by serial number of the command, address and bytes (R181). -/
def State.rowReader (s : State) (c : CoreId) (serial a n : Nat) : List Byte := (s.view c serial 0).readCore c a n

def fifoBytes (f : List BRow) : Nat := (f.map (fun r => r.bytes.length)).foldl (· + ·) 0

/-- Row `i` of an ENG_STREAMB after those placed: as a group's single fetch brought it, else from memory (R60). -/
def EngCmd.streamRow (read : Nat → Nat → Nat → List Byte) (q : EngCmd) (i : Nat) : List Byte :=
  match q.fetched[i]? with
  | some r => r
  | none => read q.serial (moveSrc q.w + (q.placed + i) * streamStride q.w) (rowBytes (moveFmt q.w))

/-- Place rows of the issued ENG_STREAMB commands of a part, in order, as far as the FIFO has room; nothing is placed past an
unfinished stream or an ENG_SPLIT. -/
def fillFifo (read : Nat → Nat → Nat → List Byte) (h : BitVec 2) : List EngCmd → List BRow → List EngCmd × List BRow
  | [], f => ([], f)
  | q :: qs, f =>
    if opcodeOf q.w = 0x15 then (q :: qs, f)
    else if q.half = h ∧ opcodeOf q.w = 0x11 then
      let rb := rowBytes (moveFmt q.w)
      let n := min (streamRows q.w - q.placed) ((fifoRoom h - fifoBytes f) / rb)
      let rows := (List.range n).map fun i =>
        { fmt := BitVec.ofNat 4 (moveFmt q.w), bytes := q.streamRow read i : BRow }
      let q := { q with placed := q.placed + n, fetched := q.fetched.drop n }
      if q.placed < streamRows q.w then (q :: qs, f ++ rows)
      else
        let (qs, f) := fillFifo read h qs (f ++ rows)
        (q :: qs, f)
    else
      let (qs, f) := fillFifo read h qs f
      (q :: qs, f)

/-- Take `need` rows from the head of the FIFO, streams placing rows as room appears. -/
def pullRows (read : Nat → Nat → Nat → List Byte) (h : BitVec 2) : Nat → Nat → List EngCmd → List BRow → List BRow × List EngCmd × List BRow
  | 0, _, qs, f => ([], qs, f)
  | fuel + 1, need, qs, f =>
    let (qs, f) := fillFifo read h qs f
    let got := f.take need
    if need = 0 ∨ got = [] then ([], qs, f)
    else
      let (more, qs, f) := pullRows read h fuel (need - got.length) qs (f.drop need)
      (got ++ more, qs, f)

/-! ### Which command completes next -/

/-- The oldest command of a part that can reach its completion point. An ENG_STREAMB with rows still to place lets later
commands pass; an ENG_SPLIT waits for every earlier command of the engine. -/
def nextCmd (up : Bool) : Bool → List EngCmd → Option EngCmd
  | _, [] => none
  | earlier, q :: qs =>
    if opcodeOf q.w = 0x15 then (if earlier || up then none else some q)
    else if (q.half = 3#2) = up then
      (if opcodeOf q.w = 0x11 ∧ q.placed < streamRows q.w then nextCmd up true qs else some q)
    else nextCmd up true qs

/-- Commands that act on all three copies of logical engine 3 where it has three (R236). -/
def allCopies (w : CmdWord) : Bool :=
  opcodeOf w ∈ [0x10, 0x11, 0x15, 0x17, 0x19] || (opcodeOf w = 0x18 && flagsClear w)

/-- An earlier-issued command of the other context of a command's slot is still to complete: a slot runs its two contexts in issue order
(R237, R470). An ENG_STREAMB with rows to place holds no other context back. -/
def State.slotBusy (s : State) (c : CoreId) (e : Nat) (q : EngCmd) : Bool :=
  decide (s.backed c < 4) && (List.range 4).any fun d => d != e && ((s.ctx c).engine d).queue.any fun k =>
    decide (k.serial < q.serial) && !(opcodeOf k.w = 0x11 && decide (k.placed < streamRows k.w))
      && (k.slot == q.slot || (s.backed c == 3 && ((e == 3 && allCopies q.w) || (d == 3 && allCopies k.w))))

/-- The command of a part that completes next, with the context copy it works on (R236). -/
def State.nextOn (s : State) (c : CoreId) (e : Nat) (up : Bool) : Option EngCmd :=
  ((nextCmd up false ((s.ctx c).engine e).queue).filter fun q => !s.slotBusy c e q).map fun q =>
    { q with copy := runCopy (s.backed c) e q.run }

/-! ### Tiles -/

def tileOpOf (w : CmdWord) (gsize : Nat) : TileOp :=
  { mode := tileMode w, fmtA := tileFmtA w, fmtB := tileFmtB w, grp := tileGrp w, acc := tileAcc w, conjA := tileConjA w,
    conjB := tileConjB w, kbase := tileKbase w, gsize := gsize }

/-- The A columns of a tile, as bytes (R37). -/
def tileCols (g : Engine) (w : CmdWord) : List (List Byte) :=
  let h := halfOf w
  let cb := colBytes (tileFmtA w) h
  (List.range (tileK w)).map fun k => g.aBuf.slice (aBase h + tileAOff w * 64 + k * cb) cb

/-- Groups of a tile under the attachment it took (R92). -/
def tileGroups (q : EngCmd) : Nat :=
  match q.attach with
  | some a => if tileGrp q.w && tileWorks q.w then tileK q.w / a.size else 0
  | none => 0

/-- The 64 entries of a scale block (R90). -/
def scaleBlock (s : State) (c : CoreId) (a : Nat) : List Nat :=
  let bs := s.readCore c a 128
  (List.range 64).map fun i => fieldAt bs (2 * i) 2

/-- The A and B blocks of each group of a tile (R92). -/
def tileBlocks (s : State) (c : CoreId) (q : EngCmd) : List (List Nat × List Nat) :=
  match q.attach with
  | none => []
  | some a =>
    let s := s.view c q.serial 0
    (List.range (tileGroups q)).map fun n => (scaleBlock s c (a.aPtr + 128 * n), scaleBlock s c (a.bPtr + 128 * n))

/-- An entry carries the expected tag and clear reserved bits (R89, R94). -/
def entryOk (tag : BitVec 4) (e : Nat) : Bool := e / 4096 == tag.toNat && e / 128 % 32 == 0

/-- The first group whose tags fail, with its failing sides: 1 A, 2 B, 3 both (R94, R97). -/
def tileSkew (s : State) (c : CoreId) (q : EngCmd) : Option (Nat × Nat) :=
  match q.attach with
  | none => none
  | some a =>
    let (r0, h) := partRows q.half
    let bad := (tileBlocks s c q).mapIdx fun n (p : List Nat × List Nat) =>
      let t := a.tag + BitVec.ofNat 4 n
      let aBad := ((p.1.drop r0).take h).any (fun e => !entryOk t e)
      let bBad := p.2.any (fun e => !entryOk t e)
      (n, (if aBad then 1 else 0) + (if bBad then 2 else 0))
    bad.find? (fun p => p.2 != 0)

/-- The UE4M3 value of a scale entry (R73). -/
def scaleValue (e : Nat) : FV := decodeMag ue4m3F false (e % 128)

/-- The group scales of local row i and column j (R92, R97). -/
def tileScales (blocks : List (List Nat × List Nat)) (half : BitVec 2) (i j : Nat) : List (FV × FV) :=
  blocks.map fun p => (scaleValue (p.1.getD ((partRows half).1 + i) 0), scaleValue (p.2.getD j 0))

/-- A finished tile on a context copy: accumulators and indices, the bank captured at the enabled cells, sticky flags (R42, R50,
R52, R53, R59). -/
def captureTile (q : EngCmd) (out : TileOut) (r : EngRes) : EngRes :=
  let acc := out.acc r.acc
  let idx := out.idx r.idx
  let p := r.part q.half
  ({ r with acc := acc, idx := idx, bank := out.acc r.bank, bankIdx := out.idx r.bankIdx }).setPart q.half
    { p with flags := p.flags ||| out.flags, bankValid := true }

/-- The outcome of a tile on an engine: its results. -/
def tileOut (s : State) (c : CoreId) (g : Engine) (q : EngCmd) (rows : List BRow) : TileOut :=
  let gsize := match q.attach with | some a => a.size | none => 0
  let r := g.copy q.copy
  let cols := if tileWorks q.w then tileCols g q.w else []
  runTile (tileOpOf q.w gsize) q.half (tileM q.w) (tileN q.w) q.mask cols (rows.map (·.bytes))
    (tileScales (tileBlocks s c q) q.half) r.acc r.idx

/-! ### Copy-outs and images -/

/-- The bytes of one element of a copy-out to core memory (R58). -/
def elemOut (withIdx cplx : Bool) (v : Dword) (idx : BitVec 6) : List Byte :=
  if withIdx then leBytes 4 (v.setWidth 32).toNat ++ leBytes 1 idx.toNat ++ [0#8, 0#8, 0#8]
  else if cplx then leBytes 8 v.toNat
  else leBytes 4 (v.setWidth 32).toNat

/-- The bytes of row i of a copy-out to core memory. -/
def rowOut (q : EngCmd) (r : EngRes) (i : Nat) : List Byte :=
  let cplx := fmtComplex (q.pair.toNat % 16)
  (List.range (copyN q.w)).flatMap fun j =>
    let k := ((partRows q.half).1 + i) * 64 + j
    elemOut (copyIdx q.w) cplx (r.bank.get k) (r.bankIdx.get k)

/-- Write a copy-out's enabled rows to core memory (R57, R58). -/
def State.copyToMem (s : State) (c : CoreId) (q : EngCmd) (r : EngRes) : State :=
  (copyRows q.w q.mask).foldl (fun s i => s.writeCore c (copyDst q.w + i * copyStride q.w) (rowOut q r i)) s

/-- Rows of a part as rows 0 on. -/
def localCells {n : Nat} (half : BitVec 2) (v : Cells n) : Cells n :=
  if half = 3#2 then Cells.build 2048 (fun k => v.get (2048 + k)) else v

/-- Deliver a copy-out to the vector operation it is bound to (R58, R124). -/
def Ctx.deliver (x : Ctx) (e : Nat) (q : EngCmd) (r : EngRes) : Ctx :=
  { x with vec := x.vec.map fun v =>
      if q.bind == some v.serial then
        { v with inputs := v.inputs.map fun t =>
            if t.serial == q.serial then { t with got := t.got ++ [(e, localCells q.half r.bank, localCells q.half r.bankIdx)] } else t }
      else v }

/-- The state image of a part (R59, Table 2-11). -/
def imageOf (q : EngCmd) (split : Bool) (r : EngRes) : List Byte :=
  let p := r.part q.half
  let (r0, h) := partRows q.half
  leBytes 1 q.mode.toNat ++ [q.pair] ++ leBytes 1 (if q.grp then 1 else 0)
    ++ leBytes 1 ((if split then 4 else 0) + q.half.toNat) ++ [p.flags] ++ leBytes 1 (if p.bankValid && !p.void then 1 else 0)
    ++ List.replicate 58 0#8
    ++ (List.range (h * 64)).flatMap (fun k => leBytes 8 (r.acc.get (r0 * 64 + k)).toNat)
    ++ (List.range (h * 64)).map (fun k => (r.idx.get (r0 * 64 + k)).setWidth 8)

/-- Load a part from an image (R59). -/
def EngRes.load (r : EngRes) (half : BitVec 2) (img : List Byte) : EngRes :=
  let (r0, h) := partRows half
  let valid := fieldAt img 5 1 = 1
  let acc := r.acc.splice (r0 * 64) ((List.range (h * 64)).map fun k => BitVec.ofNat 64 (fieldAt img (64 + 8 * k) 8))
  let idx := r.idx.splice (r0 * 64) ((List.range (h * 64)).map fun k => BitVec.ofNat 6 (fieldAt img (64 + 512 * h + k) 1))
  let bank := if valid then r.bank.splice (r0 * 64) (acc.slice (r0 * 64) (h * 64)) else r.bank.erase (r0 * 64) (h * 64)
  let bankIdx := if valid then r.bankIdx.splice (r0 * 64) (idx.slice (r0 * 64) (h * 64)) else r.bankIdx.erase (r0 * 64) (h * 64)
  ({ r with acc := acc, idx := idx, bank := bank, bankIdx := bankIdx }).setPart half
    { flags := BitVec.ofNat 8 (fieldAt img 4 1), bankValid := valid, void := false }

/-! ### Completion -/

/-- Drop a command from an engine's queue. -/
def Engine.drop (g : Engine) (serial : Nat) : Engine := { g with queue := g.queue.filter (fun q => q.serial != serial) }

/-- Release a command's pegs once no engine still holds the command (R179). -/
def Ctx.finishEng (x : Ctx) (serial : Nat) : Ctx :=
  if x.engines.toList.any (fun g => g.queue.any (fun q => q.serial == serial)) then x else x.dropPegs serial

/-- Remove a command from an engine and release what it held. -/
def State.retire (s : State) (c : CoreId) (e : Nat) (q : EngCmd) : State :=
  s.modCtx c fun x => (x.modEngine e fun g => g.drop q.serial).finishEng q.serial

/-- Remove a command from an engine and report it; the record is the command's final one when no other engine of its group still holds
it (R221, Table 9-4). -/
def State.report (s : State) (c : CoreId) (e : Nat) (q : EngCmd) (i : RecInfo) : State :=
  let s := s.retire c e q
  s.complete c q.w { i with final := !(s.ctx c).engines.toList.any (fun g => g.queue.any (fun k => k.serial == q.serial)) }

/-- The rows that an engine's streams read from memory between two states of its queue reach the other engines of their groups, which read
them no more (R60): each as (serial, row, bytes). -/
def freshRows (read : Nat → Nat → Nat → List Byte) (old new : List EngCmd) : List (Nat × Nat × List Byte) :=
  (List.zip old new).flatMap fun p =>
    let had := p.1.placed + p.1.fetched.length
    if opcodeOf p.1.w = 0x11 ∧ unitOf p.1.w = 5 then
      (List.range (p.2.placed - had)).map fun i => (p.1.serial, had + i, read p.1.serial (moveSrc p.1.w + (had + i) * streamStride p.1.w) (rowBytes (moveFmt p.1.w)))
    else []

def EngCmd.takeRow (q : EngCmd) (r : Nat × Nat × List Byte) : EngCmd :=
  if q.serial = r.1 ∧ q.placed + q.fetched.length = r.2.1 then { q with fetched := q.fetched ++ [r.2.2] } else q

/-- Put an engine back after its streams placed rows, and multicast what they read. -/
def State.putStreams (s : State) (c : CoreId) (e : Nat) (old : List EngCmd) (g : Engine) (new : List EngCmd) : State :=
  let rows := freshRows (s.rowReader c) old new
  s.modCtx c fun x =>
    let x := if rows.isEmpty then x else
      { x with engines := vmap x.engines fun g => { g with queue := g.queue.map fun q => rows.foldl EngCmd.takeRow q } }
    x.setEngine e g

/-- Place rows on one part of an engine. -/
def State.fillEngine (s : State) (c : CoreId) (e : Nat) (h : BitVec 2) : State :=
  let g := (s.ctx c).engine e
  let (qs, f) := fillFifo (s.rowReader c) h g.queue (g.part h).fifo
  s.putStreams c e g.queue (({ g with queue := qs }).modPart h fun p => { p with fifo := f }) qs

/-- A tile reaches its completion point: rows taken, results, bank, record (R41, R42, R50). None when its blocks fail their tags
(it can only abort, R94) or its rows are not there. -/
def State.finishTile (s : State) (c : CoreId) (e : Nat) (q : EngCmd) : Option State :=
  let g := (s.ctx c).engine e
  let old := g.queue
  let need := if tileWorks q.w then tileK q.w else 0
  let (rows, qs, f) := pullRows (s.rowReader c) q.half (need + 1) need g.queue (g.part q.half).fifo
  if rows.length < need ∨ (tileSkew s c q).isSome then none
  else
    let out := tileOut s c g q rows
    let (qs, f) := fillFifo (s.rowReader c) q.half qs f
    let g := ({ g with queue := qs }).modPart q.half fun p => { p with fifo := f }
    let g := if tileM q.w = 0 ∨ tileN q.w = 0 then g.modCopy q.copy (fun r => r.setPart q.half { r.part q.half with bankValid := true })
      else g.modCopy q.copy (captureTile q out)
    let s := s.putStreams c e old g qs
    some (s.report c e q { recEng c e q.half with eng := if tileM q.w = 0 ∨ tileN q.w = 0 then 0#8 else out.flags })

/-- What a command other than a tile does at its completion point. An ENG_SAVE already issued behind a tile that aborts with
ST_SCALE_SKEW writes the void accumulators (DESIGN CHOICE, log 98). -/
def State.finishOther (s : State) (c : CoreId) (e : Nat) (q : EngCmd) : State :=
  let g := (s.ctx c).engine e
  let r := g.copy q.copy
  match opcodeOf q.w with
  | 0x10 =>
    let cb := colBytes (moveFmt q.w) q.half
    let a0 := aBase q.half + loadaOff q.w * 64
    let buf := (List.range (loadaK q.w)).foldl (fun (b : Cells 8) k =>
      b.splice (a0 + k * cb) ((s.view c q.serial 0).readCore c (moveSrc q.w + k * loadaStride q.w) cb)) g.aBuf
    s.modCtx c fun x => x.modEngine e fun g => { g with aBuf := buf }
  | 0x13 => if copyDest q.w then s.copyToMem c q r else s.modCtx c fun x => x.deliver e q r
  | 0x15 => s.modCtx c fun x => x.modEngine e fun g =>
      { g with split := splitBit q.w, res := Vector.replicate 3 {}, lo := { g.lo with fifo := [] }, up := { g.up with fifo := [] } }
  | 0x16 => s.writeCore c (imageAddr q.w) (imageOf q g.split r)
  | 0x17 =>
    let img := (s.view c q.serial 0).readCore c (imageAddr q.w) (imageBytes q.half)
    s.modCtx c fun x => x.modEngine e fun g => { g with res := vmap g.res fun r => r.load q.half img }
  | 0x18 => s.modCtx c fun x =>
      let x := x.setSreg (flagsSreg q.w) ((r.part q.half).flags.setWidth 64)
      if flagsClear q.w then
        x.modEngine e fun g => { g with res := vmap g.res fun r => r.setPart q.half { r.part q.half with flags := 0#8 } }
      else x
  | _ => s

/-- An engine command of a part reaches its completion point (R63): the oldest that can. -/
def State.engineDone (s : State) (c : CoreId) (e : Nat) (up : Bool) : Option State :=
  let h := if up then 3#2 else if ((s.ctx c).engine e).split then 2#2 else 0#2
  let s := s.fillEngine c e h
  match s.nextOn c e up with
  | none => none
  | some q =>
    if opcodeOf q.w = 0x12 then s.finishTile c e q
    else some ((s.finishOther c e q).report c e q (recEng c e q.half))

/-! ### Aborts (R56, R94) -/

/-- Cancel the copy-outs issued after a tile on its part: one record each with last = 1, their vector operations end with the status (R56,
R141, R221). -/
def State.cancelCopies (s : State) (c : CoreId) (e : Nat) (q : EngCmd) : State :=
  let later := ((s.ctx c).engine e).queue.filter (fun k => opcodeOf k.w == 0x13 && k.half == q.half && decide (q.serial < k.serial))
  later.foldl (fun s k =>
    let s := (s.retire c e k).complete c k.w { recEng c e k.half with status := stScaleSkew, final := true }
    match k.bind with
    | none => s
    | some v => s.modCtx c fun x => { x with vec := x.vec.map fun o =>
        if o.serial = v then { o with abort := some stScaleSkew, inputs := o.inputs.takeWhile (fun t => t.serial != k.serial) } else o }) s

/-- A tile aborts with ST_SCALE_SKEW: no result, no capture, later copy-outs cancelled, the accumulators void, the attachment
ended, its rows consumed (R56, R94, R96). The flags of its steps are not reported and not kept (DESIGN CHOICE, log 99). -/
def State.abortTile (s : State) (c : CoreId) (e : Nat) (q : EngCmd) (group side : Nat) : State :=
  let s := s.cancelCopies c e q
  let g := (s.ctx c).engine e
  let (_, qs, f) := pullRows (s.rowReader c) q.half (tileK q.w + 1) (tileK q.w) g.queue (g.part q.half).fifo
  let s :=
    let g' := ({ g with queue := qs }).modPart q.half fun p => { p with attach := none, fifo := f }
    s.putStreams c e g.queue (g'.modCopy q.copy fun r => r.setPart q.half { r.part q.half with void := true, bankValid := false }) qs
  let s := s.report c e q { recEng c e q.half with status := stScaleSkew, side := side, group := group }
  s.stopStream c stScaleSkew

/-- The tile that an abort can meet: the next command of the part, a group-mode tile whose tags fail. -/
def State.skewedTile (s : State) (c : CoreId) (e : Nat) (up : Bool) : Option (EngCmd × Nat × Nat) :=
  match s.nextOn c e up with
  | none => none
  | some q =>
    if opcodeOf q.w = 0x12 then (tileSkew s c q).map fun p => (q, p.1, p.2) else none

end Sys2Proof.Machine
end

