-- ==== Sys2Proof/Machine/ExactFn.lean ====
section
/-!
DEFINITION. Correctly rounded functions of R113 and Table 5-2: square root and its reciprocal exactly, and the exponential,
logarithm, sigmoid and tanh from fixed-point values with 448 bits after the point, far more than any FP32 result needs (log 36).
-/
namespace Sys2Proof.Machine

/-- Bits after the point. -/
def fxBits : Nat := 448
def fxOne : Nat := 2 ^ fxBits

/-- x / k in fixed point. -/
def fxOf (mag : Nat) (exp : Int) : Nat :=
  let e := exp + fxBits
  if 0 ≤ e then mag * 2 ^ e.toNat else mag / 2 ^ (-e).toNat

def fxMul (a b : Nat) : Nat := a * b / fxOne

/-- Taylor sum of e^r: `term` is r^k / k!, for k from `k` on. -/
def fxExpSum (r : Nat) : Nat → Nat → Nat → Nat
  | 0, _, _ => 0
  | fuel + 1, k, term => term + fxExpSum r fuel (k + 1) (fxMul term r / (k + 1))

def fxSquare : Nat → Nat → Nat
  | 0, v => v
  | n + 1, v => fxSquare n (fxMul v v)

/-- e^x of a fixed-point x below 2^8: e^(x / 2^12) by 48 terms, squared 12 times. -/
def fxExp (x : Nat) : Nat := fxSquare 12 (fxExpSum (x / 4096) 48 0 fxOne)

/-- Sum of z^(2k+1) / (2k+1). -/
def fxAtanhSum (z2 : Nat) : Nat → Nat → Nat → Nat
  | 0, _, _ => 0
  | fuel + 1, k, p => p / (2 * k + 1) + fxAtanhSum z2 fuel (k + 1) (fxMul p z2)

/-- atanh of num / den with num / den at most 1/3. -/
def fxAtanh (num den : Nat) : Nat :=
  let z := num * fxOne / den
  fxAtanhSum (fxMul z z) 160 0 z

def fxLn2 : Nat := 2 * fxAtanh 1 3

/-- RNE32 of a fixed-point value. -/
def fxRound (neg : Bool) (v : Nat) : Word := rne32Frac neg v fxOne

def wNan : Word := 0x7FC00000#32
def wInf : Word := 0x7F800000#32
def wNegInf : Word := 0xFF800000#32
def wOne : Word := 0x3F800000#32

/-- |x| below 2^8 as fixed point, for finite nonzero x; none when larger. -/
def fxArg (mag : Nat) (exp : Int) : Option Nat :=
  let v := fxOf mag exp
  if v < 256 * fxOne then some v else none

/-- e^x (Table 5-1). -/
def fexp (x : Word) : Word :=
  match f32 x with
  | .nan => wNan
  | .inf neg => if neg then 0#32 else wInf
  | .fin neg mag exp =>
    match fxArg mag exp with
    | none => if neg then 0#32 else wInf
    | some v =>
      let e := fxExp v
      if neg then fxRound false (fxOne * fxOne / e) else fxRound false e

/-- ln x (Table 5-1). -/
def flog (x : Word) : Word :=
  match f32 x with
  | .nan => wNan
  | .inf neg => if neg then wNan else wInf
  | .fin neg mag exp =>
    if mag = 0 then wNegInf
    else if neg then wNan
    else
      let k := mag.log2
      let up := decide (3 * 2 ^ k < 2 * mag)
      let e : Int := exp + k + (if up then 1 else 0)
      let den : Nat := if up then 2 ^ (k + 1) else 2 ^ k
      let diff : Int := (mag : Int) - den
      let a : Int := 2 * (fxAtanh diff.natAbs (mag + den) : Nat)
      let v : Int := e * (fxLn2 : Nat) + (if diff < 0 then -a else a)
      fxRound (v < 0) v.natAbs

/-- Integer square root by Newton's iteration from above. -/
def isqrtIter (n : Nat) : Nat → Nat → Nat
  | 0, g => g
  | fuel + 1, g =>
    let h := (g + n / g) / 2
    if h < g then isqrtIter n fuel h else g

def isqrt (n : Nat) : Nat := if n = 0 then 0 else isqrtIter n (n.log2 + 2) (2 ^ (n.log2 / 2 + 1))

/-- RNE32 of the square root of num / den × 4^s, by an integer root with a sticky bit. -/
def sqrtFrac (num den : Nat) (s : Int) : Word :=
  let n := num * 2 ^ 512 / den
  let r := isqrt n
  let sticky := if r * r = n ∧ n * den = num * 2 ^ 512 then 0 else 1
  let v := 2 * r + sticky
  if 0 ≤ s then rne32Frac false (v * 2 ^ s.toNat) (2 ^ 257) else rne32Frac false v (2 ^ (257 + (-s).toNat))

/-- √x, correctly rounded (R156). -/
def fsqrt (x : Word) : Word :=
  match f32 x with
  | .nan => wNan
  | .inf neg => if neg then wNan else wInf
  | .fin neg mag exp =>
    if mag = 0 then (if neg then 0x80000000#32 else 0#32)
    else if neg then wNan
    else if exp % 2 = 0 then sqrtFrac mag 1 (exp / 2) else sqrtFrac (2 * mag) 1 ((exp - 1) / 2)

/-- 1 / √x (Table 5-1); ±inf at ±0. -/
def frsqrt (x : Word) : Word :=
  match f32 x with
  | .nan => wNan
  | .inf neg => if neg then wNan else 0#32
  | .fin neg mag exp =>
    if mag = 0 then (if neg then wNegInf else wInf)
    else if neg then wNan
    else if exp % 2 = 0 then sqrtFrac 1 mag (-(exp / 2)) else sqrtFrac 1 (2 * mag) (-((exp - 1) / 2))

def frecip (x : Word) : Word := fdiv wOne x

/-- 1 / (1 + e^-x) (Table 5-2). -/
def fsigmoid (x : Word) : Word :=
  match f32 x with
  | .nan => wNan
  | .inf neg => if neg then 0#32 else wOne
  | .fin neg mag exp =>
    if mag = 0 then 0x3F000000#32
    else
      match fxArg mag exp with
      | none => if neg then 0#32 else wOne
      | some v =>
        let e := fxExp v
        if neg then fxRound false (fxOne * fxOne / (fxOne + e)) else fxRound false (e * fxOne / (fxOne + e))

/-- tanh x (Table 5-2). For |x| below 2^-64 the result rounds to x. -/
def ftanh (x : Word) : Word :=
  match f32 x with
  | .nan => wNan
  | .inf neg => if neg then 0xBF800000#32 else wOne
  | .fin neg mag exp =>
    if exp + mag.log2 < -64 then x
    else
      match fxArg mag exp with
      | none => if neg then 0xBF800000#32 else wOne
      | some v =>
        let e := fxExp (if v < 64 * fxOne then 2 * v else 128 * fxOne)
        fxRound neg ((e - fxOne) * fxOne / (e + fxOne))

/-- SiLU (Table 5-2, R113). -/
def fsilu (x : Word) : Word :=
  if x = wNegInf then 0x80000000#32 else fmul x (fsigmoid x)

/-- GELU, tanh form (Table 5-2, R113). -/
def fgelu (x : Word) : Word :=
  if x = wNegInf then 0x80000000#32
  else if x = wInf then wInf
  else
    let x2 := fmul x x
    let p := ffma 0x3D372713#32 x2 wOne
    let v := fmul 0x3F4C422A#32 x
    let u := fmul v p
    let t := ftanh u
    let h := fmul 0x3F000000#32 x
    let s := fadd wOne t
    fmul h s

end Sys2Proof.Machine
end

