-- ==== Sys2Proof/Machine/VecStages.lean ====
section
/-!
DEFINITION. Stages of the vector engine on beats (R109 to R121, R126, Tables 5-1, 5-2, 5-5): stage words, lane types, operands,
each stage's result, statistics, permutation and round-each-step.
-/
namespace Sys2Proof.Machine

/-- A lane: its word, whether it is idle (R111), its index side value. -/
structure Lane where
  v    : Word
  idle : Bool := false
  idx  : BitVec 6 := 0#6
deriving DecidableEq, Repr

/-- Statistics of a beat in one slot: segment length, one word per segment, INT32 or FP32 (R118). -/
structure Stat where
  seg  : Nat
  vals : List Word
  int  : Bool
deriving DecidableEq, Repr

/-- A beat: tile, row, half of a complex copy-out row (R110), lane number of its first lane in stream mode, lane type, complex
elements, copy-out input, lanes, latched statistics. -/
structure Beat where
  tile : Nat
  row  : Nat
  half : Nat := 0
  off  : Nat := 0
  int  : Bool
  cplx : Bool
  cout : Bool
  lanes : List Lane
  stat0 : Option Stat := none
  stat1 : Option Stat := none
deriving DecidableEq, Repr

def Beat.vl (b : Beat) : Nat := b.lanes.length

/-- The lane's number in its row: a complex copy-out row runs over its two beats (R110, R125, DEDUCED, log 37). -/
def Beat.laneNo (b : Beat) (l : Nat) : Nat :=
  if b.cplx && b.cout then 128 * (l / 64) + 64 * b.half + l % 64 else b.off + l

/-! ### Stage words (Table 5-5) -/

structure Stage where
  func  : Nat
  sub   : Nat
  int   : Bool
  srcP  : Nat
  srcQ  : Nat
  sregP : Nat
  sregQ : Nat
  sfmt  : Nat
  seg   : Nat
  slot  : Bool
  carry : Bool
  conj  : Bool
  pair  : Bool
  span2 : Bool
deriving DecidableEq, Repr

def stageOf (w : Nat) : Stage :=
  { func := bitsOf w 58 6, sub := bitsOf w 54 4, int := w.testBit 53, srcP := bitsOf w 50 3, srcQ := bitsOf w 47 3,
    sregP := bitsOf w 41 6, sregQ := bitsOf w 35 6, sfmt := bitsOf w 31 4, seg := bitsOf w 22 9, slot := w.testBit 21,
    carry := w.testBit 20, conj := w.testBit 19, pair := w.testBit 18, span2 := w.testBit 17 }

/-- How a stage uses an operand: 0 not at all, 1 required, 2 optional (Table 5-1, R115). -/
def stageUses (func : Nat) : Nat × Nat :=
  if func = 1 ∨ func = 2 then (2, 2)
  else if func ∈ [3, 4, 6, 0xE, 0xF, 0x12, 0x14] then (1, 0)
  else if func ∈ [5, 7, 0x13] then (1, 1)
  else (0, 0)

/-- Lane types of a stage: 0 FP32 only, 1 INT32 only, 2 either (Tables 5-1 and 5-2). -/
def stageType (func sub : Nat) : Nat :=
  if func ∈ [3, 4, 6, 7, 8, 0x10, 0x11, 0x12, 0x13] then 2
  else if func = 9 then (if sub = 0 then 2 else 0)
  else if func = 0x14 then 1 else 0

/-- Sub values of a stage (Tables 5-1, 5-2, R120). -/
def subOk (func sub : Nat) : Bool :=
  if func ∈ [6, 8, 0x12] then sub ≤ 1
  else if func = 9 then sub ≤ 4
  else if func = 0x13 then sub ≤ 2
  else sub = 0

/-- An operand source fits its use, and names only latched statistics (R115). -/
def srcOk (use src : Nat) (lat0 lat1 : Bool) : Bool :=
  src ≠ 7 && (if use = 0 then src = 0 else if use = 1 then src ≠ 0 else true) && (src ≠ 5 || lat0) && (src ≠ 6 || lat1)

/-- The checks of a stage alone: code, sub, lane type, operands, segment, and the single-stage bits (R112, R115, R119, R139). The
sub check is left to the menu where an entry gives sub a meaning. -/
def Stage.ok (g : Stage) (lat0 lat1 freeSub : Bool) : Bool :=
  decide (1 ≤ g.func ∧ g.func ≤ 0x14) && (freeSub || subOk g.func g.sub)
    && (stageType g.func g.sub == 2 || g.int == (stageType g.func g.sub == 1))
    && srcOk (stageUses g.func).1 g.srcP lat0 lat1 && srcOk (stageUses g.func).2 g.srcQ lat0 lat1
    && decide (g.seg ≤ 256) && (!g.conj || g.func == 0xF) && (!g.pair || g.func == 0x12) && (!g.span2 || g.func == 0x12)
    && (!g.carry || !(g.func == 0x10 || g.func == 0x11) || g.seg == 0 || decide (8 ≤ g.seg))

/-! ### Lane values -/

/-- The exact value of a lane. -/
def laneFV (int : Bool) (v : Word) : FV := if int then FV.ofInt v.toInt else f32 v

/-- An INT32 lane as FP32 (R112). -/
def intToF (v : Word) : Word := rne32 (FV.ofInt v.toInt)

/-- An FP32 lane as INT32, and whether it sets int_sat (R112). -/
def fToInt (v : Word) : Word × Bool :=
  match f32 v with
  | .nan => (0#32, true)
  | .inf neg => (if neg then 0x80000000#32 else 0x7FFFFFFF#32, true)
  | .fin neg m e => clamp32 (rneInt neg m e)

/-- A word of one lane type in another. -/
def toType (have_ want : Bool) (v : Word) : Word × Bool :=
  if have_ == want then (v, false) else if want then fToInt v else (intToF v, false)

/-- A value of a real or complex element widened to a lane type (R117). -/
def fvTo (int : Bool) (x : FV) : Word × Bool :=
  if int then
    match x with
    | .fin neg m e => clamp32 (rneInt neg m e)
    | _ => fToInt (rne32 x)
  else (rne32 x, false)

def orB (f : Byte) (b : Bool) : Byte := f ||| flagIf b vIntSat

/-- Convert a beat's lanes to the type a stage works in (R112). -/
def Beat.enter (b : Beat) (int : Bool) : Beat × Byte :=
  if b.int == int then (b, 0#8)
  else
    let ls := b.lanes.map fun l => if l.idle then ({ l with v := 0#32 }, false)
      else let (v, f) := toType b.int int l.v; ({ l with v := v }, f)
    ({ b with int := int, lanes := ls.map (·.1) }, flagIf (ls.any (·.2)) vIntSat)

/-! ### Element-wise stages -/

/-- Integer and float results of one lane (Table 5-1, Table 5-2, R113); the Bool is int_sat. -/
def intLane (g : Stage) (x p q : Word) : Word × Bool :=
  let a := x.toInt
  let b := p.toInt
  let c := q.toInt
  match g.func with
  | 3 => clamp32 (a + b)
  | 4 => clamp32 (a * b)
  | 6 => clamp32 (if g.sub = 0 then min a b else max a b)
  | 7 => clamp32 (min (max a b) c)
  | 8 => clamp32 (if g.sub = 0 then (a.natAbs : Int) else -a)
  | 9 => clamp32 (max a 0)
  | 0x13 => if (if g.sub = 0 then a < 0 else if g.sub = 1 then a ≤ 0 else false) then (p, false) else (q, false)
  | 0x14 =>
    let sh := bitsOf p.toNat 0 5
    let w := if bitsOf p.toNat 8 5 = 0 then 32 else bitsOf p.toNat 8 5
    let r : Int := rneInt (a < 0) a.natAbs (-(sh : Int))
    let lo : Int := -(2 ^ (w - 1) : Nat)
    let hi : Int := (2 ^ (w - 1) : Nat) - 1
    if r < lo then (BitVec.ofInt 32 lo, true) else if hi < r then (BitVec.ofInt 32 hi, true) else (BitVec.ofInt 32 r, false)
  | _ => (x, false)

def actLane (sub : Nat) (x : Word) : Word :=
  match sub with
  | 0 => fmax x 0#32
  | 1 => fsigmoid x
  | 2 => ftanh x
  | 3 => fsilu x
  | _ => fgelu x

def floatLane (g : Stage) (x p q : Word) : Word :=
  match g.func with
  | 1 => fmul x (fmul p q)
  | 3 => fadd x p
  | 4 => fmul x p
  | 5 => ffma x p q
  | 6 => if g.sub = 0 then fmin x p else fmax x p
  | 7 => fmin (fmax x p) q
  | 8 => if g.sub = 0 then fabs x else fneg x
  | 9 => actLane g.sub x
  | 0xA => fexp x
  | 0xB => flog x
  | 0xC => frecip x
  | 0xD => frsqrt x
  | 0xE => fdiv x p
  | 0x13 =>
    let c := if g.sub = 0 then flt x 0#32 else if g.sub = 1 then flt x 0#32 || (f32 x).isZero else fIsNan x
    if c then p else q
  | _ => x

/-- x × sA × sB in one rounding, from two row-scale words: an FP16 scale in bits 15:0 (R107). -/
def rowScaleLane (x : Word) (sA sB : FV) : Word := rne32 (((f32 x).mul sA).mul sB)

/-- Complex product of the lane pairs, each lane one rounding of its exact bracket; a last lane without a partner passes
(R109, R113). -/
def cmulLanes (conj : Bool) : List Lane → List Word → List Lane
  | x :: y :: ls, p :: q :: ps =>
    let a := f32 x.v
    let b := f32 y.v
    let c := f32 p
    let d := if conj then (f32 q).neg else f32 q
    { x with v := if x.idle then 0#32 else rne32 ((a.mul c).sub (b.mul d)) }
      :: { y with v := if y.idle then 0#32 else rne32 ((a.mul d).add (b.mul c)) } :: cmulLanes conj ls ps
  | ls, _ => ls

/-! ### Statistics (R118, R119) -/

/-- One level of the tree: pairs combined; a pair with one idle member passes the other. -/
def treeLevel (f : Word → Word → Word × Bool) : List (Option Word) → List (Option Word) × Bool
  | a :: b :: rest =>
    let (r, s) := treeLevel f rest
    match a, b with
    | some x, some y => let (v, t) := f x y; (some v :: r, s || t)
    | some x, none => (some x :: r, s)
    | none, y => (y :: r, s)
  | [a] => ([a], false)
  | [] => ([], false)

/-- The tree over a segment; `fuel` levels reach one member. -/
def tree (f : Word → Word → Word × Bool) : Nat → List (Option Word) → Option Word × Bool
  | 0, xs => (xs.headD none, false)
  | fuel + 1, xs =>
    match xs with
    | [] => (none, false)
    | [a] => (a, false)
    | _ =>
      let (ys, s) := treeLevel f xs
      let (v, t) := tree f fuel ys
      (v, s || t)

/-- The combination of RSUM and RMAX. -/
def statOp (func : Nat) (int : Bool) (a b : Word) : Word × Bool :=
  if func = 0x10 then (if int then clamp32 (a.toInt + b.toInt) else (fadd a b, false))
  else (if int then (if a.toInt < b.toInt then b else a, false) else (fmax a b, false))

/-- The value of a segment without active lanes, and of an initialised state entry (R118, R119). -/
def statUnit (func : Nat) (int : Bool) : Word :=
  if func = 0x10 then 0#32 else if int then 0x80000000#32 else wNegInf

/-- Segments of `n` of a list. -/
def chunks {α : Type} (n : Nat) : Nat → List α → List (List α)
  | 0, _ => []
  | fuel + 1, xs => if xs.isEmpty then [] else xs.take n :: chunks n fuel (xs.drop n)

/-- The statistic of each segment of a beat, with its flags. -/
def segStats (func : Nat) (int : Bool) (seg : Nat) (ls : List Lane) : List (Word × Byte) :=
  let n := if seg = 0 then max 1 ls.length else seg
  (chunks n (ls.length + 1) ls).map fun c =>
    match tree (statOp func int) 16 (c.map fun l => if l.idle then none else some l.v) with
    | (some v, sat) => (v, flagIf sat vIntSat)
    | (none, _) => (statUnit func int, vStatEmpty)

/-- The statistic of a slot as lanes see it, in a stage's lane type. -/
def Stat.lane (s : Stat) (int : Bool) (l : Nat) : Word × Bool := toType s.int int (s.vals.getD (if s.seg = 0 then 0 else l / s.seg) 0#32)

/-! ### Permutation (R120, R121) -/

/-- PERM over a vector of lanes: `src` gives the input lane of each output lane, or none past VL. -/
def permLanes (ls : List Lane) (src : Nat → Nat) : List Lane × Byte :=
  let out := (List.range ls.length).map fun i =>
    let j := src i
    if j < ls.length then
      (let x := ls.getD j { v := 0#32 }
       (if x.idle then { v := 0#32, idle := true } else x, false))
    else ({ v := 0#32 }, true)
  (out.map (·.1), flagIf (out.any (·.2)) vPermRange)

/-- src(i) of a gather with per-lane indices, and of a rotate with the shift of each element (R120). With pair = 1 elements of
two lanes are moved; an unpartnered last lane stays. -/
def permSrc (g : Stage) (vl : Nat) (ent : Nat → Nat) (i : Nat) : Nat :=
  let n := if g.pair then vl / 2 else vl
  let e := if g.pair then i / 2 else i
  let part := if g.pair then i % 2 else 0
  let m := if g.pair then 2 else 1
  if g.pair && decide (vl / 2 * 2 ≤ i) then i
  else if g.sub = 0 then m * ent e + part
  else
    let seg := if g.seg = 0 then max 1 n else g.seg
    let b := e / seg * seg
    m * (b + (e - b + ent e) % seg) + part

/-! ### Round-each-step (R126) -/

/-- A lane converted to a real format and back, with conversion flags and int_sat. -/
def roundReal (sfmt : Nat) (int : Bool) (v : Word) : Word × Byte × Bool :=
  let c := convReal sfmt {} (laneFV int v)
  let (w, sat) := fvTo int (decodeReal sfmt c.code)
  (w, c.flags, sat)

/-- Lanes 2e and 2e + 1 converted as one complex element and back; a last lane alone as its real lane. -/
def roundComplex (sfmt : Nat) (int : Bool) : List Lane → List Lane × Byte × Bool
  | x :: y :: ls =>
    let (r, f, s) := roundComplex sfmt int ls
    if x.idle && y.idle then (x :: y :: r, f, s)
    else
      let c := convComplex sfmt (laneFV int x.v) (laneFV int y.v)
      let (a, b) := decodeComplex sfmt c.code
      let (va, sa) := fvTo int (FV.ofInt a)
      let (vb, sb) := fvTo int (FV.ofInt b)
      ({ x with v := if x.idle then 0#32 else va } :: { y with v := if y.idle then 0#32 else vb } :: r, f ||| c.flags, s || sa || sb)
  | [x] =>
    if x.idle then ([x], 0#8, false)
    else
      let c := convComplex sfmt (laneFV int x.v) (.fin false 0 0)
      let (va, sa) := fvTo int (FV.ofInt (decodeComplex sfmt c.code).1)
      ([{ x with v := va }], c.flags, sa)
  | [] => ([], 0#8, false)

/-- Round-each-step of a beat; conversion flags and vector flags. -/
def Beat.roundStep (b : Beat) (sfmt : Nat) : Beat × Byte × Byte :=
  if sfmt = 8 then (b, 0#8, 0#8)
  else if fmtComplex sfmt then
    let (ls, f, s) := roundComplex sfmt b.int b.lanes
    ({ b with lanes := ls }, f, flagIf s vIntSat)
  else
    let rs := b.lanes.map fun l =>
      if l.idle then (l, 0#8, false) else let (v, f, s) := roundReal sfmt b.int l.v; ({ l with v := v }, f, s)
    ({ b with lanes := rs.map (·.1) }, rs.foldl (fun f r => f ||| r.2.1) 0#8, flagIf (rs.any (·.2.2)) vIntSat)

/-- One internal FP32 value converted to sfmt and back (R145). -/
def roundVal (sfmt : Nat) (v : Word) : Word × Byte :=
  if sfmt = 8 then (v, 0#8)
  else if fmtComplex sfmt then
    let c := convComplex sfmt (f32 v) (.fin false 0 0)
    (rne32 (FV.ofInt (decodeComplex sfmt c.code).1), c.flags)
  else
    let (w, f, _) := roundReal sfmt false v
    (w, f)

/-! ### Group scales and element codes (R99, R100, R106) -/

/-- Table 4-5. -/
def qmax (fmt : Nat) : Nat :=
  match fmt with
  | 0 => 7 | 1 => 127 | 2 => 255 | 3 => 6 | 4 => 448 | 5 => 57344 | _ => 127

/-- The least code of a float format whose value is at least num / den; above the largest, that one, and true. -/
def ceilCode (f : FloatFmt) (num den : Nat) : Nat × Bool :=
  let l := gridExp f num den
  let (a, b) := inUnits num den l
  let m := magCode f (ceilDiv' a b) l
  if f.maxCode < m then (f.maxCode, true) else (m, false)
where
  ceilDiv' (a b : Nat) : Nat := (a + b - 1) / b

/-- The largest magnitude of finite values, as a fraction. -/
def maxAbs : List FV → Nat × Nat
  | [] => (0, 1)
  | x :: xs =>
    let (n, d) := maxAbs xs
    match x with
    | .fin _ m e =>
      let (a, b) := ratOf m e
      if n * b < a * d then (a, b) else (n, d)
    | _ => (n, d)

/-- An element of a row: its column, and its lanes (the imaginary one only for a complex destination). -/
structure Elem where
  col : Nat
  re  : FV
  im  : FV := .fin false 0 0

/-- Convert one element of a destination format. -/
def convElem (fmt : Nat) (mode : ConvMode) (re im : FV) : Conv :=
  if fmtComplex fmt then convComplex fmt re im else convReal fmt mode re

/-- RNE32 of x / y for exact values. -/
def quot32 (x y : FV) : FV := f32 (fvDiv32 x y)

/-- An element of a reducing collective over the global ranks in ascending order, in FP32 or INT32 (R431). -/
def foldRanks (int : Bool) (xs : List Word) : Word :=
  match xs with
  | [] => 0#32
  | x :: rest => rest.foldl (fun a b => if int then a + b else fadd a b) x

/-- All flags that come by column. -/
def orFlags (fs : List (Nat × Byte)) : Byte := fs.foldl (fun f p => f ||| p.2) 0#8

/-- Codes and flags by column of converted elements; the flag of their scale stands at the first one. -/
def codesFlags (sat : Bool) (cs : List (Nat × Conv)) : List (Nat × Nat) × List (Nat × Byte) :=
  (cs.map fun p => (p.1, p.2.code), cs.mapIdx fun i p => (p.1, p.2.flags ||| flagIf (sat && i == 0) 4#8))

/-- One group: its scale code, element codes and conversion flags by column (R99, R100, Table 4-6). `draw` gives the stochastic draw of a
column. A finite x whose quotient by the panel scale rounds to an infinity is no finite lane; E5M2 with the overflow setting keeps R77 when the
group's scale saturates (log 83). -/
def writeGroup (fmt : Nat) (sp : Word) (sr ovf : Bool) (draw : Nat → Nat) (es : List Elem) : Nat × List (Nat × Nat) × List (Nat × Byte) :=
  let xs := es.map fun e => { e with re := quot32 e.re (f32 sp), im := quot32 e.im (f32 sp) }
  let (n, d) := maxAbs (xs.flatMap fun e => if fmtComplex fmt then [e.re, e.im] else [e.re])
  let mode := fun (e : Elem) => { draw := if sr && decide (fmt ≤ 5) then some (draw e.col) else none, ovfInf := ovf : ConvMode }
  let (code, sat) := if n = 0 then (0, false) else ceilCode ue4m3F n (d * qmax fmt)
  let s := decodeMag ue4m3F false code
  let cs := xs.map fun e =>
    (e.col, if n = 0 then convElem fmt {} e.re e.im else convElem fmt (mode e) (quot32 e.re s) (quot32 e.im s))
  (code, codesFlags sat cs)

/-- A line of a row-scale tensor: its FP16 scale, element codes and flags by column (R106). -/
def writeRowScale (fmt : Nat) (sr ovf : Bool) (draw : Nat → Nat) (es : List Elem) : Nat × List (Nat × Nat) × List (Nat × Byte) :=
  let (n, d) := maxAbs (es.map (·.re))
  let (code, sat) := if n = 0 then (0, false) else ceilCode fp16F n (d * qmax fmt)
  let s := decodeMag fp16F false code
  let cs := es.map fun e =>
    (e.col, if n = 0 then convReal fmt {} (match e.re with | .fin neg _ _ => .fin neg 0 0 | x => x)
      else convReal fmt { draw := if sr then some (draw e.col) else none, ovfInf := ovf } (quot32 e.re s))
  (code, codesFlags sat cs)

end Sys2Proof.Machine
end

