-- ==== Sys2Proof/Machine/VecCfg.lean ====
section
/-!
DEFINITION. Configuration blocks, stream descriptors and output descriptors of the vector engine, the checks of R139 and the menu
templates of Table 6-1, and the ranges that R136 pegs.
-/
namespace Sys2Proof.Machine

/-! ### Descriptors -/

/-- An operand stream or the input of a chain (Table 5-6). -/
structure Strm where
  raw     : Nat
  fmt     : Nat
  kind    : Nat
  en      : Bool
  vl      : Nat
  rows    : Nat
  addr    : Nat
  rstride : Nat
  tstride : Nat
deriving DecidableEq, Repr

def strmOf (d : Nat) : Strm :=
  { raw := d, fmt := bitsOf d 124 4, kind := bitsOf d 122 2, en := d.testBit 121, vl := bitsOf d 109 9, rows := bitsOf d 102 7,
    addr := bitsOf d 74 22, rstride := bitsOf d 52 22, tstride := bitsOf d 30 22 }

def Strm.resOk (t : Strm) : Bool := bitsOf t.raw 118 3 == 0 && bitsOf t.raw 96 6 == 0 && bitsOf t.raw 0 30 == 0

/-- An output descriptor (Table 5-7). -/
structure OutD where
  addr    : Nat
  rstride : Nat
  tstride : Nat
  hdr     : Nat
  scale   : Nat
  plane   : Nat
  line0   : Nat
  dline   : Nat
  group0  : Nat
  dgroup  : Nat
  idxBase : Nat
  idxR    : Nat
  idxT    : Nat
  flags   : Nat
deriving DecidableEq, Repr

def outOf (b : List Byte) (o : Nat) : OutD :=
  let f := fun a n => fieldAt b (o + a) n
  { addr := f 0 4, rstride := f 4 4, tstride := f 8 4, hdr := f 0xC 4, scale := f 0x10 4, plane := f 0x14 4, line0 := f 0x18 4,
    dline := f 0x1C 4, group0 := f 0x20 4, dgroup := f 0x24 4, idxBase := f 0x28 8, idxR := f 0x30 4, flags := f 0x34 4,
    idxT := f 0x38 8 }

def OutD.nostore (o : OutD) : Bool := o.flags.testBit 2
def OutD.ovf (o : OutD) : Bool := o.flags.testBit 1
def OutD.sr (o : OutD) : Bool := o.flags.testBit 0

/-- Reserved bits and alignments of an output descriptor. -/
def OutD.ok (o : OutD) : Bool :=
  decide (o.addr < 0x400000) && decide (o.rstride < 0x400000) && decide (o.tstride < 0x400000) && decide (o.hdr < 0x400000)
    && decide (o.scale < 0x400000) && decide (o.flags < 8) && o.hdr % 64 == 0 && o.scale % 128 == 0

/-- A chain configuration block (Tables 5-3, 5-4). -/
structure Chain where
  code    : Nat
  nstg    : Nat
  ctl     : Nat
  count   : Nat
  state   : Nat
  stages  : List Stage
  input   : Strm
  s0      : Strm
  s1      : Strm
  s2      : Strm
  out     : OutD
deriving DecidableEq, Repr

def Chain.src (c : Chain) : Bool := c.ctl.testBit 0
def Chain.rstep (c : Chain) : Bool := c.ctl.testBit 1
def Chain.sinit (c : Chain) : Bool := c.ctl.testBit 2
def Chain.strm (c : Chain) (i : Nat) : Strm := if i = 0 then c.s0 else if i = 1 then c.s1 else c.s2

def chainOf (b : List Byte) : Chain :=
  let n := fieldAt b 1 1
  { code := fieldAt b 0 1, nstg := n, ctl := fieldAt b 2 1, count := fieldAt b 4 2, state := fieldAt b 8 4,
    stages := (List.range (min n 8)).map fun s => stageOf (fieldAt b (0x10 + 8 * s) 8),
    input := strmOf (fieldAt b 0x50 16), s0 := strmOf (fieldAt b 0x60 16), s1 := strmOf (fieldAt b 0x70 16),
    s2 := strmOf (fieldAt b 0x80 16), out := outOf b 0x90 }

def Chain.stage (c : Chain) (i : Nat) : Stage := c.stages.getD i (stageOf 0)

/-- Reserved fields of a configuration block, and the words beyond nstg (R11, Table 5-3). -/
def blockResOk (b : List Byte) : Bool :=
  let n := fieldAt b 1 1
  decide (n ≤ 8) && decide (fieldAt b 2 1 < 8) && fieldAt b 3 1 == 0 && fieldAt b 6 2 == 0 && decide (fieldAt b 8 4 < 0x400000)
    && fieldAt b 0xC 4 == 0 && decide (fieldAt b 0 1 ≤ 0x14)
    && (List.range 8).all (fun s => if n ≤ s then fieldAt b (0x10 + 8 * s) 8 == 0 else fieldAt b (0x10 + 8 * s) 8 % 2 ^ 17 == 0)
    && ((b.drop 0xD0).take 48).all (fun v => v == 0#8)

/-! ### Menu templates (Table 6-1) -/

/-- One template stage: func, sub (none: free), source of P and Q (none: free), lane type, whether it is optional. -/
structure Tpl where
  func : Nat
  sub  : Option Nat := some 0
  p    : Option Nat := some 0
  q    : Option Nat := some 0
  int  : Bool := false
  opt  : Bool := false
  conj : Option Bool := none

def tplPs : Tpl := { func := 1, p := none, q := none }

def template (code : Nat) : Option (List Tpl) :=
  match code with
  | 0x01 => some [tplPs, { func := 3, p := some 2, opt := true }, { func := 9, sub := none, opt := true }]
  | 0x02 => some [tplPs, { func := 4, p := some 2 }]
  | 0x03 => some [tplPs, { func := 5, p := some 1, q := some 2 }]
  | 0x04 => some [tplPs, { func := 9, sub := some 3 }]
  | 0x05 => some [{ tplPs with sub := none }, { func := 4, sub := none, p := some 1 }]
  | 0x06 => some [{ tplPs with sub := none }, { func := 4, sub := none, p := some 1 }]
  | 0x07 => some [tplPs, { func := 3, p := some 2 }, { func := 5, p := some 3, q := some 4 }]
  | 0x08 => some [tplPs, { func := 3, p := some 2, opt := true }, { func := 0xF, p := some 3, opt := true }]
  | 0x09 => some [tplPs, { func := 4, p := some 1 }]
  | 0x0A => some (List.replicate 3 { func := 5, p := some 1, q := some 1 })
  | 0x0B => some [{ func := 9, sub := some 1 }, { func := 3, p := some 2 }]
  | 0x0C => some [tplPs, { func := 4, p := some 2 }]
  | 0x0D => some [{ func := 0xF, p := some 2, conj := some true }, { func := 4, p := some 1 }]
  | 0x0E => some [tplPs, { func := 4, p := some 2 }]
  | 0x0F => some [{ func := 3, p := some 1 }, { func := 6, sub := some 1, p := some 1 }, { func := 4, p := some 1 }]
  | 0x10 => some [{ func := 3, p := some 2, int := true }, { func := 7, p := some 1, q := some 1, int := true }]
  | 0x11 => some [tplPs, { func := 4, p := some 2 }]
  | _ => none

def Tpl.fits (t : Tpl) (g : Stage) : Bool :=
  t.func == g.func && t.int == g.int && t.sub.all (· == g.sub) && t.p.all (· == g.srcP) && t.q.all (· == g.srcQ)
    && t.conj.all (· == g.conj)

/-- The stages follow the template; an optional stage may be left out (R142). -/
def tplMatch : List Tpl → List Stage → Bool
  | [], gs => gs.isEmpty
  | t :: ts, [] => t.opt && tplMatch ts []
  | t :: ts, g :: gs => (t.fits g && tplMatch ts gs) || (t.opt && tplMatch ts (g :: gs))

/-- The entry has a template, or takes any plain sequence (R123, R142). -/
def entryOk' (code : Nat) (gs : List Stage) : Bool :=
  match template code with
  | some ts => tplMatch ts gs
  | none => code = 0 || (decide (0x12 ≤ code) && decide (code ≤ 0x14))

def isAttn (code : Nat) : Bool := code = 5 || code = 6
def isDefer (code : Nat) : Bool := code = 2 || code = 7 || code = 9
def isSend (code : Nat) : Bool := decide (0x12 ≤ code) && decide (code ≤ 0x14)

/-- n_s of an attention entry (R146). -/
def Chain.ns (c : Chain) : Nat := (c.stage 0).sub
def Chain.dh (c : Chain) : Nat := 64 * (4 - c.ns)

/-! ### Stage checks of a chain -/

/-- Every stage, with the slots latched before it (R112 to R120, R126). A panel scale of PSCALE is none, scalar, or a stream of FP32 values: per
row for P, per column for Q (R98; that another form is rejected is DEDUCED, log 87). -/
def stagesOk (c : Chain) : Bool → Bool → Nat → List Stage → Bool
  | _, _, _, [] => true
  | l0, l1, i, g :: gs =>
    let red := g.func = 0x10 || g.func = 0x11
    let named := fun src => !(decide (2 ≤ src) && decide (src ≤ 4)) || ((c.strm (src - 2)).en && !(isSend c.code && src = 4))
    let permOk := g.func != 0x12 || (decide (1 ≤ g.srcP) && decide (g.srcP ≤ 4)
      && (if g.sub = 0 then decide (2 ≤ g.srcP) && (c.strm (g.srcP - 2)).kind == 0
          else g.srcP == 1 || (c.strm (g.srcP - 2)).kind == 3))
    let scaleOk := g.func != 1 || (decide (g.srcP ≤ 4) && decide (g.srcQ ≤ 4)
      && (g.srcP ≤ 1 || ((c.strm (g.srcP - 2)).kind == 1 && (c.strm (g.srcP - 2)).fmt == 8))
      && (g.srcQ ≤ 1 || ((c.strm (g.srcQ - 2)).kind == 2 && (c.strm (g.srcQ - 2)).fmt == 8)))
    g.ok l0 l1 (isAttn c.code) && named g.srcP && named g.srcQ && permOk && scaleOk && (!c.rstep || decide (g.sfmt ≤ 0xA))
      && (g.func != 0x14 || g.srcP == 1)
      && stagesOk c (l0 || (red && !g.slot)) (l1 || (red && g.slot)) (i + 1) gs

/-- Registers that the stages name as scalars (R116), and those the entry gives a meaning (R146, R155, R156). -/
def Chain.regs (c : Chain) : List Nat :=
  c.stages.flatMap (fun g => (if g.srcP = 1 then [g.sregP] else []) ++ (if g.srcQ = 1 then [g.sregQ] else []))
    ++ (if c.code = 2 ∨ c.code = 7 then [(c.stage 1).sregQ] else [])
    ++ (if isAttn c.code then [(c.stage 0).sregP, (c.stage 1).sregP, (c.stage 1).sregQ] else [])

/-- The width code of each ISAT is not 1 (R114). -/
def isatOk (x : Ctx) (gs : List Stage) : Bool :=
  gs.all fun g => g.func != 0x14 || g.srcP != 1 || bitsOf (x.sreg g.sregP).toNat 8 5 != 1

/-- RSCALE does not meet a panel-scaled operand in one chain (R108, DEDUCED, log 38). -/
def rscaleOk (gs : List Stage) : Bool :=
  !(gs.any (fun g => g.func == 2)) || !(gs.any fun g => g.func == 1 && (g.srcP != 0 || g.srcQ != 0))

/-- A chain uses carry. -/
def Chain.carries (c : Chain) : Bool := c.stages.any (·.carry)

/-- The stages that name an operand stream, once for each operand. -/
def Chain.naming (c : Chain) (i : Nat) : List Stage :=
  c.stages.filter (fun g => g.srcP == i + 2) ++ c.stages.filter fun g => g.srcQ == i + 2

/-- A stream that only PERM or RSCALE stages name holds raw entries, whose fmt is ignored (R107, R120). -/
def Chain.rawStrm (c : Chain) (i : Nat) : Bool := !(c.naming i).isEmpty && (c.naming i).all fun g => g.func == 0x12 || g.func == 2

/-- Operand stream fields (R117, Table 5-6). -/
def Strm.ok (t : Strm) (raw : Bool) : Bool :=
  t.resOk && t.vl == 0 && t.rows == 0 && (!t.en || raw || decide (t.fmt ≤ 0xA))

/-- The peer descriptor of a send entry (Table 6-5). -/
def peerOk (code : Nat) (d : Nat) (pkgs : Nat) : Bool :=
  d.testBit 121 && bitsOf d 122 3 == 0 && bitsOf d 112 9 == 0
    && (if code = 0x13 then decide (bitsOf d 104 8 ≤ pkgs) else bitsOf d 104 8 == 0)
    && (code == 0x14 || (bitsOf d 96 8 == 0 && bitsOf d 0 24 == 0))

def peerCh (d : Nat) : Nat := bitsOf d 125 3
def peerPkg (d : Nat) : Nat := bitsOf d 104 8
def peerRank (d : Nat) : Nat := bitsOf d 96 8
def peerDst (d : Nat) : Nat := bitsOf d 48 48
def peerStride (d : Nat) : Nat := bitsOf d 24 24
def peerSlot (d : Nat) : Nat := bitsOf d 0 24

/-- Entry-specific checks of the block (R124, R142, R146, R149, R154 to R159). -/
def entryFieldsOk (c : Chain) (pkgs : Nat) : Bool :=
  let perCol := fun (t : Strm) => t.kind == 2
  match c.code with
  | 0x02 => perCol c.s0
  | 0x04 => !c.src
  | 0x05 => !c.src && decide (1 ≤ c.ns ∧ c.ns ≤ 3) && decide ((c.stage 1).sub ≤ 2) && decide ((c.stage 0).srcP ≤ 1)
      && decide ((c.stage 0).srcQ ≤ 1) && c.s1.en && c.s2.en && (c.s1.fmt == 4 || c.s1.fmt == 0)
      && ((c.stage 1).sub != 2 || (c.s0.en && c.s0.fmt == 2 && c.s0.kind == 0))
  | 0x06 => !c.src && decide (1 ≤ c.ns ∧ c.ns ≤ 3) && decide ((c.stage 1).sub ≤ 2) && decide ((c.stage 0).srcP ≤ 1)
      && decide ((c.stage 0).srcQ ≤ 1) && c.s1.en && !c.s2.en && !fmtComplex c.s1.fmt
      && ((c.stage 1).sub != 2 || (c.s0.en && c.s0.fmt == 2 && c.s0.kind == 0))
  | 0x07 => perCol c.s1 && perCol c.s2
  | 0x0A => c.src && [c.s0, c.s1, c.s2].all (fun t => t.en && t.fmt == 8 && t.kind == 0)
  | 0x0D => c.src
  | 0x0E => !c.src
  | 0x0F => !c.src && c.count % 2 == 0 && c.s2.en && c.s2.kind == 0
  | 0x12 => peerOk 0x12 c.s2.raw pkgs
  | 0x13 => peerOk 0x13 c.s2.raw pkgs
  | 0x14 => peerOk 0x14 c.s2.raw pkgs
  | _ => true

/-- The state block is named exactly when something uses it (Table 5-4). -/
def Chain.usesState (c : Chain) : Bool := c.carries || isAttn c.code || isDefer c.code || c.code == 0xF

/-! ### Ranges (R136, R139) -/

def elemBytes (fmt n : Nat) : Nat := (n * fmtBits fmt + 7) / 8

/-- Tensor element capacity of an output row of `lanes` lanes. -/
def rowElemsOf (fmt lanes : Nat) : Nat := if fmtComplex fmt then (lanes + 1) / 2 else lanes

/-- A tensor with no planes, lines or elements (R87). -/
def hdEmpty (h : List Byte) : Bool := hdPlanes h == 0 || hdLines h == 0 || hdLength h == 0

def scaledMode (h : List Byte) : Bool := hdMode h == 1 || hdMode h == 3

/-- Output data range of tiles t0 to t1 - 1, `rows` rows of `n` elements. -/
def outRange (o : OutD) (h : List Byte) (t0 t1 rows n : Nat) : Nat × Nat :=
  if o.nostore || hdEmpty h || t1 ≤ t0 || rows = 0 || n = 0 then (0, 0)
  else (o.addr + t0 * o.tstride, (t1 - 1 - t0) * o.tstride + (rows - 1) * o.rstride + elemBytes (hdFmt h) n)

/-- Byte offset of the scale entry of a line and a group (R132). -/
def scaleOff (o : OutD) (h : List Byte) (line q : Nat) : Nat :=
  2 * (((line / 64 - o.line0 / 64) * (hdLength h / hdG h) + q) * 64 + line % 64)

/-- Scale entries of the same tiles. -/
def scaleRange (o : OutD) (h : List Byte) (t0 t1 rows n : Nat) : Nat × Nat :=
  if o.nostore || hdEmpty h || t1 ≤ t0 || rows = 0 || n = 0 then (0, 0)
  else if scaledMode h then
    let a := scaleOff o h (o.line0 + t0 * o.dline) (t0 * o.dgroup)
    let b := scaleOff o h (o.line0 + (t1 - 1) * o.dline + rows - 1) ((t1 - 1) * o.dgroup + (n - 1) / hdG h) + 2
    (o.scale + a, b - a)
  else if hdMode h = 2 then (o.scale + 4 * (o.line0 % 64), 4 * rows)
  else (0, 0)

/-- Bytes that a stage reads of one row of a stream of `lanes` lanes (R98, R107, R120, R125): raw 16-bit entries for PERM, 32-bit ones for
RSCALE; one entry per row or per segment, else one per lane or element. -/
def rowReadBytes (t : Strm) (cplx : Bool) (lanes : Nat) (g : Stage) : Nat :=
  let segs := if g.seg = 0 then 1 else ceilDiv (if g.pair then lanes / 2 else lanes) g.seg
  let n := if t.kind = 1 then 1 else if t.kind = 3 then segs else if g.func = 0x12 ∧ g.pair then lanes / 2 else lanes
  if g.func = 0x12 then 2 * n
  else if g.func = 2 then 4 * n
  else if g.func = 1 then 4 * (if t.kind = 1 then 1 else if cplx then (lanes + 1) / 2 else lanes)
  else elemBytes t.fmt (if fmtComplex t.fmt && (t.kind = 0 || t.kind = 2) then (n + 1) / 2 else n)

/-- An operand stream's range over tiles t0 to t1 - 1, `bytes` bytes in each row. -/
def strmRange (t : Strm) (t0 t1 rows bytes : Nat) : Nat × Nat :=
  if t1 ≤ t0 || rows = 0 || bytes = 0 then (t.addr, 0)
  else (t.addr + t0 * t.tstride, (t1 - 1 - t0) * t.tstride + (if t.kind = 2 then 0 else (rows - 1) * t.rstride) + bytes)

def rangeIn (r : Nat × Nat) : Bool := r.2 == 0 || decide (r.1 + r.2 ≤ 0x400000)
def rangesMeet (a b : Nat × Nat) : Bool := decide (0 < a.2) && decide (0 < b.2) && decide (a.1 < b.1 + b.2) && decide (b.1 < a.1 + a.2)

/-- Bytes of the state block a chain uses: from its first byte (R119, R149, R154, R158). -/
def stateRange (c : Chain) (h : List Byte) : Nat × Nat :=
  if isAttn c.code then (c.state, 0x800 + 256 * c.dh + 8192 * c.ns + 128 * c.ns * c.dh)
  else if isDefer c.code then (if c.carries then (c.state, 0x4000 + 256 * hdLength h) else (c.state + 0x4000, 256 * hdLength h))
  else if c.code = 0xF then (c.state, 4 * 64 * 256)
  else if c.carries then (c.state, 16384) else (0, 0)

/-- Lanes of a row of copy-outs, at most: 512 for four engines of complex elements, and no more than the output's length lets a row have
(DEDUCED, log 39). -/
def Chain.copyLanesMax (c : Chain) (h : List Byte) : Nat :=
  let len := if hdEmpty h then 0 else hdLength h
  if c.code = 0xE then 512
  else if isAttn c.code then 64 * c.ns
  else if c.code = 0xF || isDefer c.code then min 512 len
  else min 512 (len * (if fmtComplex (hdFmt h) then 2 else 1) * (if c.code = 4 then 2 else 1))

/-- Rows and lanes that the ranges of a chain span: those of the input, or for copy-outs what the header's shape allows, at most 64
rows (DEDUCED, log 39). -/
def Chain.span (c : Chain) (h : List Byte) : Nat × Nat :=
  if c.src then (c.input.rows, c.input.vl) else (min 64 (hdLines h), c.copyLanesMax h)

/-- Elements of an output row for the ranges. -/
def Chain.outElems (c : Chain) (h : List Byte) : Nat :=
  if c.src then rowElemsOf (hdFmt h) c.input.vl
  else if c.code = 0xE then min (hdLength h) 8
  else min (if fmtComplex (hdFmt h) then 256 else 512) (hdLength h)

/-- Bytes of a row of a core-memory input. -/
def Strm.inBytes (t : Strm) : Nat := elemBytes t.fmt (if fmtComplex t.fmt then t.vl / 2 else t.vl)

/-- Streams that an entry writes: back in place, or as its index output. They take a write peg (R136, R156, R158, Table 6-1). -/
def Chain.wrote (c : Chain) (i : Nat) : Bool := c.code = 0xA || (c.code = 0x10 && i = 0) || (c.code = 0xF && i = 2)

/-- The range of one operand stream of a chain. -/
def Chain.strmSpan (c : Chain) (h : List Byte) (t0 i : Nat) : Nat × Nat :=
  let (rows, lanes) := c.span h
  let t := c.strm i
  if isAttn c.code && i = 1 then strmRange { t with kind := 0 } t0 c.count (64 * c.ns) (elemBytes t.fmt c.dh)
  else if isAttn c.code && i = 2 then strmRange { t with kind := 2 } t0 c.count 1 (128 * (c.ns * (c.dh / 32)))
  else if isAttn c.code then (if (c.stage 1).sub = 2 then strmRange t t0 c.count rows (64 * c.ns) else (t.addr, 0))
  else if (c.code = 2 && i = 0) || (c.code = 7 && i ≠ 0) then (t.addr, elemBytes t.fmt (hdLength h))
  else if c.code = 0xF && i = 2 then strmRange t t0 c.count rows lanes
  else if c.code = 0xA then strmRange t t0 c.count rows (4 * lanes)
  else strmRange t t0 c.count rows (((c.naming i).map (rowReadBytes t (c.src && fmtComplex c.input.fmt) lanes)).foldl max 0)

/-- The operand streams of a chain by slot. -/
def Chain.slotsOn (c : Chain) : List Nat := (List.range 3).filter fun i => (c.strm i).en && !(isSend c.code && i = 2)

/-- Read ranges of a chain: input and the operand streams that it only reads. -/
def chainReads (c : Chain) (h : List Byte) (t0 : Nat) : List (Nat × Nat) :=
  (if c.src then
      [(c.input.addr + t0 * c.input.tstride, (c.count - 1 - t0) * c.input.tstride + (c.input.rows - 1) * c.input.rstride + c.input.inBytes)]
    else [])
    ++ (c.slotsOn.filter fun i => !c.wrote i).map (c.strmSpan h t0)

/-- Write ranges of a chain: output data, scale entries, state block, and streams that an entry writes. -/
def chainWrites (c : Chain) (h : List Byte) (t0 : Nat) : List (Nat × Nat) :=
  let rows := (c.span h).1
  let n := c.outElems h
  let (t0', t1, rows', n') := if isDefer c.code then (0, 1, 64, hdLength h)
    else if isAttn c.code then (0, 1, rows, if fmtComplex (hdFmt h) then c.dh / 2 else c.dh) else (t0, c.count, rows, n)
  [outRange c.out h t0' t1 rows' n', scaleRange c.out h t0' t1 rows' n', stateRange c h]
    ++ (c.slotsOn.filter c.wrote).map (c.strmSpan h t0)

/-- The ranges stay in core memory, and the output touches no operand stream and not the state block (R139). -/
def chainRangesOk (c : Chain) (h : List Byte) (t0 : Nat) : Bool :=
  let reads := chainReads c h t0
  let ws := chainWrites c h t0
  let outs := ws.take 2
  let streams := (if c.src then reads.drop 1 else reads) ++ ws.drop 3
  (reads ++ ws).all rangeIn && outs.all (fun o => (streams ++ [stateRange c h]).all fun r => !rangesMeet o r)

/-- Elements of the output per lane step of a tile: out_tstride / s (R154). -/
def holdStep (c : Chain) (h : List Byte) : Nat := c.out.tstride * 8 / fmtBits (hdFmt h)
def holdStepOk (c : Chain) (h : List Byte) : Bool := c.out.tstride * 8 % fmtBits (hdFmt h) == 0

/-- A column of a row panel that tiles of `lanes` lanes reach: those of tile t stand from column t × q on (R154). -/
def reached (q : Nat) (lanes : List (List Bool)) (col : Nat) : Bool :=
  (lanes.mapIdx fun t ls => decide (t * q ≤ col) && ls.getD (col - t * q) false).any id

/-- A row of columns holds whole groups of elements only: none of it, or all of it, is delivered (R101). -/
def wholeGroups (h : List Byte) (on : Nat → Bool) : Bool :=
  let per := hdG h * (if fmtComplex (hdFmt h) then 2 else 1)
  (List.range (hdLength h / hdG h)).all fun g =>
    let ls := (List.range per).map fun i => on (g * per + i)
    ls.all id || !ls.any id

/-- The issue checks of a deferred entry that give ST_CHAIN_REJECT (R154). -/
def deferOk (c : Chain) (h : List Byte) (t0 : Nat) : Bool :=
  !isDefer c.code || (decide (256 * hdLength h ≤ 0x200000) && decide (c.state + 0x4000 + 256 * hdLength h ≤ 0x400000) && holdStepOk c h
    && (!c.src || decide (c.count ≤ t0) || decide ((c.count - 1) * holdStep c h + c.input.vl ≤ hdLength h)))

/-- The header copy of an output descriptor: read whole; none where it does not fit in core memory. -/
def readHdr (s : State) (c : CoreId) (a : Nat) : Option (List Byte) :=
  if 0x400000 < a + 64 then none
  else
    let n := hdBytes (min (s.loadCore c (a + 0x18) 2) 1008)
    if 0x400000 < a + n then none else some (s.readCore c a n)

/-! ### Stream descriptors (Tables 5-8, 5-9) -/

structure View where
  raw    : Nat
  fmt    : Nat
  kind   : Nat
  en     : Bool
  addr   : Nat
  lstride : Nat
  pstride : Nat
deriving DecidableEq, Repr

def viewOf (d : Nat) : View :=
  { raw := d, fmt := bitsOf d 124 4, kind := bitsOf d 122 2, en := d.testBit 121, addr := bitsOf d 44 22, lstride := bitsOf d 22 22,
    pstride := bitsOf d 0 22 }

structure StreamD where
  g      : Stage
  planes : Nat
  lines  : Nat
  length : Nat
  vx     : View
  vp     : View
  vq     : View
  out    : OutD
deriving DecidableEq, Repr

/-- src_p and src_q of a stream descriptor as stage source codes: a view is stream slot 0 for P and 1 for Q. -/
def streamSrc (v slot : Nat) : Nat := if v = 1 then 1 else if v = 2 then 2 + slot else if v = 3 then 7 else 0

def streamOf (b : List Byte) : StreamD :=
  let ctl := fieldAt b 2 1
  { g := { func := fieldAt b 0 1, sub := fieldAt b 1 1, int := ctl.testBit 0, srcP := streamSrc (bitsOf ctl 2 2) 0,
           srcQ := streamSrc (bitsOf ctl 4 2) 1, sregP := fieldAt b 4 1 % 64, sregQ := fieldAt b 5 1 % 64, sfmt := 8,
           seg := fieldAt b 6 2, slot := false, carry := false, conj := ctl.testBit 1, pair := false, span2 := false },
    planes := fieldAt b 8 4, lines := fieldAt b 0xC 4, length := fieldAt b 0x10 4, vx := viewOf (fieldAt b 0x20 16),
    vp := viewOf (fieldAt b 0x30 16), vq := viewOf (fieldAt b 0x40 16), out := outOf b 0x50 }

/-- Lines of a stream tile, tiles of a plane, tiles of the operation (R130). -/
def StreamD.h (d : StreamD) : Nat := if d.length = 0 then 1 else min 64 (max 1 (16384 / d.length))
def StreamD.perPlane (d : StreamD) : Nat := ceilDiv d.lines d.h
def StreamD.tiles (d : StreamD) : Nat := if d.length = 0 then 0 else d.planes * d.perPlane

def StreamD.reduces (d : StreamD) : Bool := d.g.func == 0x10 || d.g.func == 0x11

def View.ok (v : View) (raw : Bool) : Bool :=
  bitsOf v.raw 66 55 == 0 && (!v.en || (v.kind != 3 && (raw || decide (v.fmt ≤ 0xA))))

def streamResOk (b : List Byte) : Bool :=
  decide (fieldAt b 0 1 < 64) && decide (fieldAt b 1 1 < 16) && decide (fieldAt b 2 1 < 64) && fieldAt b 3 1 == 0
    && decide (fieldAt b 4 1 < 64) && decide (fieldAt b 5 1 < 64) && decide (fieldAt b 6 2 < 512)
    && ((b.drop 0x14).take 12).all (fun v => v == 0#8) && ((b.drop 0x90).take 48).all (fun v => v == 0#8)

/-- Raw entries: PERM reads 16-bit words, RSCALE 32-bit scale entries. -/
def StreamD.rawBytes (d : StreamD) : Nat := if d.g.func = 0x12 then 2 else if d.g.func = 2 then 4 else 0

/-- A view that a stage may read: of PERM a per-lane view for a gather; of PSCALE one FP32 value per line for P and per column for Q (R98, R120;
log 87). -/
def StreamD.viewsOk (d : StreamD) : Bool :=
  (d.g.func != 0x12 || d.g.sub != 0 || (d.g.srcP == 2 && d.vp.kind != 1))
    && (d.g.func != 1 || ((d.g.srcP != 2 || (d.vp.kind == 1 && d.vp.fmt == 8)) && (d.g.srcQ != 3 || (d.vq.kind == 2 && d.vq.fmt == 8))))

/-- The checks of a stream descriptor before its header (R112, R115, R128 to R130). -/
def streamFieldsOk (d : StreamD) : Bool :=
  d.g.ok false false false && d.vx.en && d.vx.ok false && d.vp.ok (d.rawBytes != 0) && d.vq.ok (d.rawBytes != 0)
    && d.vp.en == (d.g.srcP == 2) && d.vq.en == (d.g.srcQ == 3) && (!d.reduces || d.g.seg == 0) && decide (d.length ≤ 262144)
    && (d.g.func != 0x14 || d.g.srcP == 1) && d.viewsOk && d.out.ok

/-- The bounding range of `bytes` bytes of each line from line `l0` of plane `n0` to the last line of the last plane. -/
def lineSpan (a pstride lstride planes lines bytes n0 l0 : Nat) : Nat × Nat :=
  if planes ≤ n0 || lines = 0 || bytes = 0 then (a, 0)
  else
    let lo := if n0 + 1 = planes then n0 * pstride + l0 * lstride else min (n0 * pstride + l0 * lstride) ((n0 + 1) * pstride)
    (a + lo, (planes - 1) * pstride + (lines - 1) * lstride + bytes - lo)

/-- The plane and the line at which a stream tile begins (R130). -/
def StreamD.place (d : StreamD) (t : Nat) : Nat × Nat := (t / d.perPlane, t % d.perPlane * d.h)

def viewRange (d : StreamD) (v : View) (raw first : Nat) : Nat × Nat :=
  let n := if v.kind = 1 then 1 else if raw ≠ 0 && fmtComplex d.vx.fmt then d.length * (if d.g.pair then 1 else 2) else d.length
  let bytes := if raw ≠ 0 then raw * n else elemBytes v.fmt n
  if v.kind = 2 then (v.addr, bytes) else lineSpan v.addr v.pstride v.lstride d.planes d.lines bytes (d.place first).1 (d.place first).2

/-- Read ranges of a stream operation. -/
def streamReads (d : StreamD) (first : Nat) : List (Nat × Nat) :=
  viewRange d d.vx 0 first :: ([d.vp, d.vq].filter (·.en)).map fun v => viewRange d v d.rawBytes first

/-- Elements of an output line: a complex line written to a real destination has two for each, the reverse half (R131). -/
def StreamD.outLen (d : StreamD) (h : List Byte) : Nat :=
  if d.reduces then 1
  else if fmtComplex d.vx.fmt == fmtComplex (hdFmt h) then d.length
  else if fmtComplex d.vx.fmt then 2 * d.length else d.length / 2

def streamWrites (d : StreamD) (h : List Byte) (first : Nat) : List (Nat × Nat) :=
  let bytes := if d.out.nostore || hdEmpty h then 0 else elemBytes (hdFmt h) (d.outLen h)
  let l0 := (d.place first).2
  let (a, n) := scaleRange { d.out with line0 := d.out.line0 + l0 } h 0 d.planes (d.lines - l0) (d.outLen h)
  [lineSpan d.out.addr d.out.tstride d.out.rstride d.planes d.lines bytes (d.place first).1 l0,
    (a + 128 * (((d.out.line0 + l0) / 64 - d.out.line0 / 64) * (hdLength h / hdG h)), n)]

/-- Ranges inside core memory; the output meets no view, but for view X at the same place (R130, R139). -/
def streamRangesOk (d : StreamD) (h : List Byte) (first : Nat) : Bool :=
  let reads := streamReads d first
  let ws := streamWrites d h first
  let same := d.vx.kind == 0 && d.vx.addr == d.out.addr && d.vx.lstride == d.out.rstride && d.vx.pstride == d.out.tstride
    && fmtBits d.vx.fmt == fmtBits (hdFmt h)
  let xr := reads.headD (0, 0)
  (reads ++ ws).all rangeIn && (same || !rangesMeet (ws.headD (0, 0)) xr) && !rangesMeet (ws.getD 1 (0, 0)) xr
    && ws.all fun o => (reads.drop 1).all fun r => !rangesMeet o r

end Sys2Proof.Machine
end

