-- ==== Sys2Proof/Machine/VecRun.lean ====
section
/-!
DEFINITION. The vector engine at work: beats from copy-outs and memory (R110, R124, R128), operands (R115 to R117, R125), the
stages over a tile, statistics in the state block (R119), and the output (R131, R132).
-/
namespace Sys2Proof.Machine

/-! ### Elements in core memory -/

/-- The code of element e of a run of elements. -/
def State.elemCode (s : State) (c : CoreId) (fmt base e : Nat) : Nat :=
  if fmtBits fmt = 4 then
    let b := s.loadCore c (base + e / 2) 1
    if e % 2 = 0 then b % 16 else b / 16
  else s.loadCore c (base + e * (fmtBits fmt / 8)) (fmtBits fmt / 8)

/-- A lane of an element, widened exactly (R117). -/
def laneOfCode (fmt code part : Nat) : FV :=
  if fmtComplex fmt then (let z := decodeComplex fmt code; FV.ofInt (if part = 0 then z.1 else z.2)) else decodeReal fmt code

/-- The words of a beat's lanes as read from elements: `idx` gives a lane's element and part. -/
def State.lanesAt (s : State) (c : CoreId) (fmt base n : Nat) (int : Bool) (idx : Nat → Nat × Nat) : List (Word × Bool) :=
  (List.range n).map fun l =>
    let (e, p) := idx l
    fvTo int (laneOfCode fmt (s.elemCode c fmt base e) p)

/-! ### Operands -/

/-- Where a stage's streams are: the lanes of a slot for a beat, and raw entries of `w` bytes by index. -/
structure Feed where
  lanes : Nat → Stage → Beat → List (Word × Bool)
  raw   : Nat → Beat → Nat → Nat → Nat
  kind  : Nat → Nat
  chain : Bool

def Strm.base (t : Strm) (b : Beat) : Nat := t.addr + b.tile * t.tstride + (if t.kind = 2 then 0 else b.row * t.rstride)

/-- Operand streams of a chain (R125). A panel scale of PSCALE is one FP32 value per row or per column, both lanes of a complex column taking
the same (R98). -/
def chainFeed (s : State) (c : CoreId) (ch : Chain) : Feed :=
  { lanes := fun i g b =>
      let t := ch.strm i
      let cx := fmtComplex t.fmt
      s.lanesAt c t.fmt (t.base b) b.vl g.int fun l =>
        let n := b.laneNo l
        if g.func = 1 then (if t.kind = 1 then 0 else if b.cplx then n / 2 else n, 0)
        else (if t.kind = 1 then 0 else if t.kind = 3 then (if g.seg = 0 then 0 else l / g.seg) else if cx then n / 2 else n, if cx then n % 2 else 0)
    raw := fun i b w e => (let t := ch.strm i; s.loadCore c (t.base b + w * (if t.kind = 1 then 0 else e)) w)
    kind := fun i => (ch.strm i).kind
    chain := true }

def StreamD.view (d : StreamD) (i : Nat) : View := if i = 0 then d.vp else d.vq
def View.base (v : View) (b : Beat) : Nat := v.addr + (if v.kind = 2 then 0 else b.tile * v.pstride + b.row * v.lstride)

/-- Views of a stream operation (R128). -/
def streamFeed (s : State) (c : CoreId) (d : StreamD) : Feed :=
  { lanes := fun i g b =>
      let v := d.view i
      s.lanesAt c v.fmt (v.base b) b.vl g.int fun l =>
        let n := b.laneNo l
        (if v.kind = 1 then 0 else if b.cplx then n / 2 else n, if b.cplx then n % 2 else 0)
    raw := fun i b w e => (let v := d.view i; s.loadCore c (v.base b + w * (if v.kind = 1 then 0 else e)) w)
    kind := fun i => (let k := (d.view i).kind; if k = 0 then 0 else if k = 1 then 1 else 2)
    chain := false }

/-- The sampled register of operand P or Q of stage i (R116). -/
def scalOf (scal : List Dword) (i : Nat) (q : Bool) : Dword := scal.getD (2 * i + (if q then 1 else 0)) 0#64

/-- The words of an operand for the lanes of a beat, in the lane type the stage works in (R115, R116). -/
def operand (f : Feed) (scal : List Dword) (i : Nat) (g : Stage) (q : Bool) (b : Beat) : List (Word × Bool) :=
  let src := if q then g.srcQ else g.srcP
  let w := scalOf scal i q
  if src = 0 then List.replicate b.vl (wOne, false)
  else if src = 1 then
    (List.range b.vl).map fun l => (if g.func = 0xF && l % 2 = 1 then (w >>> 32).setWidth 32 else w.setWidth 32, false)
  else if src ≤ 4 then f.lanes (src - 2) g b
  else
    match (if src = 5 then b.stat0 else b.stat1) with
    | some st => (List.range b.vl).map (st.lane g.int)
    | none => List.replicate b.vl (0#32, false)

/-- The scale of a row-scale operand at a lane, and whether its entry's tag and reserved bits are right (R107). The line index of
an entry is the row of a per-row stream and the element number otherwise, tensor lines starting at a multiple of 16; a scalar is
an FP32 scale (DEDUCED, log 38). -/
def rowScaleAt (f : Feed) (scal : List Dword) (i : Nat) (g : Stage) (q : Bool) (b : Beat) (l : Nat) : FV × Bool :=
  let src := if q then g.srcQ else g.srcP
  if src = 1 then (f32 ((scalOf scal i q).setWidth 32), true)
  else if src = 0 ∨ 4 < src then (.fin false 1 0, true)
  else
    let n := b.laneNo l
    let line := if f.kind (src - 2) = 1 then b.row else n
    let e := f.raw (src - 2) b 4 n
    (decodeFloat fp16F (e % 65536), e / 65536 == line % 16)

/-! ### Stages over a tile -/

/-- What the stages make of a tile: memory may change through the state block; a failed row-scale tag ends the operation. -/
structure TileRun where
  s   : State
  bs  : List Beat
  cvt : Byte := 0#8
  vec : Byte := 0#8
  bad : Bool := false

/-- A stage that works lane by lane. -/
def laneStage (f : Feed) (scal : List Dword) (i : Nat) (g : Stage) (neg : Bool) (b : Beat) : Beat × Byte :=
  let ps := operand f scal i g false b
  let ps := if neg then ps.map fun p => (fneg p.1, p.2) else ps
  let qs := operand f scal i g true b
  if g.func = 0xF then ({ b with lanes := cmulLanes g.conj b.lanes (ps.map (·.1)) }, 0#8)
  else
    let out := b.lanes.mapIdx fun l x =>
      if x.idle then ({ x with v := 0#32 }, false)
      else
        let (p, sp) := ps.getD l (0#32, false)
        let (q, sq) := qs.getD l (0#32, false)
        let (v, sv) := if g.int then intLane g x.v p q else (floatLane g x.v p q, false)
        ({ x with v := v }, sp || sq || sv)
    ({ b with lanes := out.map (·.1) }, flagIf (out.any (·.2)) vIntSat)

/-- RSCALE on a beat; none when a tag fails. -/
def rowScaleStage (f : Feed) (scal : List Dword) (i : Nat) (g : Stage) (b : Beat) : Option Beat :=
  let out := b.lanes.mapIdx fun l x =>
    if x.idle then ({ x with v := 0#32 }, true)
    else
      let (a, oa) := rowScaleAt f scal i g false b l
      let (d, od) := rowScaleAt f scal i g true b l
      ({ x with v := rowScaleLane x.v a d }, oa && od)
  if out.all (·.2) then some { b with lanes := out.map (·.1) } else none

/-- The address of a state block entry (R119). -/
def carryAddr (state : Nat) (slot : Bool) (row seg : Nat) : Nat := state + 4 * (((if slot then 64 else 0) + row) * 32 + seg)

/-- RSUM or RMAX on a beat, with its state block when carry is set (R118, R119). -/
def statStage (s : State) (c : CoreId) (state : Nat) (g : Stage) (b : Beat) : State × Beat × Byte :=
  let st := segStats g.func g.int g.seg b.lanes
  let fl := st.foldl (fun f p => f ||| p.2) 0#8
  let vals := st.map (·.1)
  let (s, vals, fl) :=
    if g.carry then
      let old := (List.range vals.length).map fun j => BitVec.ofNat 32 (s.loadCore c (carryAddr state g.slot b.row j) 4)
      let new := List.zipWith (statOp g.func g.int) old vals
      (s.writeCore c (carryAddr state g.slot b.row 0) (new.flatMap fun p => leBytes 4 p.1.toNat), new.map (·.1),
        fl ||| flagIf (new.any (·.2)) vIntSat)
    else (s, vals, fl)
  let x : Stat := { seg := g.seg, vals := vals, int := g.int }
  (s, if g.slot then { b with stat1 := some x } else { b with stat0 := some x }, fl)

/-- The entry that PERM reads for element e of a vector of one or two beats (R120). -/
def permEnt (f : Feed) (scal : List Dword) (i : Nat) (g : Stage) (b0 b1 : Beat) (e : Nat) : Nat :=
  let m := if g.pair then 2 else 1
  let slot := g.srcP - 2
  if g.sub = 0 then
    (if m * e < b0.vl then f.raw slot b0 2 (b0.laneNo (m * e) / m) else f.raw slot b1 2 (b1.laneNo (m * e - b0.vl) / m))
  else if g.srcP = 1 then bitsOf (scalOf scal i false).toNat 0 16
  else
    let seg := if g.seg = 0 then 1024 else g.seg
    f.raw slot b0 2 (if f.chain then e / seg else b0.laneNo (m * (e / seg * seg)) / m)

/-- PERM over beats, two at a time with span2 (R120, R121). -/
def permStage (f : Feed) (scal : List Dword) (i : Nat) (g : Stage) : List Beat → List Beat × Byte
  | b0 :: b1 :: bs =>
    if g.span2 then
      let ls := b0.lanes ++ b1.lanes
      let (out, fl) := permLanes ls (permSrc g ls.length (permEnt f scal i g b0 b1))
      let (rest, f2) := permStage f scal i g bs
      ({ b0 with lanes := out.take b0.vl } :: { b1 with lanes := out.drop b0.vl } :: rest, fl ||| f2)
    else
      let (out, fl) := permLanes b0.lanes (permSrc g b0.vl (permEnt f scal i g b0 b0))
      let (rest, f2) := permStage f scal i g (b1 :: bs)
      ({ b0 with lanes := out } :: rest, fl ||| f2)
  | [b] =>
    let (out, fl) := permLanes b.lanes (permSrc g b.vl (permEnt f scal i g b b))
    ([{ b with lanes := out }], fl)
  | [] => ([], 0#8)

/-- One stage over the beats of a tile. `neg` subtracts operand P (entry 0x0B). -/
def runStage (c : CoreId) (feed : State → Feed) (scal : List Dword) (state : Nat) (rstep neg : Bool) (i : Nat) (g : Stage)
    (t : TileRun) : TileRun :=
  let ent := t.bs.map fun b => b.enter g.int
  let bs := ent.map (·.1)
  let vec := ent.foldl (fun f p => f ||| p.2) t.vec
  let f := feed t.s
  let t : TileRun :=
    if g.func = 2 then
      let out := bs.map (rowScaleStage f scal i g)
      { t with bs := List.zipWith (fun (o : Option Beat) b => o.getD b) out bs, vec := vec, bad := t.bad || out.any (·.isNone) }
    else if g.func = 0x10 ∨ g.func = 0x11 then
      bs.foldl (fun (a : TileRun) b =>
        let (s, b, fl) := statStage a.s c state g b
        { a with s := s, bs := a.bs ++ [b], vec := a.vec ||| fl }) { t with bs := [], vec := vec }
    else if g.func = 0x12 then
      let (out, fl) := permStage f scal i g bs
      { t with bs := out, vec := vec ||| fl }
    else
      let out := bs.map (laneStage f scal i g neg)
      { t with bs := out.map (·.1), vec := out.foldl (fun f p => f ||| p.2) vec }
  if rstep then
    let rs := t.bs.map (fun b => b.roundStep g.sfmt)
    { t with bs := rs.map (·.1), cvt := rs.foldl (fun f r => f ||| r.2.1) t.cvt, vec := rs.foldl (fun f r => f ||| r.2.2) t.vec }
  else t

/-- Stages i on. `negAt` is the stage whose operand is subtracted. -/
def runStages (c : CoreId) (feed : State → Feed) (scal : List Dword) (state : Nat) (rstep : Bool) (negAt : Option Nat) :
    Nat → List Stage → TileRun → TileRun
  | _, [], t => t
  | i, g :: gs, t => runStages c feed scal state rstep negAt (i + 1) gs (runStage c feed scal state rstep (negAt == some i) i g t)

/-! ### Input beats -/

/-- Highest lane block of a copy-out, and the blocks it fills (R110). -/
def VecIn.blocks (t : VecIn) : Nat := if t.engMask = 0#4 then 1 else t.engMask.toNat.log2 + 1
def VecIn.has (t : VecIn) (e : Nat) : Bool := t.engMask = 0#4 || t.engMask.getLsbD e

def VecIn.cells (t : VecIn) (e : Nat) : Cells 64 × Cells 6 :=
  if t.engMask = 0#4 then (match t.got with | (_, b) :: _ => b | [] => ([], []))
  else match t.got.find? (fun p => p.1 == e) with
    | some (_, b) => b
    | none => ([], [])

/-- Every engine of the copy-out has delivered. -/
def VecIn.ready (t : VecIn) : Bool :=
  if t.engMask = 0#4 then !t.got.isEmpty else (List.range 4).all fun e => !t.engMask.getLsbD e || t.got.any (fun p => p.1 == e)

/-- Lanes of one beat of a copy-out row (R110, R111). -/
def VecIn.lanes (t : VecIn) (row half : Nat) : List Lane :=
  (List.range t.blocks).flatMap fun e =>
    let (bank, idx) := t.cells e
    (List.range 64).map fun k =>
      let j := if t.cplx then 32 * half + k / 2 else k
      if t.has e && decide (j < t.cols) then
        let w := bank.get (row * 64 + j)
        { v := if t.cplx && k % 2 = 1 then (w >>> 32).setWidth 32 else w.setWidth 32,
          idx := if t.withIdx then idx.get (row * 64 + j) else 0#6 }
      else { v := 0#32, idle := true }

/-- The beats of a copy-out tile. -/
def VecIn.beats (t : VecIn) (tile : Nat) : List Beat :=
  t.rows.flatMap fun r => (if t.cplx then [0, 1] else [0]).map fun h =>
    { tile := tile, row := r, half := h, int := t.int, cplx := t.cplx, cout := true, lanes := t.lanes r h }

/-- The beat of a core-memory input row (R124). -/
def memBeat (s : State) (c : CoreId) (i : Strm) (tile row : Nat) : Beat :=
  let cx := fmtComplex i.fmt
  let int := fmtInteger i.fmt
  { tile := tile, row := row, int := int, cplx := cx, cout := false,
    lanes := (s.lanesAt c i.fmt (i.addr + tile * i.tstride + row * i.rstride) i.vl int
      (fun l => if cx then (l / 2, l % 2) else (l, 0))).map fun p => { v := p.1 } }

/-! ### Output (R131, R132) -/

/-- Elements of adjacent lane pairs of a beat, for a complex destination. -/
def pairElems (b : Beat) : Nat → List Lane → List Elem
  | l, x :: y :: ls =>
    (if x.idle || y.idle then [] else [{ col := b.laneNo l / 2, re := laneFV b.int x.v, im := laneFV b.int y.v : Elem }])
      ++ pairElems b (l + 2) ls
  | _, _ => []

/-- Elements that a beat delivers to a destination (R111, R131). -/
def Beat.elems (b : Beat) (cdst : Bool) : List Elem :=
  if cdst then pairElems b 0 b.lanes
  else (b.lanes.mapIdx fun l x => if x.idle then none else some ({ col := b.laneNo l, re := laneFV b.int x.v } : Elem)).filterMap id

/-- Elements renumbered in lane order (R101). -/
def packElems (es : List Elem) : List Elem := es.map fun e => { e with col := es.countP (fun d => decide (d.col < e.col)) }

/-- Join adjacent writes. -/
def joinRuns : List (Nat × List Byte) → List (Nat × List Byte)
  | [] => []
  | (a, bs) :: rest =>
    match joinRuns rest with
    | (b, cs) :: more => if a + bs.length = b then (a, bs ++ cs) :: more else (a, bs) :: (b, cs) :: more
    | [] => [(a, bs)]

/-- Write element codes by column; 4-bit elements are merged into their bytes (R68). -/
def State.putCodes (s : State) (c : CoreId) (fmt base : Nat) (codes : List (Nat × Nat)) : State :=
  if fmtBits fmt = 4 then
    codes.foldl (fun s p =>
      let a := base + p.1 / 2
      let old := s.loadCore c a 1
      s.writeCore c a (leBytes 1 (if p.1 % 2 = 0 then old / 16 * 16 + p.2 % 16 else p.2 % 16 * 16 + old % 16))) s
  else
    let n := fmtBits fmt / 8
    (joinRuns (codes.map fun p => (base + p.1 * n, leBytes n p.2))).foldl (fun s p => s.writeCore c p.1 p.2) s

/-- The seed of the stream on a core (R82); a carrier's graph has seed 0 (log 40). -/
def State.seedOf (s : State) (c : CoreId) : Dword :=
  match s.coreJob c with
  | some j => j.seed
  | none => 0#64

/-- The stochastic draw of a column of row r of tile t (R82, R131). -/
def drawOf (seed : Dword) (o : OutD) (h : List Byte) (t r col : Nat) : Nat :=
  ember seed (BitVec.ofNat 32 (hdTensorId h)) (BitVec.ofNat 64 (o.idxBase + t * o.idxT + r * o.idxR + col))

/-- Write one row of a scaled destination: each group's entry and codes (R99, R100, R132); the padding entries of lines at or beyond the tensor's
are never written (R90). The flags come by column. -/
def writeScaled (c : CoreId) (seed : Dword) (o : OutD) (h : List Byte) (t r : Nat) (es : List Elem) (s : State) :
    State × List (Nat × Byte) :=
  let fmt := hdFmt h
  let g := hdG h
  let line := o.line0 + t * o.dline + r
  let sp := panelOf h o.plane line
  let base := o.addr + t * o.tstride + r * o.rstride
  ((es.map fun e => e.col / g).eraseDups).foldl (fun (a : State × List (Nat × Byte)) q =>
    let (code, codes, fl) := writeGroup fmt sp o.sr o.ovf (drawOf seed o h t r) (es.filter fun e => e.col / g = q)
    let qq := t * o.dgroup + q
    let s := if o.nostore then a.1 else
      (if line < hdLines h then a.1.writeCore c (o.scale + scaleOff o h line qq) (leBytes 2 ((o.group0 + qq) % 16 * 4096 + code)) else a.1).putCodes
        c fmt base codes
    (s, a.2 ++ fl)) (s, [])

/-- Write one row of an unscaled destination. -/
def writePlain (c : CoreId) (seed : Dword) (o : OutD) (h : List Byte) (t r : Nat) (es : List Elem) (s : State) :
    State × List (Nat × Byte) :=
  let fmt := hdFmt h
  let cs := es.map fun e =>
    (e.col, convElem fmt { draw := if o.sr && decide (fmt ≤ 7) then some (drawOf seed o h t r e.col) else none, ovfInf := o.ovf } e.re e.im)
  let s := if o.nostore then s else
    s.putCodes c fmt (o.addr + t * o.tstride + r * o.rstride) (cs.map fun p => (p.1, p.2.code))
  (s, cs.map fun p => (p.1, p.2.flags))

/-- Write one line of a row-scale destination: its entry, with the line's tag, and its codes (R106, R107). The entry of line r lies
4 × (r − line0 rounded down to 64) bytes after scale_addr (DEDUCED, log 38). -/
def writeRowScaled (c : CoreId) (seed : Dword) (o : OutD) (h : List Byte) (t r : Nat) (es : List Elem) (s : State) :
    State × List (Nat × Byte) :=
  let fmt := hdFmt h
  let line := o.line0 + t * o.dline + r
  let (code, codes, fl) := writeRowScale fmt o.sr o.ovf (drawOf seed o h t r) es
  let s := if o.nostore then s else
    (s.writeCore c (o.scale + 4 * (line - o.line0 / 64 * 64)) (leBytes 4 (line % 16 * 65536 + code))).putCodes c fmt
      (o.addr + t * o.tstride + r * o.rstride) codes
  (s, fl)

/-- Write one row of the output; writes of an empty tensor touch no memory (R87). -/
def writeRow (c : CoreId) (seed : Dword) (o : OutD) (h : List Byte) (t r : Nat) (es : List Elem) (s : State) :
    State × List (Nat × Byte) :=
  if hdEmpty h then (s, [])
  else if scaledMode h then writeScaled c seed o h t r es s
  else if hdMode h = 2 then writeRowScaled c seed o h t r es s
  else writePlain c seed o h t r es s

/-- Write the rows of a chain tile: the beats of each row together (R101, R131). -/
def writeBeats (c : CoreId) (seed : Dword) (o : OutD) (h : List Byte) (t : Nat) (bs : List Beat) (s : State) : State × Byte :=
  ((bs.map (·.row)).eraseDups).foldl (fun (a : State × Byte) r =>
    let es := (bs.filter fun b => b.row = r).flatMap (·.elems (fmtComplex (hdFmt h)))
    let es := if scaledMode h then packElems es else es
    let (s, fl) := writeRow c seed o h t r es a.1
    (s, a.2 ||| orFlags fl)) (s, 0#8)

end Sys2Proof.Machine
end

