-- ==== Sys2Proof/Machine/Menu.lean ====
section
/-!
DEFINITION. What the menu entries do beyond their stages (06): gated units, deferred epilogues (R154, R155), attention (R146 to
R153), ADAMW (R156), SQD_LLR (R157), CN_MINPLUS (R158), the write-back of LLR_HARQ, and the tiles of chain and stream operations.
-/
namespace Sys2Proof.Machine

/-- The sfmt that an entry's internal values use (R145). -/
def Chain.sfmt (c : Chain) : Nat := if c.rstep then (match c.stages.getLast? with | some g => g.sfmt | none => 8) else 8

/-- The stages that run on each beat: a deferred entry keeps its last stage for the second pass, MM_GLU gates its own (R155,
Table 6-1). -/
def Chain.runStages (c : Chain) : List Stage :=
  if c.code = 2 ∨ c.code = 4 then c.stages.take 1 else if c.code = 7 then c.stages.take 2 else if c.code = 0xA then [] else c.stages

def scalLo (w : Dword) : Word := w.setWidth 32
def scalHi (w : Dword) : Word := (w >>> 32).setWidth 32

/-! ### 0x04 MM_GLU -/

/-- RNE32(SiLU(gate) × up) on half the lanes (Table 6-1). -/
def gluBeat (sf : Nat) (b : Beat) : Beat × Byte :=
  let n := b.vl / 2
  let out := (List.range n).map fun i =>
    let x := b.lanes.getD i { v := 0#32 }
    let y := b.lanes.getD (n + i) { v := 0#32 }
    if x.idle || y.idle then ({ v := 0#32, idle := true : Lane }, 0#8)
    else
      let (g, f) := roundVal sf (fsilu x.v)
      ({ x with v := fmul g y.v }, f)
  ({ b with lanes := out.map (·.1) }, out.foldl (fun f p => f ||| p.2) 0#8)

/-! ### Deferred epilogues -/

/-- Lanes of a row, in lane order, as FP32; none for idle ones. -/
def rowLanes (bs : List Beat) : List (Option Word) :=
  let n := bs.foldl (fun a b => a + b.vl) 0
  let ls := bs.flatMap fun b => b.lanes.mapIdx fun l x => (b.laneNo l, if x.idle then none else some (if b.int then intToF x.v else x.v))
  (List.range n).map fun k => (ls.find? (fun p => p.1 == k)).bind (·.2)

/-- Hold a tile's outputs (R154): each held value is rounded to the entry's sfmt (Table 6-2). Memory and the flags. -/
def holdTile (c : CoreId) (sf state len q t : Nat) (rows : List (Nat × List (Option Word))) (s : State) : State × Byte :=
  rows.foldl (fun (a : State × Byte) p =>
    let vs := p.2.map fun v => v.map (roundVal sf)
    (a.1.writeCore c (state + 0x4000 + 4 * (p.1 * len + t * q)) (vs.flatMap fun v => leBytes 4 ((v.map (·.1)).getD 0#32).toNat),
      (vs.filterMap id).foldl (fun f v => f ||| v.2) a.2)) (s, 0#8)

/-- The values of a row in the hold buffer, tile by tile; none for idle lanes. -/
def heldRow (s : State) (c : CoreId) (state len q r : Nat) (tiles : List (List Bool)) : List (List (Option Word)) :=
  tiles.mapIdx fun t live => live.mapIdx fun l on =>
    if on then some (BitVec.ofNat 32 (s.loadCore c (state + 0x4000 + 4 * (r * len + t * q + l)) 4)) else none

/-- The tree within each tile, then the tiles in ascending order (R155). -/
def sumTiles (f : Word → Word → Word) (ts : List (List (Option Word))) : Option Word :=
  (ts.map fun t => (tree (fun a b => (f a b, false)) 16 t).1).foldl (fun a v =>
    match a, v with
    | some x, some y => some (f x y)
    | none, y => y
    | x, none => x) none

/-- Each live value by a function of its hold column: the values, and the flags that are set by hold column. -/
def mapTiles (f : Nat → Word → Word × Byte) (q : Nat) (ts : List (List (Option Word))) : List (List (Option Word)) × List (Nat × Byte) :=
  let out := ts.mapIdx fun t ls => ls.mapIdx fun l v => v.map fun x => (t * q + l, f (t * q + l) x)
  (out.map fun ls => ls.map fun v => v.map (·.2.1), (out.flatten.filterMap id).filterMap fun p => if p.2.2 = 0#8 then none else some (p.1, p.2.2))

def countLive (ts : List (List (Option Word))) : Nat := (ts.flatten.filter (·.isSome)).length

/-- Second pass of a row (R155, Table 6-4): new values, the flags of its statistics (conversion, vector), which belong to the whole row, and the
conversion flags of its elements by hold column (R80). `gain` and `bias` read a hold column. -/
def secondRow (code sf q : Nat) (eps : Word) (gain bias : Nat → Word) (ts : List (List (Option Word))) :
    List (List (Option Word)) × Byte × Byte × List (Nat × Byte) :=
  let n := rne32 (FV.ofInt (countLive ts))
  if countLive ts = 0 then (ts, 0#8, vStatEmpty, [])
  else if code = 2 then
    let (sq, _) := mapTiles (fun _ x => (fmul x x, 0#8)) q ts
    let (sum, f1) := roundVal sf ((sumTiles fadd sq).getD 0#32)
    let (r, f2) := roundVal sf (frsqrt (fadd (fdiv sum n) eps))
    let (ys, f3) := mapTiles (fun c x => roundVal sf (fmul (fmul x r) (gain c))) q ts
    (ys, f1 ||| f2, 0#8, f3)
  else if code = 7 then
    let (mu, f1) := roundVal sf (fdiv ((sumTiles fadd ts).getD 0#32) n)
    let (ds, _) := mapTiles (fun _ x => (fsub x mu, 0#8)) q ts
    let (sq, _) := mapTiles (fun _ x => (fmul x x, 0#8)) q ds
    let (var, f3) := roundVal sf (fdiv ((sumTiles fadd sq).getD 0#32) n)
    let (r, f4) := roundVal sf (frsqrt (fadd var eps))
    let (ys, f5) := mapTiles (fun c x => roundVal sf (ffma (fmul x r) (gain c) (bias c))) q ds
    (ys, f1 ||| f3 ||| f4, 0#8, f5)
  else
    let vals := ts.flatten.filterMap id
    let alive := ts.map fun ls => ls.map fun v => v.bind fun x => if x = wNegInf then none else some x
    let live := vals.filter (· ≠ wNegInf)
    let all := fun (f : Word → Word) => (mapTiles (fun _ x => (f x, 0#8)) q ts).1
    if live.any fIsNan then (all (fun _ => wNan), fNan, 0#8, [])
    else if live.isEmpty then (all (fun _ => 0#32), 0#8, vStatEmpty, [])
    else if live.contains wInf then
      let w := fdiv wOne (rne32 (FV.ofInt (live.count wInf)))
      (all (fun x => if x = wInf then w else 0#32), 0#8, 0#8, [])
    else
      let (m, f1) := roundVal sf ((sumTiles fmax alive).getD 0#32)
      let (es, _) := mapTiles (fun _ x => (fexp (fsub x m), 0#8)) q alive
      let (sum, f2) := roundVal sf ((sumTiles fadd es).getD 0#32)
      (all (fun x => if x = wNegInf then 0#32 else fdiv (fexp (fsub x m)) sum), f1 ||| f2, 0#8, [])

/-- Elements of a row from values by hold column. -/
def colElems (cdst : Bool) (vs : List (Nat × Word)) : List Elem :=
  if cdst then
    (vs.filter fun p => p.1 % 2 = 0).filterMap fun p =>
      (vs.find? fun r => r.1 == p.1 + 1).map fun r => { col := p.1 / 2, re := f32 p.2, im := f32 r.2 : Elem }
  else vs.map fun p => { col := p.1, re := f32 p.2 }

/-- The lanes of a tile: those it was held with, or every column of its step where no operation on this state block held it (log 84). -/
def shapeOf (shapes : List (Nat × List Nat × List Bool)) (q t : Nat) : List Bool :=
  match shapes.find? (fun p => p.1 == t) with
  | some p => p.2.2
  | none => List.replicate q true

/-- The second pass over a panel (R154): memory, flags of the statistics, and flags of the elements by hold column. -/
def secondPass (c : CoreId) (ch : Chain) (h : List Byte) (seed : Dword) (scal : List Dword) (shapes : List (Nat × List Nat × List Bool))
    (s : State) : State × Byte × Byte × List (Nat × Byte) :=
  let len := hdLength h
  let q := holdStep ch h
  let tiles := (List.range ch.count).map (shapeOf shapes q)
  let cx := if fmtComplex (hdFmt h) then 2 else 1
  let rows := (shapes.flatMap (·.2.1)).eraseDups
  let eps := scalLo (scalOf scal 1 true)
  let elem := fun (st : Strm) k => rne32 (laneOfCode st.fmt (s.elemCode c st.fmt st.addr k) 0)
  let gain := if ch.code = 2 then elem ch.s0 else elem ch.s1
  rows.foldl (fun (a : State × Byte × Byte × List (Nat × Byte)) r =>
    let (ys, cf, vf, ef) := secondRow ch.code ch.sfmt q eps gain (elem ch.s2) (heldRow s c ch.state len q r tiles)
    let vals := (ys.mapIdx fun t ls => (ls.mapIdx fun l v => v.map fun x => (t * q + l, x)).filterMap id).flatten
    let (s', fl) := if vals.isEmpty then (a.1, []) else writeRow c seed ch.out h 0 r (colElems (fmtComplex (hdFmt h)) vals) a.1
    (s', a.2.1 ||| cf, a.2.2.1 ||| vf, a.2.2.2 ++ ef ++ fl.map fun p => (p.1 * cx, p.2))) (s, 0#8, 0#8, [])

/-! ### Attention (R146 to R153) -/

def attnP (ch : Chain) : Nat := ch.state + 0x800 + 256 * ch.dh
def attnVw (ch : Chain) : Nat := attnP ch + 8192 * ch.ns
def bf16Of (v : Word) : Nat := (convFloat bf16F false {} (f32 v)).code
def bf16Word (k : Nat) : Word := BitVec.ofNat 32 (k * 65536)

/-- A lane of the block is masked for a row (R146). -/
def attnMasked (s : State) (c : CoreId) (ch : Chain) (scal : List Dword) (t row lane : Nat) : Bool :=
  let mode := (ch.stage 1).sub
  let pos := scalOf scal 1 true
  if mode = 1 then decide ((scalLo pos).toNat + row < (scalHi pos).toNat + 64 * ch.ns * t + lane)
  else if mode = 2 then s.loadCore c (ch.s0.addr + t * ch.s0.tstride + row * ch.s0.rstride + lane) 1 ≠ 0
  else false

/-- Registers and per-row words of the state block. -/
def attnWord (s : State) (c : CoreId) (ch : Chain) (off row : Nat) : Word := BitVec.ofNat 32 (s.loadCore c (ch.state + off + 4 * row) 4)

/-- What R150 makes of one row before the PV tiles: m_p, α, p (BF16 codes; none at idle lanes), row flags. A NaN governs the whole row, so it
takes row_inf back (R153, Table 6-6). -/
def attnRow (m : Word) (flag : Nat) (ls : List (Option Word × Bool)) : Word × Word × List (Option Nat) × Nat :=
  let live := ls.map fun p => p.1.bind fun x => if p.2 || x = wNegInf then none else some x
  let nan := (live.filterMap id).any fIsNan
  let flag := if nan then flag % 2 + 2 else flag
  let zero := ls.map fun p => p.1.map fun _ => 0
  if flag / 2 % 2 = 1 then (m, wOne, zero, flag)
  else
    let mb := (tree (fun a b => (fmax a b, false)) 16 live).1.getD wNegInf
    let mp := fmax m mb
    if mp = wNegInf then (mp, wOne, zero, flag)
    else if mp = wInf then
      (mp, if m = wInf then wOne else 0#32, List.zipWith (fun p (v : Option Word) => p.1.map fun _ => if v = some wInf then 0x3F80 else 0) ls live,
        if flag / 4 % 2 = 0 then flag + 4 else flag)
    else
      (mp, fexp (fsub m mp), List.zipWith (fun p (v : Option Word) => p.1.map fun _ =>
        match v with | some x => bf16Of (fexp (fsub x mp)) | none => 0) ls live, flag)

/-- V of key k in BF16 (R148): dh codes; zero lines for keys that no delivered row uses. -/
def attnV (s : State) (c : CoreId) (ch : Chain) (t key : Nat) (used : Bool) : List Nat :=
  let base := ch.s1.addr + t * ch.s1.tstride + key * ch.s1.rstride
  let q := ch.dh / 32
  (List.range ch.dh).map fun d =>
    if !used then 0
    else
      let v := laneOfCode ch.s1.fmt (s.elemCode c ch.s1.fmt base d) 0
      let x := if ch.code = 5 then
          v.mul (scaleValue (s.loadCore c (ch.s2.addr + t * ch.s2.tstride + 2 * ((key / 64 * q + d / 32) * 64 + key % 64)) 2))
        else v
      (convFloat bf16F false {} x).code

/-- Every V scale entry of the block carries its group's tag (R148, R94). -/
def attnTagsOk (s : State) (c : CoreId) (ch : Chain) (t : Nat) : Bool :=
  let q := ch.dh / 32
  ch.code != 5 || (List.range (ch.ns * q)).all fun b =>
    (List.range 64).all fun i =>
      entryOk (BitVec.ofNat 4 (b % q)) (s.loadCore c (ch.s2.addr + t * ch.s2.tstride + 2 * (b * 64 + i)) 2)

/-- Row mask of delivered rows. -/
def rowMask (rows : List Nat) : Dword := rows.foldl (fun m r => m ||| (1#64 <<< r)) 0#64

/-- The internal commands of one PV engine: P into the A buffer, the V rows behind those that the B FIFO holds, which the tile takes first
(R38), the tile, its capture (R147). Rows of another format are read as BF16: the model's reading (log 86). -/
def pvEngine (x : Ctx) (copy v : Nat) (ch : Chain) (rows : List Nat) (pBytes : List Byte) (vw : List (List Nat)) : Engine :=
  let g := x.engine v
  let k := 64 * ch.ns
  let rho := v - ch.ns
  let w : CmdWord := BitVec.ofNat 128 (0x12 + 6 * 2 ^ 104 + 6 * 2 ^ 100 + k * 2 ^ 84 + 64 * 2 ^ 77 + 64 * 2 ^ 70)
  let q : EngCmd := { serial := 0, w := w, half := 0#2, mask := rowMask rows, copy := copy }
  let cols := (List.range k).map fun i => (pBytes.drop (128 * i)).take 128
  let fifo := g.lo.fifo ++ vw.map fun line => { fmt := 6#4, bytes := ((line.drop (64 * rho)).take 64).flatMap fun e => leBytes 2 e : BRow }
  let r := g.copy copy
  let out := runTile (tileOpOf w 0) 0#2 64 64 q.mask cols ((fifo.take k).map (·.bytes)) (fun _ _ => []) r.acc r.idx
  let g := { g with aBuf := g.aBuf.splice 0 pBytes, aFmt := g.aFmt.splice 0 (List.replicate (2 * k) 7#5),
                    lo := { g.lo with mode := 0#3, pair := 0x66#8, grp := false, seen := true, fifo := fifo.drop k,
                                      avail := takeRows k (g.lo.avail ++ [(6#4, k)]) } }
  (g.unvoid 0#2).modCopy copy (captureTile q out)

/-- One block of an attention operation (R148 to R151); none when a V scale tag fails. `rows`: beats of the delivered rows after the
template stages. -/
def attnBlock (c : CoreId) (ch : Chain) (scal : List Dword) (backed t : Nat) (bs : List Beat) (s : State) : Option (State × Byte) :=
  if !attnTagsOk s c ch t then none
  else
    let k := 64 * ch.ns
    let sf := ch.sfmt
    let rows := bs.map (·.row)
    let masked := bs.map fun b => (b.row, (List.range k).map fun l => attnMasked s c ch scal t b.row l)
    let res := List.zipWith (fun (b : Beat) (mk : Nat × List Bool) =>
      let ls := List.zipWith (fun (x : Lane) m => ((if x.idle then none else some x.v : Option Word), m)) b.lanes mk.2
      let (mp, al, p, fl) := attnRow (attnWord s c ch 0 b.row) (s.loadCore c (ch.state + 0x400 + b.row) 1) ls
      let (mp, f1) := roundVal sf mp
      let (al, f2) := roundVal sf al
      (b.row, mp, al, p, fl, f1 ||| f2)) bs masked
    -- the P buffer: element (row, key) at 128 key + 2 row
    let s := res.foldl (fun (s : State) r =>
      let s := ((s.writeCore c (ch.state + 0x200 + 4 * r.1) (leBytes 4 r.2.1.toNat)).writeCore c (ch.state + 0x300 + 4 * r.1)
        (leBytes 4 r.2.2.1.toNat)).writeCore c (ch.state + 0x400 + r.1) (leBytes 1 r.2.2.2.2.1)
      (List.range k).foldl (fun s l => s.writeCore c (attnP ch + 128 * l + 2 * r.1) (leBytes 2 ((r.2.2.2.1.getD l none).getD 0))) s) s
    let used := fun l => (List.zip bs masked).any fun p => !(p.1.lanes.getD l { v := 0#32, idle := true }).idle && !(p.2.2.getD l true)
    let vw := (List.range k).map fun l => attnV s c ch t l (used l)
    let s := s.writeCore c (attnVw ch) (vw.flatMap fun line => line.flatMap fun e => leBytes 2 e)
    let pBytes := s.readCore c (attnP ch) (128 * k)
    let x := s.ctx c
    let x := { x with run := x.run + 1 }
    let pv := (List.range 4).filter (fun v => decide (ch.ns ≤ v))
    let x := pv.foldl (fun x v => x.setEngine v (pvEngine x (runCopy backed v x.run) v ch rows pBytes vw)) x
    let s := s.setCtx c x
    let out := res.foldl (fun (a : State × Byte) r =>
      let row := r.1
      let al := r.2.2.1
      let sum := (tree (fun a b => (fadd a b, false)) 16 (r.2.2.2.1.map fun p => p.map bf16Word)).1.getD 0#32
      let (l, fl) := roundVal sf (ffma al (attnWord a.1 c ch 0x100 row) sum)
      let os := (List.range ch.dh).map fun d =>
        let v := ch.ns + d / 64
        let part := ((((x.engine v).copy (runCopy backed v x.run)).bank.get (row * 64 + d % 64))).setWidth 32
        let o := BitVec.ofNat 32 (a.1.loadCore c (ch.state + 0x800 + 4 * (ch.dh * row + d)) 4)
        roundVal sf (ffma al o part)
      let s := ((a.1.writeCore c (ch.state + 0x100 + 4 * row) (leBytes 4 l.toNat)).writeCore c (ch.state + 0x800 + 4 * ch.dh * row)
        (os.flatMap fun p => leBytes 4 p.1.toNat)).writeCore c (ch.state + 4 * row) (leBytes 4 r.2.1.toNat)
      (s, os.foldl (fun f p => f ||| p.2) (a.2 ||| fl ||| r.2.2.2.2.2))) (s, 0#8)
    some out

/-- Set m, l, O and the row flags at the start of an operation (R149). -/
def attnInit (c : CoreId) (ch : Chain) (s : State) : State :=
  let s := s.writeCore c ch.state ((List.replicate 64 (leBytes 4 wNegInf.toNat)).flatten ++ List.replicate 256 0#8)
  let s := s.writeCore c (ch.state + 0x400) (List.replicate 64 0#8)
  s.writeCore c (ch.state + 0x800) (List.replicate (256 * ch.dh) 0#8)

/-- The output rows of an attention operation (R152): memory, conversion flags, whether a row was empty. -/
def attnFinish (c : CoreId) (ch : Chain) (h : List Byte) (seed : Dword) (scal : List Dword) (rows : List Nat) (s : State) :
    State × Byte × Bool :=
  let spv := scalHi (scalOf scal 0 false)
  rows.foldl (fun (a : State × Byte × Bool) r =>
    let flag := s.loadCore c (ch.state + 0x400 + r) 1
    let l := attnWord s c ch 0x100 r
    let nan := flag / 2 % 2 = 1
    let empty := !nan && (f32 l).isZero
    let vals := (List.range ch.dh).map fun d =>
      if nan then (wNan, 0#8) else if empty then (0#32, 0#8)
      else
        let o := BitVec.ofNat 32 (s.loadCore c (ch.state + 0x800 + 4 * (ch.dh * r + d)) 4)
        let (x, f) := roundVal ch.sfmt (fdiv o l)
        (fmul x spv, f)
    let (s', fl) := writeRow c seed ch.out h 0 r (colElems (fmtComplex (hdFmt h)) (vals.mapIdx fun d p => (d, p.1))) a.1
    let s' := if empty && flag % 2 = 0 then s'.writeCore c (ch.state + 0x400 + r) (leBytes 1 (flag + 1)) else s'
    (s', vals.foldl (fun f p => f ||| p.2) (a.2.1 ||| orFlags fl), a.2.2 || empty)) (s, 0#8, false)

/-! ### 0x0A ADAMW -/

/-- One lane of R156: new m, v, w and flags. Each line rounds once, its inner products and sums exact (DEDUCED, log 85); the square root is
correctly rounded, and the line of w rounds each of its operations. -/
def adamLane (sf : Nat) (scal : List Dword) (g m v w : Word) : Word × Word × Word × Byte :=
  let p := fun i q hi => if hi then scalHi (scalOf scal i q) else scalLo (scalOf scal i q)
  let line := fun (a b x y : Word) (z : FV) => rne32 (((f32 a).mul (f32 b)).add (((f32 x).mul (f32 y)).mul z))
  let (m, f1) := roundVal sf (line (p 0 false false) m (p 0 false true) g (FV.ofInt 1))
  let (v, f2) := roundVal sf (line (p 0 true false) v (p 0 true true) g (f32 g))
  let (mh, f3) := roundVal sf (fmul m (p 1 false false))
  let (vh, f4) := roundVal sf (fmul v (p 1 false true))
  let (d, f5) := roundVal sf (fvDiv32 (f32 mh) ((f32 (fsqrt vh)).add (f32 (p 1 true false))))
  let (w, f6) := roundVal sf (fsub w (fmul (p 1 true true) (fadd d (fmul (p 2 false false) w))))
  (m, v, w, f1 ||| f2 ||| f3 ||| f4 ||| f5 ||| f6)

/-- Write FP32 lanes of a beat back to a per-lane stream. -/
def writeLanes (c : CoreId) (t : Strm) (b : Beat) (vs : List Word) (s : State) : State :=
  (joinRuns (vs.mapIdx fun l v => (t.base b + 4 * b.laneNo l, leBytes 4 v.toNat))).foldl (fun s p => s.writeCore c p.1 p.2) s

/-- A beat of gradients (R156): memory, the beat of new weights, flags. -/
def adamBeat (c : CoreId) (ch : Chain) (scal : List Dword) (b : Beat) (s : State) : State × Beat × Byte :=
  let b := (b.enter false).1
  let get := fun (t : Strm) => (List.range b.vl).map fun l => BitVec.ofNat 32 (s.elemCode c 8 (t.base b) (b.laneNo l))
  let ws := get ch.s0
  let ms := get ch.s1
  let vs := get ch.s2
  let out := b.lanes.mapIdx fun l x => adamLane ch.sfmt scal x.v (ms.getD l 0#32) (vs.getD l 0#32) (ws.getD l 0#32)
  let s := writeLanes c ch.s1 b (out.map (·.1)) s
  let s := writeLanes c ch.s2 b (out.map (·.2.1)) s
  let s := writeLanes c ch.s0 b (out.map (·.2.2.1)) s
  (s, { b with lanes := out.map fun o => { v := o.2.2.1 } }, out.foldl (fun f o => f ||| o.2.2.2) 0#8)

/-! ### 0x0E SQD_LLR, 0x0F CN_MINPLUS, 0x10 LLR_HARQ -/

/-- The LLRs of a row from its real lanes (R157). -/
def sqdRow (sf points : Nat) (bs : List Beat) : List (Word × Byte) :=
  let ls := rowLanes bs
  let dist := fun j => (ls.getD (2 * j) none).getD wInf
  let q := points.log2
  (List.range q).map fun b =>
    let best := fun v => (((List.range points).filter fun j => j / 2 ^ (q - 1 - b) % 2 = v).map dist).foldl fmin wInf
    let (m0, f0) := roundVal sf (best 0)
    let (m1, f1) := roundVal sf (best 1)
    (fsub m1 m0, f0 ||| f1)

/-- Points of an SQD_LLR copy-out: columns of its engines. -/
def sqdPoints (t : VecIn) : Nat := if t.engMask = 15#4 then 4 * t.cols else t.cols

/-- The pair of tiles 2c and 2c + 1 (R158): v1 held in the state block, then CI8 elements and the index of v1. -/
def cnPair (c : CoreId) (ch : Chain) (h : List Byte) (seed : Dword) (t : Nat) (b1 b2 : List Beat) (s : State) : State × Byte :=
  let sf := ch.sfmt
  let s := b1.foldl (fun s b => (b.lanes.mapIdx fun l x => (l, x)).foldl (fun s p =>
    if p.2.idle then s else s.writeCore c (ch.state + 4 * (64 * p.1 + b.row)) (leBytes 4 (roundVal sf p.2.v).1.toNat)) s) s
  b2.foldl (fun (a : State × Byte) b =>
    let first := b1.find? (fun x => x.row == b.row)
    let es := (b.lanes.mapIdx fun l x => (l, x)).filterMap fun p =>
      if p.2.idle then none
      else some ({ col := b.laneNo p.1, re := f32 (BitVec.ofNat 32 (s.loadCore c (ch.state + 4 * (64 * p.1 + b.row)) 4)),
                   im := f32 (roundVal sf p.2.v).1 } : Elem)
    let (s, fl) := writeRow c seed ch.out h (t + 1) b.row (if scaledMode h then packElems es else es) a.1
    let base := ch.s2.addr + (t + 1) * ch.s2.tstride + b.row * ch.s2.rstride
    let s := match first with
      | none => s
      | some x => (x.lanes.mapIdx fun l y => (l, y)).foldl (fun s p =>
          if p.2.idle then s else s.writeCore c (base + b.laneNo p.1) (leBytes 1 p.2.idx.toNat)) s
    (s, a.2 ||| orFlags fl)) (s, 0#8)

/-- Write each result of LLR_HARQ back to its stream 0 element (Table 6-1). -/
def harqBack (c : CoreId) (ch : Chain) (bs : List Beat) (s : State) : State × Byte :=
  bs.foldl (fun (a : State × Byte) b =>
    let cs := (b.lanes.mapIdx fun l x => (b.laneNo l, x)).filterMap fun p =>
      if p.2.idle then none else some (if ch.s0.kind = 1 then 0 else p.1, convReal ch.s0.fmt {} (laneFV b.int p.2.v))
    (a.1.putCodes c ch.s0.fmt (ch.s0.base b) (cs.map fun p => (p.1, p.2.code)), cs.foldl (fun f p => f ||| p.2.flags) a.2)) (s, 0#8)

/-! ### Records -/

/-- One record of a vector operation: its flag bytes enter VE_FLAGS (R133). -/
def State.vecRecord (s : State) (c : CoreId) (w : CmdWord) (ordinal : Nat) (last : Bool) (st : Half) (cvt vec : Byte) : State :=
  let s := s.modCtx c fun x => { x with veFlags := veOr x.veFlags (cvt &&& 7#8) (vec &&& 7#8) }
  s.complete c w { recVec c with status := st, final := last, ordinal := ordinal, cvt := cvt, vec := vec }

/-- An operation leaves the vector engine: its pegs and its DMA channel are free (R136, R160). -/
def State.dropVec (s : State) (c : CoreId) (serial : Nat) : State :=
  s.modCtx c fun x => ({ x with
    vec := x.vec.filter fun o => o.serial != serial
    chans := vmap x.chans fun (h : Channel) => if h.holder == some serial then { h with holder := none } else h }).dropPegs serial

/-- Change the operation that runs. -/
def State.modVec (s : State) (c : CoreId) (serial : Nat) (f : VecOp → VecOp) : State :=
  s.modCtx c fun x => { x with vec := x.vec.map fun o => if o.serial = serial then f o else o }

/-- Settle the head of the queue: VEC_FLAGS completes there (R134, R141), and an operation whose next tile was cancelled ends with
the abort's status, tiles held for its second pass reported before it and its sends made (R141); half of a pair (R158) ends with it. -/
def State.settleVec (c : CoreId) : Nat → State → State
  | 0, s => s
  | fuel + 1, s =>
    match (s.ctx c).vec with
    | [] => s
    | v :: _ =>
      if opcodeOf v.w = 0x32 then
        let ve := (s.ctx c).veFlags
        let s := s.modCtx c fun x =>
          let x := x.setSreg (flagsSreg v.w) ((ve &&& 0xFFFF#32).setWidth 64)
          if flagsClear v.w then { x with veFlags := 0#32 } else x
        State.settleVec c fuel ((s.dropVec c v.serial).complete c v.w (recVec c))
      else
        match v.abort with
        | none => s
        | some st =>
          if !v.sends.isEmpty || !(v.inputs.isEmpty || (fieldAt v.blk 0 1 == 0xF && v.inputs.length == 1)) then s
          else
            let n := v.tileFlags.length
            let s := (v.tileFlags.mapIdx fun i p => (v.next - n + i, p)).foldl (fun s p => s.vecRecord c v.w p.1 false stOk p.2.1 p.2.2) s
            State.settleVec c fuel ((s.dropVec c v.serial).vecRecord c v.w v.next true st 0#8 0#8)

/-! ### Tiles of a chain -/

/-- Entries of the state block set at the start of an operation with sinit (R119): all of a slot's. -/
def initCarry (c : CoreId) (ch : Chain) (s : State) : State :=
  ch.stages.foldl (fun s g =>
    if g.carry ∧ (g.func = 0x10 ∨ g.func = 0x11) then
      s.writeCore c (carryAddr ch.state g.slot 0 0) ((List.replicate 2048 (leBytes 4 (statUnit g.func g.int).toNat)).flatten)
    else s) s

/-- The outcome of a tile: memory, flags, and a status other than ST_OK when the operation ends here. -/
structure TileEnd where
  s   : State
  cvt : Byte := 0#8
  vec : Byte := 0#8
  st  : Half := stOk

/-- The work of one tile of a chain, but for deferred passes, sends and records. -/
def chainTile (c : CoreId) (v : VecOp) (ch : Chain) (bs : List Beat) (t : Nat) (points : Nat) (rows : List Nat) (s : State) : TileEnd :=
  let h := v.hdr
  let seed := s.seedOf c
  let first := t = cbits v.w 90 16 && t = 0 && ch.sinit
  let s := if first then (if isAttn ch.code then attnInit c ch s else initCarry c ch s) else s
  let run := runStages c (fun s => chainFeed s c ch) v.scal ch.state ch.rstep (if ch.code = 0xB then some 1 else none) 0 ch.runStages
    { s := s, bs := bs }
  if run.bad then { s := s, st := stScaleSkew }
  else if isAttn ch.code then
    match attnBlock c ch v.scal (s.backed c) t run.bs run.s with
    | none => { s := s, st := stScaleSkew }
    | some (s, cf) =>
      if t + 1 = ch.count then
        let (s, cf2, empty) := attnFinish c ch h seed v.scal ((v.shapes.flatMap (·.2.1) ++ rows).eraseDups) s
        { s := s, cvt := run.cvt ||| cf ||| cf2, vec := run.vec ||| flagIf empty vStatEmpty }
      else { s := s, cvt := run.cvt ||| cf, vec := run.vec }
  else if isDefer ch.code then
    let hr := ((run.bs.map (·.row)).eraseDups).map fun r => (r, rowLanes (run.bs.filter fun b => b.row = r))
    let (s, cf) := holdTile c ch.sfmt ch.state (hdLength h) (holdStep ch h) t hr run.s
    { s := s, cvt := run.cvt ||| cf, vec := run.vec }
  else if ch.code = 0xE then
    let out := ((run.bs.map (·.row)).eraseDups).foldl (fun (a : State × Byte) r =>
      let ls := sqdRow ch.sfmt points (run.bs.filter fun b => b.row = r)
      let (s, fl) := writeRow c seed ch.out h t r (colElems (fmtComplex (hdFmt h)) (ls.mapIdx fun i p => (i, p.1))) a.1
      (s, ls.foldl (fun f p => f ||| p.2) (a.2 ||| orFlags fl))) (run.s, 0#8)
    { s := out.1, cvt := run.cvt ||| out.2, vec := run.vec }
  else
    let (s, bs, cf) :=
      if ch.code = 4 then (let o := run.bs.map (gluBeat ch.sfmt); (run.s, o.map (·.1), o.foldl (fun f p => f ||| p.2) 0#8))
      else if ch.code = 0xA then
        run.bs.foldl (fun (a : State × List Beat × Byte) b =>
          let (s, b, f) := adamBeat c ch v.scal b a.1
          (s, a.2.1 ++ [b], a.2.2 ||| f)) (run.s, [], 0#8)
      else (run.s, run.bs, 0#8)
    let (s, f2) := writeBeats c seed ch.out h t bs s
    let (s, f3) := if ch.code = 0x10 then harqBack c ch bs s else (s, 0#8)
    { s := s, cvt := run.cvt ||| cf ||| f2 ||| f3, vec := run.vec }

/-- Rows and live lanes of a tile, for the passes that come after (R154, R152). -/
def shapeFor (t : Nat) (bs : List Beat) : Nat × List Nat × List Bool :=
  let rows := (bs.map (·.row)).eraseDups
  (t, rows, match rows with
    | r :: _ => (rowLanes (bs.filter fun b => b.row = r)).map (·.isSome)
    | [] => [])

/-- The inputs that the next tile of a chain needs are there. -/
def chainReady (v : VecOp) (ch : Chain) : Bool :=
  if ch.src then true
  else if ch.code = 0xF then
    match v.inputs with
    | a :: b :: _ => a.ready && b.ready
    | _ => false
  else
    match v.inputs with
    | a :: _ => a.ready
    | [] => false

/-- What a finished tile of a send entry has to send (R159): from where to where, and its bytes, which end with core memory. -/
def sendTileOf (ch : Chain) (rows t : Nat) (cvt vec : Byte) : SendTile :=
  let d := ch.s2.raw
  let src := ch.out.addr + t * ch.out.tstride
  { ordinal := t, dst := peerDst d + t * peerStride d + (if ch.code = 0x14 then peerRank d * peerSlot d else 0), src := src,
    len := min (rows * ch.out.rstride) (0x400000 - src), cvt := cvt, vec := vec }

/-- Keep what a tile left in a state block (R138, R154). -/
def Ctx.keepPanel (x : Ctx) (state : Nat) (shape : Nat × List Nat × List Bool) : Ctx :=
  { x with panels := x.panels.filter (fun p => !(p.state == state && p.tile == shape.1))
      ++ [{ state := state, tile := shape.1, rows := shape.2.1, lanes := shape.2.2 }] }

/-- The tiles before `first` that a state block holds. -/
def Ctx.heldTiles (x : Ctx) (state first : Nat) : List (Nat × List Nat × List Bool) :=
  (x.panels.filter fun p => p.state == state && decide (p.tile < first)).map fun p => (p.tile, p.rows, p.lanes)

/-- No input of a copy-out. -/
def VecIn.none : VecIn := { serial := 0, engMask := 0#4, rows := [], cols := 0, cplx := false, int := false, withIdx := false }

/-- The PV engines of an attention operation still run earlier commands (R147). -/
def Ctx.pvBusy (x : Ctx) (ch : Chain) : Bool := isAttn ch.code && (List.range 4).any fun e => decide (ch.ns ≤ e) && !x.engIdle e

/-- The next tile of a chain operation can be formed: its inputs are there, its PV engines free, and its output range read by the transfer of
the tile before when both stand at one place (R124, R147, R160). -/
def chainGoes (x : Ctx) (v : VecOp) (ch : Chain) : Bool :=
  decide (v.next < ch.count) && chainReady v ch && !x.pvBusy ch && (ch.out.tstride != 0 || v.sends.all fun t => t.msgs.isSome)

/-- The tile of the running chain operation completes; a tile of a send entry is written, and its transfer is still to come. None while the
tile cannot be formed. -/
def State.chainStep (s : State) (c : CoreId) (v : VecOp) : Option State :=
  let ch := chainOf v.blk
  let t := v.next
  if !chainGoes (s.ctx c) v ch then none
  else if ch.code = 0xF then
    match v.inputs with
    | a :: b :: rest =>
      let feed := fun s => chainFeed s c ch
      let r1 := runStages c feed v.scal ch.state ch.rstep none 0 ch.stages { s := s, bs := a.beats t }
      let r2 := runStages c feed v.scal ch.state ch.rstep none 0 ch.stages { s := r1.s, bs := b.beats (t + 1) }
      let (s, fl) := cnPair c ch v.hdr (s.seedOf c) t r1.bs r2.bs r2.s
      let s := s.modVec c v.serial fun o => { o with inputs := rest, next := t + 2 }
      let last := decide (ch.count ≤ t + 2)
      let s := if last then s.dropVec c v.serial else s
      some ((s.vecRecord c v.w t false stOk r1.cvt r1.vec).vecRecord c v.w (t + 1) last stOk (r2.cvt ||| fl) r2.vec)
    | _ => none
  else
    let inp := v.inputs.headD VecIn.none
    let bs := if ch.src then (List.range ch.input.rows).map (memBeat s c ch.input t) else inp.beats t
    let rows := if ch.src then List.range ch.input.rows else inp.rows
    let shape := shapeFor t bs
    let e := chainTile c v ch bs t (sqdPoints inp) rows s
    let last := decide (ch.count ≤ t + 1)
    if e.st != stOk then
      let s := (e.s.dropVec c v.serial).vecRecord c v.w t true e.st 0#8 0#8
      some (s.stopStream c e.st)
    else
      let keep := isAttn ch.code || isDefer ch.code
      let s := e.s.modVec c v.serial fun o =>
        { o with inputs := o.inputs.drop 1, next := t + 1, shapes := if keep then o.shapes ++ [shape] else o.shapes }
      let s := if keep then s.modCtx c fun x => x.keepPanel ch.state shape else s
      if isDefer ch.code then
        let held := v.tileFlags ++ [(e.cvt, e.vec)]
        if last then
          let (s, cf, vf, cols) := secondPass c ch v.hdr (s.seedOf c) v.scal (v.shapes ++ [shape]) s
          let q := holdStep ch v.hdr
          let first := t + 1 - held.length
          let of := fun k => (cols.filter fun p => (if q = 0 then t else min t (p.1 / q)) = k).foldl (fun f p => f ||| p.2) 0#8
          let s := s.dropVec c v.serial
          some ((held.mapIdx fun i p => (first + i, p)).foldl (fun s p =>
            s.vecRecord c v.w p.1 (p.1 = t) stOk (p.2.1 ||| cf ||| of p.1) (p.2.2 ||| vf)) s)
        else some (s.modVec c v.serial fun o => { o with tileFlags := held })
      else if isSend ch.code then
        some (s.modVec c v.serial fun o => { o with sends := o.sends ++ [sendTileOf ch (rows.foldl (fun n r => max n (r + 1)) 0) t e.cvt e.vec] })
      else
        let s := if last then s.dropVec c v.serial else s
        some (s.vecRecord c v.w t last stOk e.cvt e.vec)

/-! ### Tiles of a stream operation (R129, R130) -/

/-- Lanes of a beat of a stream operation. -/
def beatLanesOf (h : List Byte) : Nat :=
  if scaledMode h then
    let per := hdG h * (if fmtComplex (hdFmt h) then 2 else 1)
    max per (256 / per * per)
  else 256

/-- The beats of one line. -/
def StreamD.beats (s : State) (c : CoreId) (d : StreamD) (h : List Byte) (n r : Nat) : List Beat :=
  let cx := fmtComplex d.vx.fmt
  let lanes := d.length * (if cx then 2 else 1)
  let per := beatLanesOf h
  (List.range (ceilDiv lanes per)).map fun k =>
    let b : Beat := { tile := n, row := r, off := k * per, int := fmtInteger d.vx.fmt, cplx := cx, cout := false, lanes := [] }
    { b with lanes := (s.lanesAt c d.vx.fmt (d.vx.base b) (min per (lanes - k * per)) b.int (fun l =>
        let x := k * per + l
        (if d.vx.kind = 1 then 0 else if cx then x / 2 else x, if cx then x % 2 else 0))).map fun p => { v := p.1 } }

/-- One line of a stream operation: memory, conversion and vector flags, and whether a row-scale tag failed. -/
def streamLine (c : CoreId) (d : StreamD) (h : List Byte) (seed : Dword) (scal : List Dword) (n r : Nat) (s : State) :
    State × Byte × Byte × Bool :=
  let run := runStages c (fun s => streamFeed s c d) scal 0 false none 0 [d.g] { s := s, bs := d.beats s c h n r }
  if run.bad then (s, 0#8, 0#8, true)
  else if d.reduces then
    let stats := run.bs.filterMap fun b => b.stat0.bind fun st => st.vals.head?
    match stats with
    | [] => (run.s, 0#8, run.vec, false)
    | x :: xs =>
      let (v, sat) := xs.foldl (fun (a : Word × Bool) y => let (w, f) := statOp d.g.func d.g.int a.1 y; (w, a.2 || f)) (x, false)
      let (s, fl) := writeRow c seed d.out h n r [{ col := 0, re := laneFV d.g.int v }] run.s
      (s, orFlags fl, orB run.vec sat, false)
  else
    let (s, fl) := writeRow c seed d.out h n r (run.bs.flatMap (·.elems (fmtComplex (hdFmt h)))) run.s
    (s, orFlags fl, run.vec, false)

/-- The next stream tile completes (R130). -/
def State.streamStep (s : State) (c : CoreId) (v : VecOp) : Option State :=
  let d := streamOf v.blk
  let t := v.next
  let n := t / d.perPlane
  let l0 := t % d.perPlane * d.h
  let lines := (List.range d.h).map (l0 + ·) |>.filter (fun r => decide (r < d.lines))
  let seed := s.seedOf c
  let out := lines.foldl (fun (a : State × Byte × Byte × Bool) r =>
    let (s, cf, vf, bad) := streamLine c d v.hdr seed v.scal n r a.1
    (s, a.2.1 ||| cf, a.2.2.1 ||| vf, a.2.2.2 || bad)) (s, 0#8, 0#8, false)
  if out.2.2.2 then
    some (((s.dropVec c v.serial).vecRecord c v.w t true stScaleSkew 0#8 0#8).stopStream c stScaleSkew)
  else
    let last := decide (d.tiles ≤ t + 1)
    let s := out.1.modVec c v.serial fun o => { o with next := t + 1 }
    let s := if last then s.dropVec c v.serial else s
    some (s.vecRecord c v.w t last stOk out.2.1 out.2.2.1)

/-- The bytes of core memory that the next tiles of an operation write (R136). -/
def VecOp.ownBytes (v : VecOp) (a : Nat) : Bool :=
  inSpans (if opcodeOf v.w = 0x30 then chainWrites (chainOf v.blk) v.hdr v.next else streamWrites (streamOf v.blk) v.hdr v.next) a

/-- The running vector operation completes its next tile; with bypass it reads what R181 allows. -/
def State.vecStep (s : State) (c : CoreId) : Option State :=
  match (s.ctx c).vec with
  | [] => none
  | v :: _ =>
    let own := v.ownBytes
    (if opcodeOf v.w = 0x30 then (s.view c v.serial v.next own).chainStep c v
      else if opcodeOf v.w = 0x31 then (s.view c v.serial v.next own).streamStep c v else none).map (s.unview c v.serial own)

end Sys2Proof.Machine
end

