-- ==== Sys2Proof/Machine/VecIssue.lean ====
section
/-!
DEFINITION. Vector commands at issue (R122, R128, R134 to R139) and the binding of copy-outs (R101, R124, R146, R154, R157).
-/
namespace Sys2Proof.Machine

/-- The registers of each stage, as sampled: P and Q of stage s at 2 s and 2 s + 1 (R116). -/
def sampleScal (x : Ctx) (gs : List Stage) : List Dword := gs.flatMap fun g => [x.sreg g.sregP, x.sreg g.sregQ]

/-- Packages of the job on a core. -/
def State.jobPkgs (s : State) (c : CoreId) : Nat :=
  match s.coreJob c with
  | some j => j.pkgs
  | none => 1

/-- The rows of a chain hold whole groups of a scaled destination, as far as its issue shows: the lanes of a core-memory input, the columns of a
panel that its tiles fill, the dh lanes of an attention row (R101). -/
def chainGroupsOk (ch : Chain) (h : List Byte) : Bool :=
  !scaledMode h
    || (if isAttn ch.code then (ch.dh / (if fmtComplex (hdFmt h) then 2 else 1)) % hdG h == 0
        else if !ch.src then true
        else if isDefer ch.code then wholeGroups h (reached (holdStep ch h) (List.replicate ch.count (List.replicate ch.input.vl true)))
        else rowElemsOf (hdFmt h) ch.input.vl % hdG h == 0)

/-- The checks of a chain that need its header (R101, R131, R132, R158, R159). -/
def chainHdrOk (ch : Chain) (h : List Byte) : Bool :=
  (hdMode h != 2 || isDefer ch.code)
    && (hdMode h != 0 || ch.out.scale == 0)
    && (!isSend ch.code || hdMode h == 0)
    && (ch.code != 0xF || hdFmt h == 9)
    && chainGroupsOk ch h

/-- The checks of a chain block alone (R139). -/
def chainFieldsOk (ch : Chain) (b : List Byte) (pkgs : Nat) : Bool :=
  blockResOk b && entryOk' ch.code ch.stages && stagesOk ch false false 0 ch.stages
    && ch.s0.ok (ch.rawStrm 0) && ch.s1.ok (ch.rawStrm 1) && (isSend ch.code || ch.s2.ok (ch.rawStrm 2))
    && (if ch.src then ch.input.resOk && ch.input.kind == 0 && decide (1 ≤ ch.input.vl ∧ ch.input.vl ≤ 256)
          && decide (1 ≤ ch.input.rows ∧ ch.input.rows ≤ 64) && decide (ch.input.fmt ≤ 0xA) && (!fmtComplex ch.input.fmt || ch.input.vl % 2 == 0)
        else ch.input.raw == 0)
    && ch.out.ok && ch.state % 64 == 0 && (ch.usesState || ch.state == 0) && rscaleOk ch.stages && entryFieldsOk ch pkgs

/-- Enter an operation; `shapes` are the tiles before its first one that its state block holds (R138). -/
def enterVec (c : CoreId) (w : CmdWord) (blk h : List Byte) (scal : List Dword) (first : Nat) (all : List Range)
    (ch : Option Nat) (shapes : List (Nat × List Nat × List Bool)) (s : State) : State :=
  let x := s.ctx c
  let (serial, x) := x.takeSerial
  let op : VecOp := { serial := serial, w := w, blk := blk, hdr := h, scal := scal, next := first, shapes := shapes }
  let x := { x with vec := x.vec ++ [op] }
  let x := (x.takePegs serial 6 0#2 (if bypassOf w then [] else all)).keepSeen (bypassOf w) serial all (s.readCore c)
  let x := match ch with
    | some k => x.modChan k fun h => { h with holder := some serial }
    | none => x
  s.setCtx c x

/-- VEC_CHAIN at issue. -/
def issueChain (c : CoreId) (w : CmdWord) (s : State) : Issue :=
  let x := s.ctx c
  let a := vecAddr w
  let b := s.readCore c a 256
  let ch := chainOf b
  let t0 := chainFirst w
  .need (a % 64 == 0 && decide (a + 256 ≤ 0x400000)) stCmdInvalid <|
  .need (chainFieldsOk ch b (s.jobPkgs c)) stCmdInvalid <|
  .hold (x.regsReady ch.regs) <|
  .need (isatOk x ch.stages && (ch.code != 5 || (scalHi (x.sreg (ch.stage 1).sregQ)).toNat % 64 == 0)
    && (!isAttn ch.code || x.engines.toList.all (fun g => !g.splitNext)) && (ch.code != 0xF || t0 % 2 == 0)) stCmdInvalid <|
  match readHdr s c ch.out.hdr with
  | none => .reject stCmdInvalid
  | some h =>
    .need (headerOk h) stHeaderInvalid <|
    .need (chainHdrOk ch h) stCmdInvalid <|
    .need (deferOk ch h t0) stChainReject <|
    if ch.count ≤ t0 then .go (s.complete c w { recVec c with ordinal := t0 })
    else
      let all : List Range := (chainReads ch h t0).map (fun r => (false, r)) ++ (chainWrites ch h t0).map (fun r => (true, r))
      let ranges := if bypassOf w then [] else all
      let chan := if isSend ch.code then some (peerCh ch.s2.raw) else none
      .need (chainRangesOk ch h t0) stCmdInvalid <|
      .hold (decide (x.vec.length < 4) && !x.pegsBlock ranges && chan.all (fun k => !(x.chan k).busy)) <|
      .go (enterVec c w b h (sampleScal x ch.stages) t0 all chan (if isAttn ch.code || isDefer ch.code then x.heldTiles ch.state t0 else []) s)

/-- VEC_STREAM at issue. -/
def issueStream (c : CoreId) (w : CmdWord) (s : State) : Issue :=
  let x := s.ctx c
  let a := vecAddr w
  let b := s.readCore c a 192
  let d := streamOf b
  let t0 := streamFirst w
  let regs := (if d.g.srcP = 1 then [d.g.sregP] else []) ++ (if d.g.srcQ = 1 then [d.g.sregQ] else [])
  .need (a % 64 == 0 && decide (a + 192 ≤ 0x400000)) stCmdInvalid <|
  .need (streamResOk b && streamFieldsOk d) stCmdInvalid <|
  .hold (x.regsReady regs) <|
  .need (isatOk x [d.g]) stCmdInvalid <|
  match readHdr s c d.out.hdr with
  | none => .reject stCmdInvalid
  | some h =>
    .need (headerOk h) stHeaderInvalid <|
    .need (hdMode h != 2 && (hdMode h != 0 || d.out.scale == 0) && (!scaledMode h || (d.planes == 1 && d.outLen h % hdG h == 0)))
      stCmdInvalid <|
    if d.tiles ≤ t0 then .go (s.complete c w { recVec c with ordinal := t0 })
    else
      let all : List Range := (streamReads d t0).map (fun r => (false, r)) ++ (streamWrites d h t0).map (fun r => (true, r))
      let ranges := if bypassOf w then [] else all
      .need (streamRangesOk d h t0) stCmdInvalid <|
      .hold (decide (x.vec.length < 4) && !x.pegsBlock ranges) <|
      .go (enterVec c w b h (sampleScal x [d.g]) t0 all none [] s)

/-- VEC_FLAGS at issue: it takes its turn behind earlier operations (R134). -/
def issueVecFlags (c : CoreId) (w : CmdWord) (s : State) : Issue :=
  let x := s.ctx c
  .hold (x.regsReady [flagsSreg w] && decide (x.vec.length < 4)) <|
  .go (State.settleVec c 1 (enterVec c w [] [] [] 0 [] none [] s))

/-! ### Binding (R124) -/

/-- The operation that a copy-out with dest = 0 binds to: the earliest chain with src = 0 that lacks tiles. -/
def bindTo (x : Ctx) : Option VecOp :=
  x.vec.find? fun v =>
    let ch := chainOf v.blk
    opcodeOf v.w == 0x30 && !ch.src && v.abort.isNone && decide (v.next + v.inputs.length < ch.count)

/-- Engines of a copy-out's row. -/
def copyEngines (w : CmdWord) : Nat := (engSel w).length

/-- Elements of the destination that a row of a copy-out delivers (R101). -/
def copyElems (ch : Chain) (h : List Byte) (w : CmdWord) (cplx : Bool) : Nat :=
  let n := copyN w * copyEngines w
  let lanes := if cplx then 2 * n else n
  let lanes := if ch.code = 4 then lanes / 2 else lanes
  if fmtComplex (hdFmt h) && ch.code != 0xF then lanes / 2 else lanes

/-- Lanes of a copy-out row, idle ones counted (R110, R154). -/
def copyLanes (w : CmdWord) (cplx : Bool) : Nat :=
  (if unitOf w = 5 then 64 * ((engMaskOf w).log2 + 1) else 64) * (if cplx then 2 else 1)

/-- The lanes of a copy-out row that are not idle, in row order (R110, R111). -/
def copyLive (w : CmdWord) (cplx : Bool) : List Bool :=
  let k := if cplx then 2 else 1
  (List.range (copyLanes w cplx)).map fun l =>
    (unitOf w != 5 || (engMaskOf w).testBit (l / (64 * k))) && decide (l % (64 * k) / k < copyN w)

/-- The same of an input that waits. -/
def VecIn.live (t : VecIn) : List Bool :=
  let k := if t.cplx then 2 else 1
  if t.rows.isEmpty then []
  else (List.range (64 * k * t.blocks)).map fun l => t.has (l / (64 * k)) && decide (l % (64 * k) / k < t.cols)

/-- The lanes of every tile of a deferred operation whose last one is a copy-out. -/
def VecOp.panelLanes (v : VecOp) (q t : Nat) (last : List Bool) : List (List Bool) :=
  (List.range t).map (fun k =>
    match v.inputs[k - v.next]? with
    | some i => if v.next ≤ k then i.live else shapeOf v.shapes q k
    | none => shapeOf v.shapes q k) ++ [last]

/-- What the entry asks of a copy-out that binds to it; the status of its rejection when it fails. -/
def bindStatus (v : VecOp) (w : CmdWord) (p : EngPart) : Option Half :=
  let ch := chainOf v.blk
  let h := v.hdr
  let group := unitOf w = 5
  let t := v.next + v.inputs.length
  if isAttn ch.code && !(group && halfOf w == 0#2 && engMaskOf w == 2 ^ ch.ns - 1 && !p.cplx) then some stCmdInvalid
  else if ch.code = 0xE && !(if group then engMaskOf w == 15 && copyN w == 64 else copyN w ∈ [2, 4, 16, 64]) then some stCmdInvalid
  else if zeroSize w then none
  else if ch.stages.any (fun g => g.func == 2) && p.grp then some stCmdInvalid
  else if isDefer ch.code then
    (if hdLength h < t * holdStep ch h + copyLanes w p.cplx then some stChainReject
     else if scaledMode h && ch.count == t + 1
        && !wholeGroups h (reached (holdStep ch h) (v.panelLanes (holdStep ch h) t (copyLive w p.cplx))) then some stCmdInvalid
     else none)
  else if ch.code = 0xE then
    (if scaledMode h && (copyN w * copyEngines w).log2 / (if fmtComplex (hdFmt h) then 2 else 1) % hdG h != 0 then some stCmdInvalid else none)
  else if scaledMode h && !isAttn ch.code && copyElems ch h w p.cplx % hdG h != 0 then some stCmdInvalid
  else none

/-- ENG_COPYOUT with dest = 0 at issue: it binds, and enters its engines; an empty tile is delivered at once (R53, R124). A group whose
latest tiles differ in type takes the type of its lowest engine (DESIGN CHOICE, log 96). -/
def issueCopyBind (c : CoreId) (w : CmdWord) (s : State) : Issue :=
  let x := s.ctx c
  let sel := engSel w
  let gs := sel.map x.engine
  let n := engNeed x w gs
  .hold (x.regsReady n.regs) <|
  .need (engSelOk w && sel.all (fun e => !x.pvOwned e) && gs.all (halfOk w) && n.ok) stCmdInvalid <|
  match bindTo x with
  | none => .reject stCmdInvalid
  | some v =>
    let p := (x.engine (sel.headD 0)).part (halfOf w)
    match bindStatus v w p with
    | some st => .reject st
    | none =>
      .hold (zeroSize w || !gs.any (fun g => g.full (halfOf w))) <|
      let mask := sampleMask x (copyMaskEn w) (copyMaskReg w)
      let (serial, x) := x.takeSerial
      let inp : VecIn :=
        { serial := serial, engMask := if unitOf w = 5 then BitVec.ofNat 4 (engMaskOf w) else 0#4,
          rows := if zeroSize w then [] else copyRows w mask, cols := copyN w, cplx := p.cplx, int := p.int, withIdx := copyIdx w,
          got := if zeroSize w then sel.map (fun e => (e, [], [])) else [] }
      let x := { x with vec := x.vec.map fun (o : VecOp) => if o.serial = v.serial then { o with inputs := o.inputs ++ [inp] } else o }
      let x := x.enterEngines w serial (some v.serial) [] (s.cmdSlot c)
      let s := s.setCtx c x
      .go (if zeroSize w then s.recordEngines c w else s)

end Sys2Proof.Machine
end

