-- ==== Sys2Proof/Machine/JobCore.lean ====
section
/-!
DEFINITION. Jobs as the firmware keeps them: placement of cores (R33, R226, R227, R471), records of a job (Table 16-8), the end of a
job and its strike (R476, R477), and its scrub (R478).
-/
namespace Sys2Proof.Machine

/-! ### Cores for jobs -/

def State.carrier (s : State) (k : CarrierId) : Carrier := s.carriers.get k
def State.setCarrier (s : State) (k : CarrierId) (x : Carrier) : State := { s with carriers := s.carriers.set k x }
def State.modCarrier (s : State) (k : CarrierId) (f : Carrier → Carrier) : State := s.setCarrier k (f (s.carrier k))

def allCarriers : List CarrierId := List.finRange 4
def allCores : List CoreId := List.finRange 32

/-- Floor cores of configured carriers (R32, R471). -/
def State.isFloor (s : State) (c : CoreId) : Bool :=
  allCarriers.any fun k => (s.carrier k).cfg.isSome && (s.carrier k).floor.contains c

/-- Lift cores of configured carriers. -/
def State.isLift (s : State) (c : CoreId) : Bool :=
  allCarriers.any fun k => (s.carrier k).cfg.isSome && (s.carrier k).lift.contains c

/-- Lift cores that their carrier holds. -/
def State.liftHeld (s : State) (c : CoreId) : Bool :=
  allCarriers.any fun k => (s.carrier k).cfg.isSome && (s.carrier k).held && (s.carrier k).lift.contains c

/-- A core whose memory holds the data of a saved rank (R231). -/
def State.resident (s : State) (c : CoreId) : Bool :=
  s.jobs.any fun j => j.phase == .running && j.ranks.any fun r => r.saved.isSome && r.home == c

/-- Clusters wake for work in Active only, and not after a thermal trip (R451, R455, R459). -/
def State.mayWake (s : State) : Bool := s.power.state == .active && !s.power.tripped

/-- Work on a gated cluster wakes it (R455). -/
def State.wakeFor (s : State) (c : CoreId) : State :=
  let k : ClusterId := Fin.ofNat 8 (c.val / 4)
  let cl := s.clusters.get k
  if s.mayWake && cl.power == .gated then { s with clusters := s.clusters.set k { cl with power := .waking } } else s

/-- A bulk object by its identifier (R410). -/
def State.object (s : State) (id : Word) : Option Obj := s.host.objects.find? fun o => o.id == id

/-- A core that a rank may be placed on (R33, R451, R455, R471, R479); a core that keeps a saved rank's memory is not free. -/
def State.coreFree (s : State) (c : CoreId) : Bool :=
  let k := s.core c
  k.owner == .none && !k.scrubbing && !s.isFloor c && !s.liftHeld c && !s.closedCore c && !s.resident c && s.mayWake && !k.mapHeld

def coreDie (c : CoreId) : Nat := c.val / 16

/-- A rank may run on a core: its die, and the carrier window (R225, R227). -/
def State.rankFits (s : State) (r : Rank) (c : CoreId) : Bool :=
  (r.affinity == 2#8 || r.affinity.toNat == coreDie c) && (decide (r.footprint ≤ 0x300000) || !s.isLift c)

/-- Every set of ranks finds enough cores among those given (the marriage condition, over the classes of ranks by affinity and
window). -/
def State.placeable (s : State) (rs : List Rank) (free : List CoreId) : Bool :=
  let cls := fun (r : Rank) => (if r.affinity = 2#8 then 2 else r.affinity.toNat % 2) * 2 + (if r.footprint ≤ 0x300000 then 0 else 1)
  (List.range 64).all fun m =>
    let sub := rs.filter fun r => m.testBit (cls r)
    decide (sub.length ≤ (free.filter fun c => sub.any fun r => s.rankFits r c).length)

/-- The host or the training window holds a job back (R228, R365). -/
def Job.suspended (j : Job) : Bool := j.hostSusp || j.winSusp

/-- The job that is placed next: one whose lead asks for it (R426), else the first head job, by mailbox, that fits on free cores here and on
its other packages (R226, R426). -/
def State.nextPlaced (s : State) : Option Job :=
  let free := allCores.filter s.coreFree
  let heads := [2, 3, 4, 5, 6, 7, 8, 9].filterMap fun m => s.jobs.find? fun j => j.phase == .queued && j.mailbox.toNat == m
  let fits := fun (j : Job) => !j.suspended && s.placeable j.ranks free
  match s.jobs.find? fun j => j.phase == .queued && j.lead.isSome && fits j with
  | some j => some j
  | none => heads.find? fun j => fits j && (List.range j.pkgs).all fun i => i == 0 || j.ready.contains i

/-! ### Reports -/

def JobPhase.code : JobPhase → Nat
  | .queued => 0
  | .running => 1
  | .ended => 3

/-- Nanoseconds that a job has run on cores. -/
def Job.runtime (j : Job) (now : Nat) : Nat := j.runNs + (match j.since with | some t => now - t | none => 0)

/-- Table 16-8. -/
def jobStatusBytes (j : Job) (now : Nat) : List Byte :=
  let st := if j.phase == .running && j.suspended then 2 else j.phase.code
  leBytes 4 j.id.toNat ++ leBytes 1 st ++ [0#8] ++ leBytes 2 j.status.toNat ++ leBytes 8 (j.runtime now / 1000)
    ++ leBytes 4 j.preemptions.toNat ++ leBytes 4 j.faults.toNat

/-! ### Pages of a job -/

/-- Leaf pages (first byte, bytes) and tables (first byte, bytes) below a table (Table 8-7); `n` levels remain. -/
def State.pagesOf (s : State) : Nat → Nat → Nat → List (Nat × Nat)
  | 0, _, _ => []
  | n + 1, lv, table =>
    let bytes := s.readPhys table (8 * levelEntries lv)
    (table, 8 * levelEntries lv) :: (List.range (levelEntries lv)).flatMap fun i =>
      let e := fieldAt bytes (8 * i) 8
      if pteBad lv e || !e.testBit 0 then []
      else if e.testBit 1 then [(ptePa e, 2 ^ levelShift lv)]
      else s.pagesOf n (lv + 1) (ptePa e)

/-- The pages and tables that belong to the job itself: not those of bulk objects, and in DDR5 or die memory (R479). -/
def State.ownPages (s : State) (j : Job) : List (Nat × Nat) :=
  if j.root = 0#42 then [] else
  (s.pagesOf 4 0 j.root.toNat).filter fun p =>
    decide (p.1 < 0x08800000000) && !s.host.objects.any fun o => decide (o.base ≤ p.1) && decide (p.1 < o.base + o.size)

def isDdr (a : Nat) : Bool := decide (a < 0x08000000000)

/-! ### End and strike (R476 to R479) -/

/-- Free the cores of a job: their streams are gone and their memory is scrubbed before reuse. -/
def State.freeCores (s : State) (id : Word) : State :=
  { s with cores := vmap s.cores fun k => match k.owner with
      | .rank i _ => if i == id then ({ k with owner := .none, ctx := {}, stopped := false, preempt := [], atPoint := false, scrubbing := true }).dropAhead else k
      | _ => k }

/-- Mark the cores that keep the memory of saved ranks as being scrubbed. -/
def State.scrubHomes (s : State) (cs : List CoreId) : State :=
  cs.foldl (fun s c => s.modCore c fun k => { k with scrubbing := true }) s

/-- Retire a frame of 64 KiB (R475): it leaves allocation, and the 1,024th of a die is reported. -/
def State.retireFrame (s : State) (frame : Nat) : State :=
  let die : Fin 2 := if frame * 65536 < 0x04000000000 then 0 else 1
  let d := s.dies.get die
  if d.retired.contains frame then s
  else
    let d := { d with retired := d.retired ++ [frame] }
    let s := { s with dies := s.dies.set die d, health := { s.health with frames := satInc32 s.health.frames } }
    if d.retired.length = 1024 then
      s.healthEvent 0x07 stEccUncorr (leBytes 1 die.val ++ [0#8] ++ leBytes 4 1024 ++ List.replicate 6 0#8)
    else s

/-! ### Capture rings in DDR5 (R363) -/

/-- The header of Table 14-2. -/
def Ring.header (r : Ring) : List Byte :=
  leBytes 4 0x52435054 ++ leBytes 2 1 ++ leBytes 2 6528 ++ leBytes 4 r.cap ++ leBytes 4 0 ++ leBytes 8 r.nextK ++ leBytes 8 r.firstK
    ++ (match r.lock with | some (lo, hi) => leBytes 8 lo ++ leBytes 8 hi | none => List.replicate 16 0xFF#8) ++ leBytes 8 r.dropped.toNat ++ leBytes 8 0

/-- First byte of a carrier's ring in DDR5 of its home cluster's die (its place is the firmware's: log 102). -/
def State.captureAt (s : State) (k : CarrierId) (hold : Bool) : Nat :=
  Config.ddrBase ((s.carrier k).home.val / 4) + Config.ringSpot (8 + 2 * k.val + (if hold then 1 else 0)) % 0x8000 * 0x10000

/-- The rings' headers and the records that are not the old ones go to DDR5. -/
def State.storeRings (s : State) (k : CarrierId) (old : Carrier) : State :=
  let one := fun (s : State) (hold : Bool) (a b : Ring) =>
    if a = b then s
    else
      let at_ := s.captureAt k hold
      let s := s.writePhys at_ b.header
      (b.recs.filter fun q => !a.recs.contains q).foldl (fun (s : State) q => s.writePhys (at_ + 64 + 6528 * (q.1 % max 1 b.cap)) q.2) s
  let x := s.carrier k
  one (one s false old.train x.train) true old.hold x.hold

/-- A change of a carrier's rings. -/
def State.modRings (s : State) (k : CarrierId) (f : Carrier → Carrier) : State := (s.modCarrier k f).storeRings k (s.carrier k)

/-- The protected ranges of a training job's rings end with it (R364). -/
def State.unlockRings (s : State) (j : Job) : State :=
  match j.carrier with
  | some k => s.modRings k fun x => { x with train := { x.train with lock := none }, hold := { x.hold with lock := none } }
  | none => s

/-- job.done goes to the host that submitted the job (Table 16-8). -/
def State.tellDone (s : State) (id : Word) (st : Half) : State :=
  match s.job id with
  | some j => if j.lead.isSome then s else s.notifyT1 (j.mailbox.toNat * 256 + 6) st (jobStatusBytes j s.nowNs)
  | none => s

/-- A job ends with a status (R477, R478, Table 16-8): its cores are freed, stakes and save areas discarded, job.done sent, its
regions scrubbed, the frames that waited for it retired. -/
def State.endJob (s : State) (id : Word) (st : Half) : State :=
  match s.job id with
  | none => s
  | some j =>
    let homes := (j.ranks.filter fun r => r.saved.isSome).map (·.home)
    let pages := s.ownPages j
    let regions := [ScrubRegion.coreMem, .slotState] ++ (if j.preemptions = 0#32 then [] else [.saveArea]) ++ [.dieMem]
      ++ (if pages.any fun p => isDdr p.1 then [.ddrFrames] else [])
    let s := s.modJob id fun j => { j with
      phase := .ended, status := st, runNs := j.runtime s.nowNs, since := none, hostSusp := false, winSusp := false,
      ranks := j.ranks.map fun r => { r with core := none, saved := none }
      scrub := regions, pages := pages, retire := [] }
    let s := ((s.freeCores id).scrubHomes homes).unlockRings j
    let s := s.tellDone id st
    j.retire.foldl (fun s f => s.retireFrame f) s

/-- A queued job ends without ever holding a region. -/
def State.dropQueued (s : State) (id : Word) (st : Half) : State :=
  let s := s.modJob id fun j => { j with phase := .ended, status := st }
  match s.job id with
  | some j => (s.tellDone id st).unlockRings j
  | none => s

/-- Strike a job on this package (R476, R477): job.done with the status, the strike counted and reported. -/
def State.strikeHere (s : State) (id : Word) (st : Half) : State :=
  match s.job id with
  | none => s
  | some j =>
    if j.phase == .ended then s
    else
      let s := if j.phase == .queued then s.dropQueued id st else s.endJob id st
      let s := { s with health := { s.health with strikes := satInc32 s.health.strikes } }
      s.healthEvent 0x09 st (leBytes 4 id.toNat)

/-- Strike a job on all its packages (R429). -/
def State.strikeJob (s : State) (id : Word) (st : Half) : State :=
  match s.job id with
  | none => s
  | some j => if j.phase == .ended then s else (s.strikeHere id st).toOthers j fun _ => .over (s.refOf j) st

/-- The ranks of a job have all ended here: its lead ends the job when they have on every package, any other package tells its lead (R425). -/
def State.ranksDone (s : State) (id : Word) : State :=
  match s.job id with
  | none => s
  | some j =>
    if j.phase != .running || !j.ranks.all (·.ended) then s
    else if j.lead.isSome then s.jobMessage j 1 (.finished (s.refOf j) j.ix) [] 2#2
    else if (List.range j.pkgs).all fun i => i == 0 || j.doneBy.contains i then (s.endJob id stOk).toOthers j fun _ => .over (s.refOf j) stOk
    else s

/-- The rank on a core ends (SEQ_END); the job ends when its last rank has (R214, Table 9-2). -/
def State.endRank (s : State) (c : CoreId) : State :=
  match (s.core c).owner with
  | .rank id r =>
    let s := s.modJob id fun j => j.modRank r fun k => { k with ended := true }
    let s := s.modCore c fun k => { k with stopped := true }
    s.ranksDone id
  | _ => s.modCore c fun k => { k with stopped := true }

/-- Ask for a core to be pre-empted (R228), which cancels what was fetched ahead (R197); requests join one in progress. Only ranks of jobs are pre-empted. -/
def State.askPreempt (s : State) (c : CoreId) (r : PreReq) : State :=
  match (s.core c).owner with
  | .rank _ _ => s.modCore c fun k => if k.preempt.contains r then k else ({ k with preempt := k.preempt ++ [r] }).dropAhead
  | _ => s

/-- The host, or the end of a training window, suspends a job (R228, R365): its ranks on cores are pre-empted; a queued job is not
placed. -/
def State.suspendJob (s : State) (id : Word) (byHost : Bool) : State :=
  let s := s.modJob id fun j => if byHost then { j with hostSusp := true } else { j with winSusp := true }
  allCores.foldl (fun (s : State) c => match (s.core c).owner with
    | .rank i _ => if i == id then s.askPreempt c .host else s
    | _ => s) s

/-- A suspension ends (R233, R365). -/
def State.allowJob (s : State) (id : Word) (byHost : Bool) : State :=
  s.modJob id fun j => if byHost then { j with hostSusp := false } else { j with winSusp := false }

/-- A core whose stream waits at issue while one of its channels is suspended is pre-empted (R205). -/
def State.checkSusp (s : State) (c : CoreId) : State :=
  let x := s.ctx c
  if !x.waiting.isEmpty && x.chans.toList.any (·.susp) then s.askPreempt c .suspChan else s

/-- Strike the job of a core with a translation status (Table 8-8). -/
def State.strikeCore (s : State) (c : CoreId) (st : Half) : State :=
  match (s.core c).owner with
  | .rank id _ => s.strikeJob id st
  | _ => s

end Sys2Proof.Machine
end

