-- ==== Sys2Proof/Machine/Sequencer.lean ====
section
/-!
DEFINITION. The core sequencer (R210 to R220): sequencer commands, the order of checks and waits at issue, and the commands that
wait at issue.
-/
namespace Sys2Proof.Machine

/-! ### Sequencer commands (Table 9-2) -/

def issueNop (c : CoreId) (w : CmdWord) (s : State) : Issue := .go (s.complete c w (recSeq c))

def issueSeti (c : CoreId) (w : CmdWord) (s : State) : Issue :=
  .hold ((s.ctx c).regsReady [sdOf w]) <|
  .go ((s.modCtx c fun x => x.setSreg (sdOf w) (imm64 w)).complete c w (recSeq c))

/-- SEQ_ALU: the result of an operation (Table 9-2). -/
def aluResult (op : Nat) (a b : Dword) : Dword :=
  let sh := b.toNat % 64
  match op with
  | 0 => a + b
  | 1 => a - b
  | 2 => a &&& b
  | 3 => a ||| b
  | 4 => a ^^^ b
  | 5 => a <<< sh
  | 6 => a >>> sh
  | 7 => a.sshiftRight sh
  | 8 => a * b
  | 9 => if a.toInt < b.toInt then a else b
  | 10 => if a.toInt < b.toInt then b else a
  | 11 => if a.toInt < b.toInt then 1#64 else 0#64
  | 12 => if a = b then 1#64 else 0#64
  | 13 => (fadd (a.setWidth 32) (b.setWidth 32)).setWidth 64
  | _ => (fmul (a.setWidth 32) (b.setWidth 32)).setWidth 64

def issueAlu (c : CoreId) (w : CmdWord) (s : State) : Issue :=
  let x := s.ctx c
  let b := if aluImm w then imm64 w else x.sreg (aluB w)
  .need (decide (aluOp w < 15)) stCmdInvalid <|
  .hold (x.regsReady ([sdOf w, aluA w] ++ if aluImm w then [] else [aluB w])) <|
  .go ((s.modCtx c fun x => x.setSreg (sdOf w) (aluResult (aluOp w) (x.sreg (aluA w)) b)).complete c w (recSeq c))

/-- The address of SEQ_LD and SEQ_ST (R217). -/
def ldAddress (x : Ctx) (w : CmdWord) : Nat :=
  if ldUseBase w then (ldAddr w + (x.sreg (ldBase w)).toNat) % 2 ^ 22 else ldAddr w

def ldRegs (w : CmdWord) : List Nat := sdOf w :: if ldUseBase w then [ldBase w] else []

def issueLd (c : CoreId) (w : CmdWord) (s : State) : Issue :=
  let x := s.ctx c
  let a := ldAddress x w
  .hold (x.regsReady (ldRegs w)) <|
  .need (a % ldSize w == 0) stCmdInvalid <|
  .hold (bypassOf w || !x.pegsBlock [(false, a, ldSize w)]) <|
  .go ((s.modCtx c fun x => x.setSreg (sdOf w) (BitVec.ofNat 64 (s.loadCore c a (ldSize w)))).complete c w (recSeq c))

def issueSt (c : CoreId) (w : CmdWord) (s : State) : Issue :=
  let x := s.ctx c
  let a := ldAddress x w
  .hold (x.regsReady (ldRegs w)) <|
  .need (a % ldSize w == 0) stCmdInvalid <|
  .hold (bypassOf w || !x.pegsBlock [(true, a, ldSize w)]) <|
  .go ((s.writeCore c a (leBytes (ldSize w) (x.sreg (sdOf w)).toNat)).complete c w (recSeq c))

/-- The end of the innermost running body. -/
def Ctx.bodyEnd (x : Ctx) : Option Nat := x.loops.head?.map (·.stop)

/-- SEQ_LOOP (R218): a count of 0 skips the body. -/
def issueLoop (c : CoreId) (w : CmdWord) (s : State) : Issue :=
  let x := s.ctx c
  let start := x.pc + 16
  let stop := start + 16 * loopBody w
  let n := if loopUseImm w then loopImm w else (x.sreg (sdOf w)).toNat
  .need (decide (1 ≤ loopBody w) && decide (x.loops.length < 4) && x.bodyEnd.all (fun e => decide (stop ≤ e))) stCmdInvalid <|
  .hold (x.regsReady (loopIdx w :: if loopUseImm w then [] else [sdOf w])) <|
  let s := s.modCtx c fun x =>
    if n = 0 then x.jump stop
    else
      let f : LoopFrame := { start := start, stop := stop, count := BitVec.ofNat 64 n, index := 0#64, sidx := BitVec.ofNat 6 (loopIdx w) }
      ({ x with pc := start, loops := f :: x.loops }).setSreg (loopIdx w) 0#64
  .go (s.complete c w (recSeq c))

/-- The conditions of SEQ_SKIP. -/
def skipHolds (cond : Nat) (a b : Dword) : Bool :=
  match cond with
  | 0 => a == b
  | 1 => a != b
  | 2 => decide (a.toInt < b.toInt)
  | 3 => decide (b.toInt ≤ a.toInt)
  | 4 => decide (a.toNat < b.toNat)
  | _ => decide (b.toNat ≤ a.toNat)

def issueSkip (c : CoreId) (w : CmdWord) (s : State) : Issue :=
  let x := s.ctx c
  let target := x.pc + 16 + 16 * skipN w
  .need (decide (skipCond w < 6) && decide (1 ≤ skipN w) && x.bodyEnd.all (fun e => decide (target ≤ e))) stCmdInvalid <|
  .hold (x.regsReady [sdOf w, skipB w]) <|
  let s := s.modCtx c fun x => if skipHolds (skipCond w) (x.sreg (sdOf w)) (x.sreg (skipB w)) then x.jump target else x.advance
  .go (s.complete c w (recSeq c))

/-- SEQ_BARRIER waits at issue for the units it selects. -/
def issueBarrier (c : CoreId) (w : CmdWord) (s : State) : Issue :=
  .hold ((s.ctx c).maskIdle (barMask w)) (.go (s.complete c w (recSeq c)))

def issueTime (c : CoreId) (w : CmdWord) (s : State) : Issue :=
  .hold ((s.ctx c).regsReady [sdOf w]) <|
  .go ((s.modCtx c fun x => x.setSreg (sdOf w) (BitVec.ofNat 64 s.nowNs)).complete c w (recSeq c))

/-- SEQ_ENTROPY: a free value (log 2). -/
def issueEntropy (c : CoreId) (w : CmdWord) (s : State) : Issue :=
  .hold ((s.ctx c).regsReady [sdOf w]) <|
  let (v, s) := s.draw
  .go ((s.modCtx c fun x => x.setSreg (sdOf w) v).complete c w (recSeq c))

/-- The next item of a work queue of the job, and the job without it. -/
def Job.pop (j : Job) (q : Nat) : Dword × Job :=
  match j.queues.getD q [] with
  | [] => (0xFFFFFFFFFFFFFFFF#64, j)
  | v :: vs => (v, { j with queues := j.queues.mapIdx fun i x => if i = q then vs else x })

def issueQpop (c : CoreId) (w : CmdWord) (s : State) : Issue :=
  .hold ((s.ctx c).regsReady [sdOf w]) <|
  let (v, s) := match s.coreJob c with
    | some j => (let (v, j') := j.pop (qpopQ w); (v, s.modJob j.id fun _ => j'))
    | none => (0xFFFFFFFFFFFFFFFF#64, s)
  .go ((s.modCtx c fun x => x.setSreg (sdOf w) v).complete c w (recSeq c))

/-- SEQ_END: the rank ends once every earlier command is complete. -/
def issueEnd (c : CoreId) (w : CmdWord) (s : State) : Issue :=
  .hold (s.ctx c).idle <|
  .go ((s.complete c w (recSeq c)).endRank c)

/-! ### Issue -/

/-- The checks and effects of a command's own kind. -/
def issueOp (c : CoreId) (w : CmdWord) (s : State) : Issue :=
  match opcodeOf w with
  | 0x00 => issueNop c w s
  | 0x01 => issueSeti c w s
  | 0x02 => issueAlu c w s
  | 0x03 => issueLd c w s
  | 0x04 => issueSt c w s
  | 0x05 => issueLoop c w s
  | 0x06 => issueSkip c w s
  | 0x07 => issueBarrier c w s
  | 0x08 => issueTime c w s
  | 0x09 => issueEntropy c w s
  | 0x0A => issueQpop c w s
  | 0x0B => issueEnd c w s
  | 0x13 => if copyDest w then issueEngine c w s else issueCopyBind c w s
  | 0x30 => issueChain c w s
  | 0x31 => issueStream c w s
  | 0x32 => issueVecFlags c w s
  | 0x60 => issueArm c w s
  | 0x61 => issueArm c w s
  | 0x62 => issueWait c w s
  | 0x63 => issueStake c w s
  | 0x64 => issueChstat c w s
  | _ => issueEngine c w s

/-- The command moves the program counter itself. -/
def ownsPc (op : Nat) : Bool := op = 0x05 || op = 0x06 || op = 0x0B

/-- A command at issue (R211, R212, R214, R220): the fence and the fetch wait first, then validity and V marks, then its own
checks; when it issues, the program counter passes it. -/
def tryIssue (c : CoreId) (w : CmdWord) (s : State) : Issue :=
  let x := s.ctx c
  let op := opcodeOf w
  .hold ((!fenceOf w || x.idle) && !x.pegs.any (fun p => p.hits false x.pc 16)) <|
  .need (opcodeFits w && resClear w && (!bypassOf w || bypassAllowed op) && decide (x.pc ≤ 0x3FFFF0)) stCmdInvalid <|
  .need (!(s.deterministic c && (alwaysV op || bypassOf w))) stNondet <|
  match issueOp c w s with
  | .go s => .go (if ownsPc op then s else s.modCtx c fun x => x.advance)
  | r => r

/-- Issue the commands that wait on a core, in order, as far as they can (R178). -/
def State.pump (c : CoreId) : Nat → State → State
  | 0, s => s
  | fuel + 1, s =>
    if !s.mayIssue c then s
    else
      match (s.ctx c).waiting with
      | [] => s
      | w :: ws =>
        match tryIssue c w s with
        | .wait => s
        | .reject st => s.rejectCmd c w st
        | .go t => State.pump c fuel (t.modCtx c fun x => { x with waiting := if x.waiting = w :: ws then ws else x.waiting })

/-- Let a core's stream go on after something completed; what still waits may be fetched ahead (R195). -/
def State.resumeIssue (s : State) (c : CoreId) : State := ((s.pump c (s.ctx c).waiting.length).checkSusp c).fetchAhead c

/-- Commands that wait at issue on all cores. -/
def State.waitCount (s : State) : Nat := allCores.foldl (fun n c => n + (s.ctx c).waiting.length) 0

/-- Let every core's stream go on, again while one of them issued a command, which may end another core's wait (R178, R193). -/
def State.resumePasses : Nat → State → State
  | 0, s => s
  | n + 1, s =>
    let t := allCores.foldl (fun s c => s.resumeIssue c) s
    if t.waitCount < s.waitCount then State.resumePasses n t else t

def State.resumeAll (s : State) : State := State.resumePasses (s.waitCount + 1) s

/-- A DMA_WAIT at the head of some core's stream is judged anew (R193). -/
def State.wakeWaits (s : State) : State :=
  if allCores.any fun c => match (s.ctx c).waiting with | w :: _ => opcodeOf w == 0x62 | [] => false then s.resumeAll else s

/-- What a command that issues on a claimed lift core uses lies in the carrier window (R227, R242): its new pegs, what it reads with bypass, and the bytes of SEQ_LD and
SEQ_ST. The firmware issues no other there, and such a word is no command of this core. -/
def State.inWindow (s : State) (c : CoreId) (t : State) (w : CmdWord) : Bool :=
  match (s.core c).owner with
  | .carrier k =>
    !(s.carrier k).lift.contains c
      || ((t.ctx c).pegs.all (fun p => (s.ctx c).pegs.contains p || (decide (0x300000 ≤ p.base) && decide (p.base + p.len ≤ 0x400000)))
          && (t.ctx c).seen.all (fun p => (s.ctx c).seen.contains p || (decide (0x300000 ≤ p.base) && decide (p.base + p.bytes.length ≤ 0x400000)))
          && (!(opcodeOf w == 3 || opcodeOf w == 4) || decide (0x300000 ≤ ldAddress (s.ctx c) w)))
  | _ => true

/-- A command reaches issue on a core: behind commands that wait it waits too (R178). -/
def State.submit (s : State) (c : CoreId) (w : CmdWord) : State :=
  if !s.mayIssue c then s
  else if !(s.ctx c).waiting.isEmpty then s.modCtx c fun x => { x with waiting := x.waiting ++ [w] }
  else
    match tryIssue c w s with
    | .wait => ((s.modCtx c fun x => { x with waiting := x.waiting ++ [w] }).checkSusp c).fetchAhead c
    | .reject st => s.rejectCmd c w st
    | .go t => if !s.inWindow c t w then s else if opcodeOf w = 0x60 ∨ opcodeOf w = 0x61 then t.wakeWaits else t

/-- The opcodes of Table 9-3. -/
def knownOp (op : Nat) : Bool :=
  op < 0x0C || op ∈ [0x10, 0x11, 0x12, 0x13, 0x15, 0x16, 0x17, 0x18, 0x19, 0x30, 0x31, 0x32, 0x60, 0x61, 0x62, 0x63, 0x64]

/-- A row of the command list: the word carries the row's opcode, or one that no row has, which is rejected (R211). A word of
another row is no command of this one (log 41). -/
def State.command (s : State) (c : CoreId) (op : Nat) (w : CmdWord) : State :=
  if opcodeOf w = op || !knownOp (opcodeOf w) then s.submit c w else s

abbrev Out := Host.Outcome State Fault Refusal

def execSeqNop (c : CoreId) (w : CmdWord) (s : State) : Out := .next (s.command c 0x00 w)
def execSeqSeti (c : CoreId) (w : CmdWord) (s : State) : Out := .next (s.command c 0x01 w)
def execSeqAlu (c : CoreId) (w : CmdWord) (s : State) : Out := .next (s.command c 0x02 w)
def execSeqLd (c : CoreId) (w : CmdWord) (s : State) : Out := .next (s.command c 0x03 w)
def execSeqSt (c : CoreId) (w : CmdWord) (s : State) : Out := .next (s.command c 0x04 w)
def execSeqLoop (c : CoreId) (w : CmdWord) (s : State) : Out := .next (s.command c 0x05 w)
def execSeqSkip (c : CoreId) (w : CmdWord) (s : State) : Out := .next (s.command c 0x06 w)
def execSeqBarrier (c : CoreId) (w : CmdWord) (s : State) : Out := .next (s.command c 0x07 w)
def execSeqTime (c : CoreId) (w : CmdWord) (s : State) : Out := .next (s.command c 0x08 w)
def execSeqEntropy (c : CoreId) (w : CmdWord) (s : State) : Out := .next (s.command c 0x09 w)
def execSeqQpop (c : CoreId) (w : CmdWord) (s : State) : Out := .next (s.command c 0x0A w)
def execSeqEnd (c : CoreId) (w : CmdWord) (s : State) : Out := .next (s.command c 0x0B w)
def execEngLoada (c : CoreId) (w : CmdWord) (s : State) : Out := .next (s.command c 0x10 w)
def execEngStreamb (c : CoreId) (w : CmdWord) (s : State) : Out := .next (s.command c 0x11 w)
def execEngTile (c : CoreId) (w : CmdWord) (s : State) : Out := .next (s.command c 0x12 w)
def execEngCopyout (c : CoreId) (w : CmdWord) (s : State) : Out := .next (s.command c 0x13 w)
def execEngSplit (c : CoreId) (w : CmdWord) (s : State) : Out := .next (s.command c 0x15 w)
def execEngSave (c : CoreId) (w : CmdWord) (s : State) : Out := .next (s.command c 0x16 w)
def execEngRestore (c : CoreId) (w : CmdWord) (s : State) : Out := .next (s.command c 0x17 w)
def execEngFlags (c : CoreId) (w : CmdWord) (s : State) : Out := .next (s.command c 0x18 w)
def execEngScales (c : CoreId) (w : CmdWord) (s : State) : Out := .next (s.command c 0x19 w)
def execVecChain (c : CoreId) (w : CmdWord) (s : State) : Out := .next (s.command c 0x30 w)
def execVecStream (c : CoreId) (w : CmdWord) (s : State) : Out := .next (s.command c 0x31 w)
def execVecFlags (c : CoreId) (w : CmdWord) (s : State) : Out := .next (s.command c 0x32 w)
def execDmaArm (c : CoreId) (w : CmdWord) (s : State) : Out := .next (s.command c 0x60 w)
def execDmaAppend (c : CoreId) (w : CmdWord) (s : State) : Out := .next (s.command c 0x61 w)
def execDmaWait (c : CoreId) (w : CmdWord) (s : State) : Out := .next (s.command c 0x62 w)
def execDmaStake (c : CoreId) (w : CmdWord) (s : State) : Out := .next (s.command c 0x63 w)
def execDmaChstat (c : CoreId) (w : CmdWord) (s : State) : Out := .next (s.command c 0x64 w)

end Sys2Proof.Machine
end

