-- ==== Sys2Proof/Machine/Repair.lean ====
section
/-!
DEFINITION. Slots and their repair: the fused image (R466), the mapping registers (R15, R19), replay and failure of a slot (R468 to R471),
slow slots (R472), patrol scrub and frames (R474, R475).
-/
namespace Sys2Proof.Machine

/-! ### The fused image (R466, Table 19-1) -/

/-- The sixteen fields of a cluster, logical engine e of local core c at 4 c + e. -/
abbrev Fields := List Nat

def goodSlots (bad : BitVec 144) (k : Nat) : List Nat := (List.range 18).filter fun i => !bad.getLsbD (18 * k + i)

/-- SH-9640: each bad home slot, in ascending order, takes the lowest good one among 16 and 17. -/
def fused9640 (good : List Nat) : Fields :=
  ((List.range 16).foldl (fun (p : Fields × List Nat) i =>
    if good.contains i then (p.1 ++ [i], p.2)
    else match p.2 with
      | [] => (p.1 ++ [31], [])
      | a :: as => (p.1 ++ [a], as)) ([], good.filter fun i => 16 ≤ i)).1

/-- SH-9632: up to three own good home slots per core, then shortfalls in core order from the unnamed, 16 and 17 first. -/
def fused9632 (good : List Nat) : Fields :=
  let own := (List.range 4).map fun c => (good.filter fun i => i / 4 == c && decide (i < 16)).take 3
  let free := (good.filter fun i => 16 ≤ i) ++ good.filter fun i => decide (i < 16) && !(own.flatten.contains i)
  ((own.foldl (fun (p : Fields × List Nat) o =>
    let n := 3 - o.length
    (p.1 ++ (o ++ p.2.take n ++ List.replicate (n - (p.2.take n).length) 31) ++ [31], p.2.drop n)) ([], free))).1

def fusedFields (p : Part) (k : Nat) : Fields :=
  if p.sh9632 then fused9632 (goodSlots p.badSlots k) else fused9640 (goodSlots p.badSlots k)

/-- The slot state that the fuses give (Tables 19-1 and 19-2). -/
def fusedState (p : Part) (k i : Nat) : SlotState :=
  let good := goodSlots p.badSlots k
  let named := fusedFields p k
  let unnamed := good.filter fun j => !named.contains j
  if !good.contains i then .fusedOff
  else if named.contains i then .active
  else if p.sh9632 then (if (unnamed.drop (unnamed.length - 2)).contains i then .spare else .fusedOff)
  else .spare

/-- The two map words that carry sixteen fields (Table 1-2). -/
def mapWord (f : Fields) : Dword := BitVec.ofNat 64 ((f.drop 4).foldr (fun v n => n * 32 + v % 32) 0)
def mapWord0 (f : Fields) : Dword := BitVec.ofNat 64 ((f.take 4).foldr (fun v n => n * 32 + v % 32) 0)

/-- The sixteen fields of two map words. -/
def fieldsOf (map map0 : Dword) : Fields := (List.range 16).map fun q => slotField map map0 (q / 4) (q % 4)

/-! ### Mapping -/

def State.liveFields (s : State) (k : ClusterId) : Fields := fieldsOf (s.clusters.get k).live (s.clusters.get k).live0

def coresOf (k : ClusterId) : List CoreId := (List.range 4).map fun c => Fin.ofNat 32 (k.val * 4 + c)

/-- The copies of logical engine 3 under a new number of backed slots: all hold what the run in execution holds (R233, R236,
R470). -/
def Ctx.rebase (x : Ctx) (backed : Nat) : Ctx :=
  if x.backed = backed then x
  else
    let g := x.engine 3
    let run := match g.queue with | q :: _ => q.run | [] => x.run
    let r := g.copy (runCopy x.backed 3 run)
    { x.setEngine 3 { g with res := Vector.replicate 3 r } with backed := backed }

/-- Commands of a core that issued and are to be reissued take the slots of the mapping in effect (R230, R469). -/
def State.reslot (s : State) (c : CoreId) : State :=
  s.modCtx c fun x => (List.range 4).foldl (fun x e => x.modEngine e fun g =>
    { g with queue := g.queue.map fun q => { q with slot := s.cmdSlot c e q.run } }) x

/-- Put fields of a cluster into effect: written and live words, and the contexts of its cores under them. The commands of those logical
engines whose slot changed are reissued on the new one (R469). -/
def State.setLive (s : State) (k : ClusterId) (f : Fields) : State :=
  let s := { s with clusters := s.clusters.set k { s.clusters.get k with map := mapWord f, map0 := mapWord0 f, live := mapWord f, live0 := mapWord0 f } }
  (coresOf k).foldl (fun s c => (s.modCtx c fun x => x.rebase (s.backed c)).reslot c) s

def slotId (k : ClusterId) (i : Nat) : SlotId := Fin.ofNat 144 (18 * k.val + i)
def State.slot (s : State) (i : SlotId) : SlotRec := s.slots.get i
def State.modSlot (s : State) (i : SlotId) (f : SlotRec → SlotRec) : State := { s with slots := s.slots.set i (f (s.slots.get i)) }

/-- One row down in Table 19-3: the last named slot takes the failed slot's engine and its field becomes 31; below two slots every field
does (DESIGN CHOICE, log 44). -/
def degrade (f : List Nat) (i : Nat) : List Nat :=
  let named := f.filter (· < 18)
  let last := named.getLastD 31
  let rest := (named.map fun j => if j = i then last else j).dropLast
  if rest.length < 2 then [31, 31, 31, 31] else rest ++ List.replicate (4 - rest.length) 31

/-- The payload of slot events (Table 19-7). -/
def slotPayload (loc core backed : Nat) (lag : Half) : List Byte :=
  leBytes 2 loc ++ leBytes 1 core ++ leBytes 1 backed ++ leBytes 2 lag.toNat

/-- The configured carrier whose home cluster this is. -/
def State.homeCarrier (s : State) (k : ClusterId) : Option CarrierId :=
  allCarriers.find? fun c => (s.carrier c).cfg.isSome && (s.carrier c).home == k

/-- A core of a carrier that waits for it goes to it once it is free (R34, R471, R479). -/
def State.carrierTake (s : State) (c : CoreId) : State :=
  let k := s.core c
  if k.owner != .none || k.scrubbing || s.closedCore c then s
  else match allCarriers.find? fun q => (s.carrier q).cfg.isSome && ((s.carrier q).floor.contains c || ((s.carrier q).held && (s.carrier q).lift.contains c)) with
    | some q => s.setCore c { k with owner := .carrier q, ctx := { backed := s.backed c }, stopped := false, preempt := [], atPoint := false }
    | none => s

/-- A carrier needs a core: the rank on it is pre-empted, and a free core is taken (R34). -/
def State.claimCore (s : State) (c : CoreId) : State := (s.askPreempt c .claim).carrierTake c

/-- A core closed (R471): a floor core's place goes to the lowest lift core of its carrier that is open; the event of kind 0x06 names
the carrier of the home cluster, or none (log 44). -/
def State.coreClosed (s : State) (c : CoreId) : State :=
  let cl : ClusterId := Fin.ofNat 8 (c.val / 4)
  let s := match (s.core c).owner with
    | .carrier _ => s.setCore c { s.core c with owner := .none, ctx := {} }
    | _ => s
  let s := match s.homeCarrier cl with
    | some q =>
      if (s.carrier q).floor.contains c then
        match (s.carrier q).lift.find? fun l => !s.closedCore l with
        | some l =>
          (s.modCarrier q fun x => { x with floor := x.floor.filter (· != c) ++ [l], lift := x.lift.filter (· != l) }).claimCore l
        | none => s.modCarrier q fun x => { x with floor := x.floor.filter (· != c) }
      else s
    | none => s
  let id := match s.homeCarrier cl with | some q => q.val | none => 0xFF
  s.healthEvent 0x06 stSparesExhausted (leBytes 1 c.val ++ leBytes 1 id)

/-- A slot that failed or retired gives up its logical engine: the lowest field spare of the cluster takes it, or the core moves down one
row of Table 19-3; the events of R469 and R472. -/
def State.remapSlot (s : State) (k : ClusterId) (i : Nat) : State :=
  let f := s.liveFields k
  match f.findIdx? (· == i) with
  | none => s
  | some q =>
    let c : CoreId := Fin.ofNat 32 (k.val * 4 + q / 4)
    let spare := (List.range 18).find? fun j => (s.slot (slotId k j)).state == .spare
    let f' := match spare with
      | some j => f.set q j
      | none => f.take (q / 4 * 4) ++ degrade ((f.drop (q / 4 * 4)).take 4) i ++ f.drop (q / 4 * 4 + 4)
    let s : State := s.setLive k f'
    let s : State := match spare with
      | some j => s.modSlot (slotId k j) fun (r : SlotRec) => { r with state := SlotState.active }
      | none => (List.range 18).foldl (fun (s : State) j =>
          if (s.slot (slotId k j)).state == .active && !f'.contains j then s.modSlot (slotId k j) fun r => { r with state := .spare } else s) s
    let r := s.slot (slotId k i)
    let loc := match spare with | some j => (slotId k j).val | none => 0xFFFF
    let src := srcWord 1 (locSlot (slotId k i).val)
    let s := if r.state == .retired then s.event src 0x03 stEngineRetired (slotPayload loc c.val (s.backed c) r.lag)
      else s.event src 0x02 stEngineFault (slotPayload loc c.val (s.backed c) 0#16)
    if spare.isSome then s
    else
      let s := s.healthEvent 0x05 stSparesExhausted (leBytes 1 c.val ++ leBytes 1 (s.backed c))
      if s.closedCore c then s.coreClosed c else s

/-- Remap every failed or retired slot that a core still names, in ascending order (R482). -/
def State.remapCore (s : State) (c : CoreId) : State :=
  let k : ClusterId := Fin.ofNat 8 (c.val / 4)
  (List.range 18).foldl (fun (s : State) i =>
    let mine := (((s.liveFields k).drop (c.val % 4 * 4)).take 4).contains i
    if mine && ((s.slot (slotId k i)).state == .failed || (s.slot (slotId k i)).state == .retired) then s.remapSlot k i else s) s

/-- Take a slot out of service: a rank's core is pre-empted first, any other core is remapped at once (R469, R472). -/
def State.dropSlot (s : State) (i : SlotId) (st : SlotState) : State :=
  let k : ClusterId := Fin.ofNat 8 (i.val / 18)
  let s := s.modSlot i fun r => { r with state := st, retireDue := false }
  let s := { s with health := if st == .failed then { s.health with failed := satInc16 s.health.failed } else { s.health with retired := satInc16 s.health.retired } }
  match (s.liveFields k).findIdx? (· == i.val % 18) with
  | none => s
  | some q =>
    let c : CoreId := Fin.ofNat 32 (k.val * 4 + q / 4)
    match (s.core c).owner with
    | .rank _ _ => s.askPreempt c .repair
    | _ => s.remapCore c

/-- ST_ENGINE_FAULT aborts of a slot in the last 24 h (Table 19-2). -/
def SlotRec.faults24h (r : SlotRec) (now : Nat) : Nat := min 255 (r.faultsAt.countP fun t => decide (now < t + 86400000000000))

/-- Count an abort of a slot. -/
def State.countFault (s : State) (i : SlotId) : State :=
  let s := { s with health := { s.health with faults := satInc32 s.health.faults } }
  s.modSlot i fun r => { r with faultsAt := (r.faultsAt.filter fun t => decide (s.nowNs < t + 86400000000000)) ++ [s.nowNs] }

/-- The job whose rank runs on a core, as events name it; 0 for none. -/
def State.ownerJob (s : State) (c : CoreId) : Word :=
  match (s.core c).owner with
  | .rank id _ => id
  | _ => 0#32

/-- A carrier holds the core that a slot serves: its retirement waits for the slot boundary (R472). -/
def State.carrierSlot (s : State) (i : SlotId) : Bool :=
  let k : ClusterId := Fin.ofNat 8 (i.val / 18)
  match (s.liveFields k).findIdx? (· == i.val % 18) with
  | some q => (match (s.core (Fin.ofNat 32 (k.val * 4 + q / 4))).owner with | .carrier _ => true | _ => false)
  | none => false

/-- LAG_WINDOW: a slot's window of 1 s ends (R472). -/
def execLagWindow (slot : SlotId) (busy freeze : Word) (s : State) : Out :=
  .next (if (s.slot slot).state != .active || decide (busy.toNat < 2 ^ 20) then s
    else
      let s := s.modSlot slot fun r => { r with lag := BitVec.ofNat 16 (min 10000 (freeze.toNat * 10000 / busy.toNat)) }
      if freeze.toNat * 100 ≤ busy.toNat * 3 then s
      else if s.carrierSlot slot then s.modSlot slot fun r => { r with retireDue := true }
      else (s.dropSlot slot .retired).resumeAll)

/-! ### The mapping registers (R15, R19) -/

/-- A core's fields that R19 calls an error: a reserved encoding, or a slot that the cluster names twice. -/
def fieldsBad (f : Fields) (lc : Nat) : Bool :=
  ((f.drop (4 * lc)).take 4).any fun v => decide (18 ≤ v ∧ v < 31) || (decide (v < 18) && decide (1 < f.count v))

/-- A logical engine stands at a tile boundary: none of its issued commands is a tile. A core that is held stands at one (R15, R19). -/
def State.atBoundary (s : State) (c : CoreId) (e : Nat) : Bool :=
  (s.core c).mapHeld || !((s.ctx c).engine e).queue.any (fun q => opcodeOf q.w == 0x12)

/-- What a cluster's written map does now: the field of a logical engine takes effect when the engine stands at a tile boundary; a core
whose fields are in error is held at the first boundary of one of its engines, and the cluster reported (R15, R19). -/
def State.applyMap (s : State) (k : ClusterId) : State :=
  let cl := s.clusters.get k
  let want := fieldsOf cl.map cl.map0
  let old := fieldsOf cl.live cl.live0
  let held := fun (lc : Nat) => fieldsBad want lc && (List.range 4).any (s.atBoundary (Fin.ofNat 32 (k.val * 4 + lc)))
  let live := (List.range 16).map fun q =>
    if fieldsBad want (q / 4) || !s.atBoundary (Fin.ofNat 32 (k.val * 4 + q / 4)) (q % 4) then old.getD q 31 else want.getD q 31
  let newly := (List.range 4).any fun lc => held lc && !(s.core (Fin.ofNat 32 (k.val * 4 + lc))).mapHeld
  let s := { s with clusters := s.clusters.set k { cl with live := mapWord live, live0 := mapWord0 live } }
  let s := (coresOf k).foldl (fun s c => (s.modCore c fun x => { x with mapHeld := held (c.val % 4) }).modCtx c fun x => x.rebase (s.backed c)) s
  let s := (List.range 18).foldl (fun (s : State) i => s.modSlot (slotId k i) fun r =>
    if r.state == .spare && live.contains i then { r with state := .active }
    else if r.state == .active && !live.contains i then { r with state := .spare } else r) s
  if newly then s.healthEvent 0x0B stEngineFault (leBytes 1 k.val) else s

/-- A written map that is not yet in effect goes on at a tile boundary of the cluster. -/
def State.mapStep (s : State) (c : CoreId) : State :=
  let cl := s.clusters.get (Fin.ofNat 8 (c.val / 4))
  if cl.map = cl.live ∧ cl.map0 = cl.live0 then s else s.applyMap (Fin.ofNat 8 (c.val / 4))

/-- CL_SPAREMAP or CL_SPAREMAP0 is written (R15, R19). -/
def execClSparemap (k : ClusterId) (companion : Bool) (v : Dword) (s : State) : Out :=
  .next (let cl := s.clusters.get k
    let cl := if companion then { cl with map0 := v &&& 0xFFFFF#64 } else { cl with map := v &&& 0x0FFFFFFFFFFFFFFF#64 }
    (({ s with clusters := s.clusters.set k cl }).applyMap k).resumeAll)

/-! ### Frames and patrol (R474, R475) -/

/-- A job holds bytes of a physical page: its core memory, or a page that its tables map. -/
def State.jobMaps (s : State) (j : Job) (a : Nat) : Bool :=
  j.phase == .running &&
    (match s.physKind a with
      | .core c => (s.core c).owner != .none && s.ownerJob c == j.id || j.ranks.any (fun r => r.saved.isSome && r.home == c)
      | _ => j.root != 0#42 && (s.pagesOf 4 0 j.root.toNat).any fun p => decide (p.1 ≤ a) && decide (a < p.1 + p.2))

/-- A DDR5 frame leaves allocation: at once, or when the job that maps it ends (R475). -/
def State.frameOut (s : State) (a : Nat) : State :=
  if !isDdr a then s
  else match s.jobs.find? fun j => s.jobMaps j a with
    | some j => s.modJob j.id fun j => if j.retire.contains (a / 65536) then j else { j with retire := j.retire ++ [a / 65536] }
    | none => s.retireFrame (a / 65536)

/-- One corrected error of a DDR5 word: counted, and the sixteenth of its frame in 24 h takes the frame out (R475). -/
def State.corrected (s : State) (die : Fin 2) (a : Nat) : State :=
  let s := { s with health := { s.health with eccCorr := satInc64 s.health.eccCorr } }
  let d := s.dies.get die
  let recent := d.corrAt.filter fun p => decide (s.nowNs < p.2 + 86400000000000)
  let s := { s with dies := s.dies.set die { d with corrAt := recent ++ [(a / 65536, s.nowNs)] } }
  if recent.countP (fun p => p.1 == a / 65536) + 1 = 16 then s.frameOut a else s

/-- PATROL_SCRUB: the patrol has read a die's populated DDR5 and written back the words it corrected (R474). -/
def execPatrolScrub (die : Fin 2) (corrected : List PhysAddr) (s : State) : Out :=
  .next (corrected.foldl (fun s a => if s.onDdr die.val a.toNat then s.corrected die a.toNat else s) s)

end Sys2Proof.Machine
end

