-- ==== Sys2Proof/Machine/Send.lean ====
section
/-!
DEFINITION. Sends of finished tiles (R159 to R162), the stop of a core's units at a preemption point (R179, R206, R229, R230), the save area
(R231, Table 9-5), and what a core that is to be struck can still do (R223).
-/
namespace Sys2Proof.Machine

/-! ### Sends (R159 to R161) -/

/-- A descriptor for the transfer of a finished tile: one row, local to virtual. -/
def sendDesc (t : SendTile) : List Byte :=
  leBytes 1 0 ++ leBytes 1 2 ++ leBytes 2 0 ++ leBytes 4 t.len ++ leBytes 8 t.src ++ leBytes 8 (t.dst % 2 ^ 48) ++ leBytes 8 0 ++ leBytes 8 0
    ++ leBytes 4 1 ++ List.replicate 20 0#8

/-- How the transfer of a send tile stands. -/
inductive SendEnd where
  | accepted
  | waits
  | fault (va : Nat)
  | err (st : Half)
deriving DecidableEq, Repr

/-- The messages of a send tile to another package are still to be acknowledged. -/
def State.unaccepted (s : State) (ms : List Nat) : Bool := ms.any fun n => s.trail.unacked.any fun m => m.num == n

/-- The transfer of the running operation's oldest send tile goes on as far as it can: to this package by the channel (R160), to another one
in messages that the destination accepts when it acknowledges them (R423, R428). -/
def State.sendOn (s : State) (c : CoreId) (v : VecOp) (t : SendTile) : State × SendTile × SendEnd :=
  let pkg := peerPkg (chainOf v.blk).s2.raw
  if s.ownPkg c pkg then
    match State.transfer c { serial := v.serial, w := v.w, addr := 0#22, bytes := sendDesc t } [] (fun _ _ => false) (t.len + 3) s 0 t.sent with
    | (s, .done) => (s, { t with sent := t.len }, .accepted)
    | (s, .fault _ off va) => (s, { t with sent := off }, .fault va)
    | (s, .err _ off st) => (s, { t with sent := off }, .err st)
    | (s, .held _ off) => (s, { t with sent := off }, .waits)
  else
    match t.msgs, s.coreJob c with
    | some ms, _ => (s, t, if s.unaccepted ms then .waits else .accepted)
    | none, none => (s, t, .accepted)
    | none, some j =>
      let n := s.trail.nextNum
      let s := s.jobBytes j pkg (t.len / 4080 + 1) t.dst (s.readCore c t.src t.len)
      let ms := (List.range (s.trail.nextNum - n)).map (n + ·)
      (s, { t with msgs := some ms }, if ms.isEmpty then .accepted else .waits)

/-- Replace the oldest send tile of an operation. -/
def State.setSend (s : State) (c : CoreId) (serial : Nat) (t : SendTile) : State :=
  s.modVec c serial fun o => { o with sends := t :: o.sends.drop 1 }

/-- The sends of the running operation, one at a time in ascending tile order: each accepted tile is reported, the last one with the end of the
operation; a translation error ends the operation with its status and strikes the job (R31, R160, R202). `fuel` bounds the tiles. -/
def State.runSends (c : CoreId) : Nat → State → State
  | 0, s => s
  | fuel + 1, s =>
    match (s.ctx c).vec with
    | [] => s
    | v :: _ =>
      match v.sends with
      | [] => s
      | t :: rest =>
        let ch := chainOf v.blk
        if ((s.ctx c).chan (peerCh ch.s2.raw)).susp then s
        else
          match s.sendOn c v t with
          | (s, _, .accepted) =>
            let last := decide (ch.count ≤ t.ordinal + 1)
            let s := if last then s.dropVec c v.serial else s.modVec c v.serial fun o => { o with sends := rest }
            State.runSends c fuel (s.vecRecord c v.w t.ordinal last stOk t.cvt t.vec)
          | (s, _, .err st) => ((s.dropVec c v.serial).vecRecord c v.w t.ordinal true st 0#8 0#8).strikeCore c st
          | (s, t, _) => s.setSend c v.serial t

/-- All sends of a core that can go on. -/
def State.sendAll (s : State) (c : CoreId) : State :=
  match (s.ctx c).vec with
  | v :: _ => if v.sends.isEmpty then s else State.runSends c (v.sends.length) s
  | [] => s

/-- The transfer of a send tile reaches a granule that is not present: it stops there and its channel suspends (R161, R203). -/
def State.sendFault (s : State) (c : CoreId) (ch : Nat) : Option State :=
  match ((s.ctx c).chan ch).holder, (s.ctx c).vec with
  | some h, v :: _ =>
    if v.serial != h then none
    else match v.sends with
      | [] => none
      | t :: _ => match s.sendOn c v t with
        | (s, t, .fault va) => some ((s.setSend c h t).suspend c ch 0 t.sent va)
        | _ => none
  | _, _ => none

/-! ### Units (R223, R229) -/

/-- Some command of an engine or half can reach its completion point. -/
def State.engineGoes (s : State) (c : CoreId) (e : Nat) (up : Bool) : Bool :=
  let h := if up then 3#2 else if ((s.ctx c).engine e).split then 2#2 else 0#2
  ((s.fillEngine c e h).nextOn c e up).isSome

/-- The running vector operation can form its next tile, or has a tile to send. -/
def Ctx.vecGoes (x : Ctx) : Bool :=
  match x.vec with
  | [] => false
  | v :: _ => !v.sends.isEmpty || opcodeOf v.w == 0x31 || (opcodeOf v.w == 0x30 && chainGoes x v (chainOf v.blk))

/-- A channel can go on: it waits for a page, or its next unit waits for nothing. -/
def State.channelGoes (s : State) (c : CoreId) (ch : Nat) : Bool :=
  let h := (s.ctx c).chan ch
  h.susp || match s.runChannel c ch with
    | none => false
    | some (_, .held row off) => row != h.row.toNat || off != h.offset.toNat
    | some _ => true

/-- Some issued command of a core can still reach its completion point by itself. -/
def State.coreGoes (s : State) (c : CoreId) : Bool :=
  (List.range 4).any (fun e => s.engineGoes c e false || s.engineGoes c e true) || (s.ctx c).vecGoes || (List.range 8).any (s.channelGoes c)

/-- Every issued command of a job has completed, or waits for what can no longer happen (R223): nothing on its cores can go on, a core whose save
an ST_SCALE_SKEW abandoned stands still, and no saved rank has commands left. -/
def State.jobQuiet (s : State) (j : Job) : Bool :=
  allCores.all (fun c => match (s.core c).owner with
    | .rank id _ => id != j.id || ((s.core c).atPoint && j.stop == some stScaleSkew) || !s.coreGoes c
    | _ => true)
  && j.ranks.all fun r => match r.saved with
    | some x => x.idle
    | none => true

/-! ### The stop of a core's units (R179, R206, R229, R230) -/

/-- What has started runs to its boundary before the preemption point: a faulted tile and its replay, the copy-outs of finished tiles, and the tile
of a chain whose inputs are there. -/
def State.mustFinish (s : State) (c : CoreId) : Bool :=
  let x := s.ctx c
  x.engines.toList.any (fun g => g.queue.any fun q => q.faulted
    && !(decide (q.slot < 18) && (s.slot (slotId (Fin.ofNat 8 (c.val / 4)) q.slot)).state == .failed))
  || (List.range 4).any (fun e => [false, true].any fun up => match s.nextOn c e up with
    | some q => opcodeOf q.w == 0x13
    | none => false)
  || match x.vec with
    | v :: _ => opcodeOf v.w == 0x30 && !(chainOf v.blk).src && chainGoes x v (chainOf v.blk)
    | [] => false

/-- The end of a descriptor with a translation error: its units before the error stand, its record carries the status, the channel goes on with
the next one, and the job is struck (R202, Table 8-8); a carrier is not struck. -/
def State.descFail (s : State) (c : CoreId) (ch row off : Nat) (st : Half) : State :=
  match ((s.ctx c).chan ch).descs with
  | [] => s
  | d :: _ =>
    let s := s.setProgress c ch row off
    let s := s.modCtx c fun x => (x.modChan ch fun h => h.pop st).dropPegs d.serial
    let s := s.complete c d.w { recDma c ch with status := st }
    s.strikeCore c st

/-- A position of a transfer at which a 4 KiB granule of an endpoint begins, in transfer order (R206): a row's first byte, or the first byte of
a granule of a virtual endpoint, of the destination where both are local (log 88). -/
def granuleEdge (d : List Byte) (row off : Nat) : Bool :=
  off == 0 || (ddSrcSp d && (ddSrc d + row * ddSrcStride d + off) % 4096 == 0)
    || ((ddDstSp d || !ddSrcSp d) && (ddDst d + row * ddDstStride d + off) % 4096 == 0)

/-- A running channel stops at its next granule boundary: how far it has come by then is timing, a free value (R206, log 88). -/
def State.stopChannel (s : State) (c : CoreId) (ch : Nat) : State :=
  let h := (s.ctx c).chan ch
  match h.descs with
  | [] => s
  | d :: _ =>
    if h.susp then s
    else
      let (v, s) := s.draw
      let n := v.toNat % (ddRows d.bytes * ddRowLen d.bytes + 1)
      let stop := fun row off => decide (n ≤ row * ddRowLen d.bytes + off) && granuleEdge d.bytes row off
      match State.transfer c d ((s.ctx c).writesBefore d.serial) stop (ddFuel d.bytes) s h.row.toNat h.offset.toNat with
      | (t, .done) => State.descEnd c ch 5 t
      | (t, .held row off) => t.setProgress c ch row off
      | (t, .fault row off va) => t.suspend c ch row off va
      | (t, .err row off st) => t.descFail c ch row off st

/-- Every channel of a core stops, and all its pegs are released (R179, R230). -/
def State.stopUnits (s : State) (c : CoreId) : State :=
  let s := (List.range 8).foldl (fun s ch => s.stopChannel c ch) s
  s.modCtx c fun x => { x with shed := x.pegs, pegs := [], seen := [] }

/-- The local ranges that an issued vector operation has left to read and write, from its next tile on (R136, R138). -/
def VecOp.ranges (v : VecOp) : List Range :=
  if bypassOf v.w then []
  else if opcodeOf v.w = 0x30 then
    (let ch := chainOf v.blk
     (chainReads ch v.hdr v.next).map (fun r => (false, r)) ++ (chainWrites ch v.hdr v.next).map (fun r => (true, r)))
  else if opcodeOf v.w = 0x31 then
    (let d := streamOf v.blk
     (streamReads d v.next).map (fun r => (false, r)) ++ (streamWrites d v.hdr v.next).map (fun r => (true, r)))
  else []

/-- The local ranges that a descriptor has left from a position (R190, R205). -/
def restRanges (d : List Byte) (row off : Nat) : List Range :=
  (if ddOp d != 1 && !ddSrcSp d then [(false, restSpan (ddSrc d) (ddSrcStride d) (ddRowLen d) (ddRows d) row off)] else [])
    ++ (if !ddDstSp d then [(true, restSpan (ddDst d) (ddDstStride d) (ddRowLen d) (ddRows d) row off)] else [])

/-- The pegs that a resumed context takes again: of its engine commands those they had, of its vector operations and channels those of what is
left (R205, R230). A send tile is sent again from its first byte (R161). -/
def Ctx.retake (x : Ctx) : Ctx :=
  let again := fun (v : VecOp) => { v with sends := v.sends.map fun t => { t with sent := 0, msgs := none } }
  let x := { x with pegs := x.shed.filter (fun p => decide (p.owner.toNat < 6)), shed := [], vec := x.vec.map again }
  let x := x.vec.foldl (fun x v => x.takePegs v.serial 6 0#2 v.ranges) x
  (List.range 8).foldl (fun x ch =>
    let h := x.chan ch
    (h.descs.mapIdx fun i d => (i, d)).foldl (fun x p =>
      if bypassOf p.2.w then x
      else x.takePegs p.2.serial (8 + ch) 0#2 (if p.1 = 0 then restRanges p.2.bytes h.row.toNat h.offset.toNat else ddRanges p.2.bytes)) x) x

/-! ### The save area (R231, Table 9-5) -/

def saveAreaBytes : Nat := 0x90000
def saveEngine (e : Nat) : Nat := 0x2000 + 0x21100 * e

/-- The save area lies in die memory. -/
def State.saveAreaOk (s : State) (a : Nat) : Bool :=
  (match s.physKind a with | .die _ => true | _ => false) && (match s.physKind (a + saveAreaBytes - 1) with | .die _ => true | _ => false)

/-- The image of a part as it stands (R59). -/
def Engine.image (g : Engine) (half : BitVec 2) (copy : Nat) : List Byte :=
  let p := g.part half
  imageOf { serial := 0, w := 0#128, half := half, mode := p.mode, pair := p.pair, grp := p.grp } g.split (g.copy copy)

/-- The images of an engine: whole, or of both halves. -/
def Engine.images (g : Engine) (copy : Nat) : List Byte :=
  if g.split then g.image 2#2 copy ++ g.image 3#2 copy else g.image 0#2 copy

/-- The commands of a context that issued and have not completed, in issue order: each once. -/
def Ctx.pendingCmds (x : Ctx) : List (Nat × CmdWord) :=
  let all := (x.engines.toList.flatMap fun g => g.queue.map fun q => (q.serial, q.w)) ++ x.vec.map fun v => (v.serial, v.w)
  all.eraseDups.mergeSort fun a b => decide (a.1 ≤ b.1)

/-- The sections of a save area whose layout Table 9-5 gives, by offset. What it names without a layout is free (log 89). -/
def saveSections (x : Ctx) (backed : Nat) : List (Nat × List Byte) :=
  [(0x400, x.sregs.toList.flatMap fun v => leBytes 8 v.toNat),
   (0x600, (x.pendingCmds.take 64).flatMap fun p => leBytes 16 p.2.toNat),
   (0xA00, leBytes 4 x.veFlags.toNat)]
  ++ ((List.range 8).map fun ch => (0xC00 + 384 * ch, (x.chan ch).descs.flatMap (·.bytes)))
  ++ [(saveStakes, x.stakes.toList.flatMap fun v => leBytes 4 v.toNat)]
  ++ (List.range 4).flatMap fun e =>
    let g := x.engine e
    [(saveEngine e, g.images (runCopy backed e x.run)),
     (saveEngine e + 0x9100, g.aBuf.slice 0 65536),
     (saveEngine e + 0x19100, g.lo.fifo.flatMap (·.bytes)),
     (saveEngine e + 0x19100 + 0x4000, g.up.fifo.flatMap (·.bytes))]

/-- Write the save area of a context at an address. -/
def State.writeSave (s : State) (a : Nat) (x : Ctx) (backed : Nat) : State :=
  let free := fun (s : State) (off n : Nat) => let (bs, s) := s.drawBytes n; s.writePhys (a + off) bs
  let s := (s.erasePhys a saveAreaBytes)
  let s := free (free (free s 0 1024) 0xA04 508) 0xC00 3072
  let s := (List.range 4).foldl (fun s e => free s (saveEngine e + 0x9080) 128) s
  (saveSections x backed).foldl (fun s p => s.writePhys (a + p.1) p.2) s

end Sys2Proof.Machine
end

