-- ==== Sys2Proof/Machine/Compute.lean ====
section
/-!
DEFINITION. What happens on cores beside issue: completions (Table 2-7, R133, R187, R192), aborts (R56, R94), page faults (R203 to
R205), placement (R226), preemption, save and resume (R228 to R234), strike and scrub (R476 to R479).
-/
namespace Sys2Proof.Machine

/-! ### Completions and aborts -/

/-- After a completion: the vector queue's head settles, a written map takes effect at a tile boundary, and waiting commands try again. -/
def State.after (s : State) (c : CoreId) : State := ((((State.settleVec c 8 s).mapStep c).sendAll c).resumeIssue c).wakeWaits

/-- Corrected A-buffer errors of a tile: counted for its slot and in health (R56, R473, Table 19-2). -/
def State.countCorr (s : State) (c : CoreId) (q : EngCmd) (n : Half) : State :=
  if n = 0#16 || opcodeOf q.w != 0x12 then s
  else
    let s := { s with health := { s.health with eccCorr := BitVec.ofNat 64 (min (2 ^ 64 - 1) (s.health.eccCorr.toNat + n.toNat)) } }
    if q.slot < 18 then
      s.modSlot (slotId (Fin.ofNat 8 (c.val / 4)) q.slot) fun r => { r with corr := BitVec.ofNat 16 (min 65535 (r.corr.toNat + n.toNat)) }
    else s

/-- A tile that awaits its replay stands on a slot that has failed: it completes after the repair (R469). -/
def State.awaitsRepair (s : State) (c : CoreId) (q : EngCmd) : Bool :=
  q.faulted && decide (q.slot < 18) && (s.slot (slotId (Fin.ofNat 8 (c.val / 4)) q.slot)).state == .failed

/-- The command of an engine or half that reaches its completion point next. -/
def State.nextDone (s : State) (c : CoreId) (e : Nat) (up : Bool) : Option EngCmd :=
  (s.fillEngine c e (if up then 3#2 else if ((s.ctx c).engine e).split then 2#2 else 0#2)).nextOn c e up

/-- ENGINE_COMMAND_COMPLETE: the next command of an engine or half reaches its completion point; `corr` is how many single-bit A-buffer errors
its tile corrected. -/
def execEngineCommandComplete (c : CoreId) (le : Fin 4) (upper : Bool) (corr : Half) (s : State) : Out :=
  .next (if !s.unitsRun c then s else
    match s.nextDone c le.val upper, s.engineDone c le.val upper with
    | some q, some t => if s.awaitsRepair c q then s else (t.countCorr c q corr).after c
    | _, _ => s)

/-- TILE_ABORT: the next tile of an engine or half fails its scale tags (R56, R94). -/
def execTileAbort (c : CoreId) (le : Fin 4) (upper : Bool) (s : State) : Out :=
  .next (if !s.unitsRun c then s else
    match s.skewedTile c le.val upper with
    | some (q, group, side) => (s.abortTile c le.val q group side).after c
    | none => s)

/-- VECTOR_TILE_COMPLETE: the running vector operation writes its next tile (R133); a tile of a send entry completes when its destination has
accepted it (R160), and may do so while the next one is formed (Table 6-6). -/
def execVectorTileComplete (c : CoreId) (s : State) : Out :=
  .next (if !s.unitsRun c then s else
    match s.vecStep c with
    | some t => (t.sendAll c).after c
    | none => if (s.ctx c).vec.all (fun v => v.sends.isEmpty) then s else (s.sendAll c).after c)

/-- DESCRIPTOR_COMPLETE: a channel's descriptor is served to its last byte, ends with an error, or is served in part up to a unit that
waits (R180, R185, R187, R192, R195); on a channel that a send operation holds, its transfer goes on (R160). -/
def execDescriptorComplete (c : CoreId) (ch : Fin 8) (s : State) : Out :=
  .next (if ((s.ctx c).chan ch.val).susp || !s.unitsRun c then s else
    match s.runChannel c ch.val with
    | some (t, .done) =>
      let d := (((s.ctx c).chan ch.val).descs.head?.map (·.bytes)).getD []
      ((State.descEnd c ch.val 5 (t.countMerges d)).resumeAll).checkSusp c
    | some (t, .err row off st) => (t.descFail c ch.val row off st).resumeAll
    | some (t, .held row off) => t.setProgress c ch.val row off
    | some (_, .fault ..) => s
    | none => if ((s.ctx c).chan ch.val).holder.isSome then (s.sendAll c).after c else s)

/-! ### Page faults -/

/-- The core runs a carrier's work, whose pages are pinned (R207, R242). -/
def State.pinned (s : State) (c : CoreId) : Bool := match (s.core c).owner with | .carrier _ => true | _ => false

/-- PAGE_FAULT: a transfer reaches a granule on a not-present page and suspends at its progress point (R203); a core that waits is
pre-empted (R205). -/
def execPageFault (c : CoreId) (ch : Fin 8) (s : State) : Out :=
  .next (if ((s.ctx c).chan ch.val).susp || !s.unitsRun c || s.pinned c then s else
    match s.runChannel c ch.val with
    | some (t, .fault row off va) => (t.suspend c ch.val row off va).checkSusp c
    | some _ => s
    | none => match s.sendFault c ch.val with
      | some t => t.checkSusp c
      | none => s)

/-- The leaf that a virtual address maps to under a root: its first byte and bytes. -/
def State.leafOf (s : State) (va : Nat) : Nat → Nat → Nat → Option (Nat × Nat)
  | 0, _, _ => none
  | n + 1, lv, table =>
    let e := leNat (s.readPhys (table + 8 * (va / 2 ^ levelShift lv % levelEntries lv)) 8)
    if pteBad lv e || !e.testBit 0 then none
    else if e.testBit 1 then some (ptePa e, 2 ^ levelShift lv)
    else s.leafOf va n (lv + 1) (ptePa e)

/-- Present in a job's tables. -/
def State.mapped (s : State) (root : PhysAddr) (va : Nat) : Bool :=
  match s.walk (va % 2 ^ 48) false 4 0 root.toNat with
  | .fault => false
  | _ => true

/-- A channel goes on once its page is there. -/
def Channel.release (h : Channel) (f : Nat → Bool) : Channel := if h.susp && f h.faultVa.toNat then { h with susp := false, cond := 0#16 } else h
def Ctx.releaseChans (x : Ctx) (f : Nat → Bool) : Ctx := { x with chans := vmap x.chans fun h => h.release f }

/-- A channel of a job, on a core or saved, is suspended on a granule. -/
def State.suspendedOn (s : State) (id : Word) (f : Nat → Bool) : Bool :=
  let hit := fun (x : Ctx) => x.chans.toList.any fun h => h.susp && f h.faultVa.toNat
  (allCores.any fun c => (match (s.core c).owner with | .rank i _ => i == id | _ => false) && hit (s.ctx c))
    || (match s.job id with
        | some j => j.ranks.any fun r => match r.saved with | some x => hit x | none => false
        | none => false)

/-- FAULT_RESOLUTION: the firmware maps a page, zeroed when it is not a bulk object's, and every channel of the job that waited for
it goes on (R204). -/
def execFaultResolution (job : Word) (va : VirtAddr) (ptes : List (PhysAddr × Dword)) (s : State) : Out :=
  .next (match s.job job with
    | none => s
    | some j =>
      let same := fun a => a / 4096 == va.toNat / 4096
      if j.phase != .running || !s.suspendedOn job same then s
      else
        let t : State := ptes.foldl (fun t p => t.writePhys p.1.toNat (leBytes 8 p.2.toNat)) s
        if !t.mapped j.root va.toNat then s
        else
          let t : State := match t.leafOf (va.toNat % 2 ^ 48) 4 0 j.root.toNat with
            | some (pa, n) =>
              if t.host.objects.any fun o => decide (o.base ≤ pa) && decide (pa < o.base + o.size) then t else t.erasePhys pa n
            | none => t
          let ok := fun a => t.mapped j.root a
          let t := { t with cores := vmap t.cores fun (k : Core) => match k.owner with
            | .rank i _ => if i == job then { k with ctx := k.ctx.releaseChans ok } else k
            | _ => k }
          (t.modJob job fun j => { j with
            faults := j.faults + 1#32,
            ranks := j.ranks.map fun r => { r with saved := r.saved.map fun x => x.releaseChans ok } }).resumeAll)

/-- PAGE_UNRESOLVED: a fault is not resolved within the policy's limit and the job is struck (R204). -/
def execPageUnresolved (job : Word) (s : State) : Out :=
  .next (if s.suspendedOn job (fun _ => true) then (s.strikeJob job stPageUnresolved).resumeAll else s)

/-! ### Placement (R214, R226) -/

/-- DM_PTROOT of a job's tables (Table 8-11). -/
def ptRootWord (id : Word) (root : PhysAddr) : Dword := BitVec.ofNat 64 (id.toNat % 65536 * 2 ^ 48 + root.toNat / 4096 * 4096)

/-- A rank starts on a core: its image in memory, fresh registers, its entry address (R214, R215). -/
def State.startRank (s : State) (j : Job) (root : PhysAddr) (r : Nat) (c : CoreId) (image : List Byte) : State :=
  let k := s.core c
  let rk := j.ranks[r]?
  let x : Ctx := { pc := (rk.map (·.entry)).getD 0, backed := s.backed c }
  let s := s.setCore c { k with owner := .rank j.id r, ctx := x, ahead := [], ptRoot := ptRootWord j.id root, discardKib := 0#32, faults := 0#16,
                                conflictWait := 0#16, fullWait := 0#16, stopped := false, preempt := [], atPoint := false }
  (s.writeCore c 0 image).wakeFor c

/-- The bytes of a read-only binding go to the same virtual addresses of another job package (R427). -/
def State.copyBind (s : State) (j : Job) (pkg : Nat) (b : Bind) : State :=
  match s.object b.obj with
  | some o => if b.writable then s else s.jobBytes j pkg (o.size / 4080 + 1) b.va.toNat (s.readPhys o.base o.size)
  | none => s

/-- What a placement tells the other packages (R426, R427): a job package tells its lead that its ranks are placed; the lead copies the
read-only bindings and starts the ranks everywhere. -/
def State.tellPlaced (s : State) (j : Job) : State :=
  if j.lead.isSome then s.jobMessage j 1 (.ready (s.refOf j) j.ix) [] 2#2
  else
    let s := (List.range (j.pkgs - 1)).foldl (fun s i => j.binds.foldl (fun s b => s.copyBind j (i + 2) b) s) s
    s.toOthers j fun _ => .start (s.refOf j)

/-- JOB_PLACE: the firmware starts every rank of the next job that fits at once, on free cores of its choice, with its page tables
and the images of its bundle (R226). -/
def execJobPlace (cores : List CoreId) (root : PhysAddr) (ptes : List (PhysAddr × Dword)) (images : List (List Byte)) (s : State) : Out :=
  .next (match s.nextPlaced with
    | none => s
    | some j =>
      let fits := cores.length == j.ranks.length && cores.eraseDups.length == cores.length && cores.all s.coreFree
        && (List.zip j.ranks cores).all (fun p => s.rankFits p.1 p.2) && images.all (fun b => decide (b.length ≤ Config.coreMemBytes))
        && root.toNat % 4096 == 0
      if !fits then s
      else
        let s := ptes.foldl (fun s p => s.writePhys p.1.toNat (leBytes 8 p.2.toNat)) s
        let now := s.nowNs
        let s := s.modJob j.id fun j => { j with
          phase := .running, root := root, since := some now, held := cores, go := j.lead.isNone,
          ranks := List.zipWith (fun (r : Rank) c => { r with core := some c, home := c }) j.ranks cores }
        ((cores.mapIdx fun r c => (r, c)).foldl (fun s p => s.startRank j root p.1 p.2 (images.getD p.1 [])) s).tellPlaced j)

/-! ### Preemption (R228 to R234) -/

/-- PREEMPTION_POINT: every unit of a core that is to be pre-empted has stopped; what has not started stays pending, its pegs released (R179,
R206, R229, R230), and failed slots of the core are remapped (R469). -/
def execPreemptionPoint (c : CoreId) (s : State) : Out :=
  .next (let k := s.core c
    if k.preempt.isEmpty || k.atPoint || s.mustFinish c then s
    else
      let t := s.stopUnits c
      let k := t.core c
      if k.preempt.isEmpty then t.resumeAll else ((t.setCore c { k with atPoint := true }).remapCore c).resumeAll)

/-- Close a job's time on cores when its last rank leaves them. -/
def Job.pause (j : Job) (now : Nat) : Job :=
  if j.ranks.any (fun r => r.core.isSome) then j else { j with runNs := j.runtime now, since := none }

/-- A save area that the firmware may take: in die memory, apart from those in use. -/
def State.areaFree (s : State) (a : Nat) : Bool :=
  s.saveAreaOk a && !s.jobs.any fun j => j.ranks.any fun r => r.saved.isSome && spansMeet r.area saveAreaBytes a saveAreaBytes

/-- An abort with ST_SCALE_SKEW stopped the job of a core: its save is abandoned (Table 9-8). -/
def State.skewed (s : State) (id : Word) : Bool := match s.job id with | some j => j.stop == some stScaleSkew | none => false

/-- SAVE_COMPLETE: the rank's state is in its save area, whose place the firmware chose, its memory stays on the core, and the core is free
(R231, R232). -/
def execSaveComplete (c : CoreId) (area : PhysAddr) (s : State) : Out :=
  .next (let k := s.core c
    match k.owner with
    | .rank id r =>
      if !k.atPoint || !s.areaFree area.toNat || s.skewed id then s
      else
        let now := s.nowNs
        let s := s.writeSave area.toNat k.ctx (s.backed c)
        let s := s.modJob id fun j =>
          ({ j.modRank r fun q => { q with saved := some k.ctx, core := none, home := c, area := area.toNat } with
             preemptions := j.preemptions + 1#32 }).pause now
        (s.setCore c { k with owner := .none, ctx := {}, preempt := [], atPoint := false }).carrierTake c
    | _ => s)

/-- Move the memory of a rank to another core, and clear it where it was (R233; the clearing is DEDUCED from R479, log 42). -/
def State.moveMem (s : State) (a b : CoreId) (n : Nat) : State :=
  let src := coreAddr a 0
  let dst := coreAddr b 0
  let part := (s.mem.filter fun p => decide (src ≤ p.1) && decide (p.1 < src + n)).map fun p => (p.1 - src + dst, p.2)
  let m := s.mem.erase src n
  { s with mem := m.filter (fun p => decide (p.1 < dst)) ++ part ++ m.filter fun p => decide (dst + n ≤ p.1) }

/-- A saved rank may resume: the host does not hold it, and its cluster's claims leave the core (R228, R233). A rank of a job that a rejection
stopped resumes too, for its pending commands (R223). -/
def State.mayResume (s : State) (j : Job) (q : Rank) (c : CoreId) : Bool :=
  j.phase == .running && !j.suspended && q.saved.isSome && coreDie q.home == coreDie c && s.rankFits q c
    && (if q.home = c then (let k := s.core c
          k.owner == .none && !s.liftHeld c && !s.isFloor c && !s.closedCore c && s.clusterUp c && !k.mapHeld && !k.scrubbing)
        else s.coreFree c)

/-- RESUME: a saved rank goes on, on its core or on another free core of the die (R233). -/
def execResume (job : Word) (rank : Fin 32) (c : CoreId) (s : State) : Out :=
  .next (match s.job job with
    | none => s
    | some j =>
      match j.ranks[rank.val]? with
      | none => s
      | some q =>
        match q.saved with
        | none => s
        | some x =>
          if !s.mayResume j q c then s
          else
            let s := if q.home = c then s else s.moveMem q.home c q.footprint
            let now := s.nowNs
            let s := s.modJob job fun j => { j.modRank rank.val fun q => { q with saved := none, core := some c, home := c } with
              since := j.since.orElse fun _ => some now, held := if j.held.contains c then j.held else j.held ++ [c] }
            let k := s.core c
            let s := s.setCore c { k with owner := .rank job rank.val, ctx := (x.rebase (s.backed c)).retake, ptRoot := ptRootWord job j.root,
                                          stopped := q.ended || j.stop.isSome, preempt := [], atPoint := false }
            ((s.reslot c).wakeFor c).resumeAll)

/-! ### Strike and scrub -/

/-- STRIKE: the firmware ends a job that a rejection or an abort stopped, with its status, once nothing that it issued can still complete (R223,
R224, R477). -/
def execStrike (job : Word) (status : Half) (s : State) : Out :=
  .next (match s.job job with
    | none => s
    | some j => if j.phase == .running && j.stop == some status && s.jobQuiet j then (s.strikeJob job status).resumeAll else s)

/-- Zero a region of an ended job (Table 19-5); a core whose slots failed meanwhile is remapped before its reuse (Table 19-8). -/
def State.scrubRegion (s : State) (j : Job) (r : ScrubRegion) : State :=
  match r with
  | .coreMem => j.held.foldl (fun s c =>
      (((s.erasePhys (coreAddr c 0) Config.coreMemBytes).modCore c fun k => { k with scrubbing := false }).remapCore c).carrierTake c) s
  | .dieMem => (j.pages.filter fun p => !isDdr p.1).foldl (fun s p => s.erasePhys p.1 p.2) s
  | .ddrFrames => (j.pages.filter fun p => isDdr p.1).foldl (fun s p => s.erasePhys p.1 p.2) s
  | .saveArea => j.ranks.foldl (fun s r => if r.area = 0 then s else s.erasePhys r.area saveAreaBytes) s
  | _ => s

/-- SCRUB_COMPLETE: a region of an ended job is zero and back in use; the last one is reported (R478, R479). -/
def execScrubComplete (job : Word) (region : ScrubRegion) (s : State) : Out :=
  .next (match s.job job with
    | none => s
    | some j =>
      if !j.scrub.contains region then s
      else
        let s := s.scrubRegion j region
        let rest := j.scrub.filter (· != region)
        let s := s.modJob job fun j => { j with scrub := rest }
        if rest.isEmpty then s.healthEvent 0x0A stOk (leBytes 4 job.toNat) else s)

end Sys2Proof.Machine
end

