-- ==== Sys2Proof/Machine/Signal.lean ====
section
/-!
DEFINITION. Numbers of the radio chains: powers of ten and unit vectors from fixed-point values that are far more exact than any result
needs (log 36), exact and FP32 complex values (each bracket formed exactly, then rounded once: R46, R113), and the discrete Fourier
transform of R299 and R301.
-/
namespace Sys2Proof.Machine

/-! ### Powers of ten -/

/-- ln 10. -/
def fxLn10 : Nat := 3 * fxLn2 + 2 * fxAtanh 1 9

/-- The FP32 value nearest to 10^(n / d), for |n / d| below 100. -/
def pow10 (n : Int) (d : Nat) : Word :=
  let e := fxExp (n.natAbs * fxLn10 / d)
  fxRound false (if n < 0 then fxOne * fxOne / e else e)

/-! ### Unit vectors -/

/-- Unit of the fixed-point trigonometric values. -/
def trOne : Nat := 2 ^ 128

/-- Alternating sum of p / (2k + 1), p divided by m² from term to term. -/
def trAtanSum (m2 : Nat) : Nat → Nat → Nat → Int
  | 0, _, _ => 0
  | fuel + 1, k, p => ((p / (2 * k + 1) : Nat) : Int) - trAtanSum m2 fuel (k + 1) (p / m2)

/-- atan(1 / m). -/
def trAtan (m : Nat) : Int := trAtanSum (m * m) 48 0 (trOne / m)

/-- π by Machin's formula. -/
def trPi : Nat := (16 * trAtan 5 - 4 * trAtan 239).toNat

/-- cos x and sin x: the Taylor terms x^k / k! by k mod 4. -/
def trSum (x : Nat) : Nat → Nat → Nat → Int × Int
  | 0, _, _ => (0, 0)
  | fuel + 1, k, term =>
    let (c, s) := trSum x fuel (k + 1) (term * x / trOne / (k + 1))
    let t : Int := term
    match k % 4 with
    | 0 => (c + t, s)
    | 1 => (c, s + t)
    | 2 => (c - t, s)
    | _ => (c, s - t)

/-- Exact complex values. -/
abbrev CV := FV × FV

def fvZero : FV := .fin false 0 0
def cvZero : CV := (fvZero, fvZero)

/-- A fixed-point value of the trigonometric unit. -/
def trVal (v : Int) : FV := .fin (v < 0) v.natAbs (-128)

/-- e^(2πi × num / den): a quarter turn exactly, the rest by the Taylor sum. -/
def cis (num : Int) (den : Nat) : CV :=
  let n := (num % (den : Int)).toNat * 4
  let (c, s) := trSum (trPi * (n % den) / (2 * den)) 48 0 trOne
  match n / den with
  | 0 => (trVal c, trVal s)
  | 1 => (trVal (-s), trVal c)
  | 2 => (trVal (-c), trVal (-s))
  | _ => (trVal s, trVal (-c))

def cvAdd (a b : CV) : CV := (a.1.add b.1, a.2.add b.2)
def cvSub (a b : CV) : CV := (a.1.sub b.1, a.2.sub b.2)
def cvMul (a b : CV) : CV := ((a.1.mul b.1).sub (a.2.mul b.2), (a.1.mul b.2).add (a.2.mul b.1))
def cvConj (a : CV) : CV := (a.1, a.2.neg)
def cvScale (k : FV) (a : CV) : CV := (k.mul a.1, k.mul a.2)
def cvSum (l : List CV) : CV := l.foldl cvAdd cvZero
/-- |a|². -/
def cvPower (a : CV) : FV := (a.1.mul a.1).add (a.2.mul a.2)
def cvOfInt (z : Int × Int) : CV := (FV.ofInt z.1, FV.ofInt z.2)

/-- A finite value rounded to the nearest integer, ties to even, and saturated to `w` bits; NaN gives 0. -/
def fvInt (w : Nat) (x : FV) : Int :=
  let lo : Int := -(2 ^ (w - 1) : Nat)
  let hi : Int := (2 ^ (w - 1) : Nat) - 1
  match x with
  | .nan => 0
  | .inf neg => if neg then lo else hi
  | .fin neg m e => max lo (min hi (rneInt neg m e))

/-- Both lanes rounded to CI16 and saturated. -/
def cvInt16 (a : CV) : Int × Int := (fvInt 16 a.1, fvInt 16 a.2)

/-! ### FP32 complex values -/

abbrev CW := Word × Word

def cwVal (a : CW) : CV := (f32 a.1, f32 a.2)
def cwOf (a : CV) : CW := (rne32 a.1, rne32 a.2)
def cwZero : CW := (0#32, 0#32)
def cwAdd (a b : CW) : CW := (fadd a.1 b.1, fadd a.2 b.2)
def cwSub (a b : CW) : CW := (fsub a.1 b.1, fsub a.2 b.2)
/-- Each bracket exact, then one rounding, as CMUL forms it (R113). -/
def cwMul (a b : CW) : CW := cwOf (cvMul (cwVal a) (cwVal b))
def cwConj (a : CW) : CW := (a.1, fneg a.2)
def cwScale (k : Word) (a : CW) : CW := (fmul k a.1, fmul k a.2)
def cwSum (l : List CW) : CW := l.foldl cwAdd cwZero
def fsum (l : List Word) : Word := l.foldl fadd 0#32
/-- |a|², rounded once. -/
def cwPower (a : CW) : Word := rne32 (cvPower (cwVal a))

/-! ### The transform -/

/-- 1 / √n. -/
def invSqrt (n : Nat) : FV := .fin false (isqrt (2 ^ 256 / n)) (-128)

/-- Output k of the transform of a list of n values, with e^(±2πi k m / n) and normalised by 1 / √n (R286). -/
def dftAt (inverse : Bool) (xs : List CV) (k : Int) : CV :=
  let n := xs.length
  cvScale (invSqrt n) (cvSum (xs.mapIdx fun m x => cvMul x (cis ((if inverse then 1 else -1) * k * (m : Int)) n)))

end Sys2Proof.Machine
end

