-- ==== Sys2Proof/Machine/Coding.lean ====
section
/-!
DEFINITION. The coding of TS 38.212 and TS 38.211 that both directions of a carrier share (R6, R256, R258, R261, R278 to R280): CRCs,
segmentation, the LDPC code, rate matching, bit interleaving, scrambling, modulation and layer mapping. The shift values of the two base
graphs and the tables of polar coding stand in TS 38.212 and not in the spec: uninterpreted tables of Config (log 100).
-/
namespace Sys2Proof.Machine

/-! ### Bits -/

/-- The bits of a byte string, the most significant bit of each byte first (PRESUMED, log 101). -/
def bitsOfBytes (bs : List Byte) : List Bool := bs.flatMap fun b => (List.range 8).map fun i => b.getLsbD (7 - i)

/-- A number from its bits, the most significant first. -/
def natOfBits (l : List Bool) : Nat := l.foldl (fun n b => 2 * n + (if b then 1 else 0)) 0

/-- The `n` low bits of a number, the most significant first. -/
def bitsOfNat (n v : Nat) : List Bool := (List.range n).map fun i => v.testBit (n - 1 - i)

/-- Bytes from bits, the first bit of each eight the most significant (log 101). -/
def bytesOfBits : Nat → List Bool → List Byte
  | 0, _ => []
  | n + 1, l => BitVec.ofNat 8 (natOfBits ((l ++ List.replicate 8 false).take 8)) :: bytesOfBits n (l.drop 8)

def xorBits (a b : List Bool) : List Bool := List.zipWith (fun x y => x != y) a b

/-! ### CRCs (TS 38.212 5.1) -/

/-- One step of an `n`-bit CRC register. -/
def crcStep (n poly : Nat) (r : Nat) (b : Bool) : Nat :=
  let top := r.testBit (n - 1) != b
  (2 * r % 2 ^ n) ^^^ (if top then poly else 0)

/-- The parity bits of a CRC from register `init`, the highest power first. -/
def crcFrom (n poly init : Nat) (l : List Bool) : List Bool := bitsOfNat n (l.foldl (crcStep n poly) init)

def crc24a (l : List Bool) : List Bool := crcFrom 24 0x864CFB 0 l
def crc24b (l : List Bool) : List Bool := crcFrom 24 0x800063 0 l
def crc24c (init : Nat) (l : List Bool) : List Bool := crcFrom 24 0xB2B117 init l
def crc16 (l : List Bool) : List Bool := crcFrom 16 0x1021 0 l
def crc11 (l : List Bool) : List Bool := crcFrom 11 0x621 0 l
def crc6 (l : List Bool) : List Bool := crcFrom 6 0x21 0 l

/-- A transport block's CRC: CRC-24A above 3,824 bits, else CRC-16. -/
def tbCrc (l : List Bool) : List Bool := if 3824 < l.length then crc24a l else crc16 l

/-! ### Segmentation, base graph and lifting size (TS 38.212 6.2.2, 5.2.2) -/

/-- Base graph 2 serves a block of `a` bits at a code rate of r / 1,024. -/
def useBg2 (a r : Nat) : Bool := decide (a ≤ 292) || (decide (a ≤ 3824) && decide (100 * r ≤ 67 * 1024)) || decide (4 * r ≤ 1024)

/-- The lifting sizes with their set index, in ascending size. -/
def liftSizes : List (Nat × Nat) :=
  (List.range 385).filterMap fun z =>
    (([2, 3, 5, 7, 9, 11, 13, 15].mapIdx fun i a => (i, a)).find? fun q => (List.range 8).any fun j => q.2 * 2 ^ j == z).map fun q => (z, q.1)

/-- How a transport block is coded: base graph, code blocks, bits of each with its CRC (K'), lifting size and set, information columns. -/
structure CodeParams where
  bg2    : Bool
  blocks : Nat
  kp     : Nat
  z      : Nat
  set    : Nat
deriving DecidableEq, Repr

def CodeParams.infoCols (c : CodeParams) : Nat := if c.bg2 then 10 else 22
def CodeParams.cols (c : CodeParams) : Nat := if c.bg2 then 52 else 68
def CodeParams.rows (c : CodeParams) : Nat := if c.bg2 then 42 else 46
/-- Information bits with fillers, and coded bits after the punctured columns. -/
def CodeParams.k (c : CodeParams) : Nat := c.infoCols * c.z
def CodeParams.n (c : CodeParams) : Nat := (c.cols - 2) * c.z

/-- The parameters of a block of `tbs` bytes at a code rate of r / 1,024. -/
def codeParams (tbs r : Nat) : CodeParams :=
  let a := 8 * tbs
  let b := a + (if 3824 < a then 24 else 16)
  let bg2 := useBg2 a r
  let kcb := if bg2 then 3840 else 8448
  let c := if b ≤ kcb then 1 else (b + kcb - 24 - 1) / (kcb - 24)
  let total := if c = 1 then b else b + 24 * c
  let kp := (total + c - 1) / c
  let kb := if !bg2 then 22 else if 640 < b then 10 else if 560 < b then 9 else if 192 < b then 8 else 6
  let (z, set) := (liftSizes.find? fun q => decide (kp ≤ kb * q.1)).getD (384, 1)
  { bg2 := bg2, blocks := c, kp := kp, z := z, set := set }

/-- The code blocks of a transport block: its bits and CRC cut into equal parts, each with its own CRC when there are several. -/
def segments (c : CodeParams) (tb : List Bool) : List (List Bool) :=
  let b := tb ++ tbCrc tb
  if c.blocks ≤ 1 then [b]
  else (List.range c.blocks).map fun r => (let s := (b.drop (r * (c.kp - 24))).take (c.kp - 24); s ++ crc24b s)

/-! ### The LDPC code (TS 38.212 5.3.2) -/

/-- The edges of a row of the base graph: column and shift, columns ascending. -/
def CodeParams.edges (c : CodeParams) (row : Nat) : List (Nat × Nat) :=
  (List.range c.cols).filterMap fun col => (Config.ldpcShift c.bg2 row col c.set).map fun v => (col, v % c.z)

/-- The parity check of row `row`, position `r`, over the bits of all columns. -/
def CodeParams.check (c : CodeParams) (bit : Nat → Bool) (row r : Nat) : Bool :=
  (c.edges row).foldl (fun p e => p != bit (e.1 * c.z + (r + e.2) % c.z)) false

/-- Elimination of one unknown from equations over GF(2), each a mask of unknowns with the right side in bit `n`: the pivot, if there is
one, goes to the front of the solved ones. -/
def gfStep (st : List (Nat × Nat) × List Nat) (j : Nat) : List (Nat × Nat) × List Nat :=
  match st.2.find? (·.testBit j) with
  | none => st
  | some p =>
    let clear := fun (q : Nat) => if q.testBit j then q ^^^ p else q
    ((j, p) :: st.1.map fun q => (q.1, clear q.2), (st.2.erase p).map clear)

/-- The solution of equations in `n` unknowns; an unknown that no equation fixes is 0. -/
def gfSolve (n : Nat) (eqs : List Nat) : Nat → Bool :=
  let (solved, _) := (List.range n).foldl gfStep ([], eqs)
  fun j => match solved.find? (fun q => q.1 == j) with
    | some q => q.2.testBit n
    | none => false

/-- The coded bits of a code block: information bits with filler bits (none), then the parity bits that meet every check, without the first
2Z bits. -/
def ldpcEncode (c : CodeParams) (block : List Bool) : List (Option Bool) :=
  let k := c.k
  let info := fun i => block.getD i false
  let n := c.rows * c.z
  let eqs := (List.range c.rows).flatMap fun row => (List.range c.z).map fun r =>
    (c.edges row).foldl (fun m e =>
      let i := e.1 * c.z + (r + e.2) % c.z
      if i < k then (if info i then m ^^^ 2 ^ n else m) else m ^^^ 2 ^ (i - k)) 0
  let par := gfSolve n eqs
  ((List.range (c.cols * c.z)).map fun i => if i < c.kp then some (info i) else if i < k then none else some (par (i - k))).drop (2 * c.z)

/-! ### Rate matching (TS 38.212 5.4.2) -/

/-- The start of redundancy version `rv`, in bits. -/
def CodeParams.rvStart (c : CodeParams) (rv : Nat) : Nat :=
  (if c.bg2 then [0, 13, 25, 43] else [0, 17, 33, 56]).getD rv 0 * c.z

/-- The filler positions of the circular buffer. -/
def CodeParams.filler (c : CodeParams) (i : Nat) : Bool := decide (c.kp ≤ i + 2 * c.z) && decide (i + 2 * c.z < c.k)

/-- Buffer positions of the `e` output bits of a redundancy version: the circular buffer from its start on without fillers. -/
def CodeParams.matchPos (c : CodeParams) (rv e : Nat) : List Nat :=
  let ok := ((List.range c.n).map fun i => (c.rvStart rv + i) % c.n).filter fun i => !c.filler i
  (List.range e).map fun j => ok.getD (j % max 1 ok.length) 0

/-- Output bits of each code block when `g` bits are transmitted on `layers` layers with `qm` bits a symbol. -/
def CodeParams.share (c : CodeParams) (g layers qm : Nat) : List Nat :=
  let u := max 1 (layers * qm)
  let m := g / u
  (List.range c.blocks).map fun r => u * (if r + m % c.blocks < c.blocks then m / c.blocks else (m + c.blocks - 1) / c.blocks)

/-- Source of output bit t of the interleaver over `e` bits: rows of e / qm bits read by columns (TS 38.212 5.4.2.2). -/
def interleavePos (e qm t : Nat) : Nat := t % qm * (e / qm) + t / qm

/-- The codeword of a transport block: segments, coded, matched, interleaved and joined (R278). -/
def encodeBlock (c : CodeParams) (tb : List Bool) (rv layers qm g : Nat) : List Bool :=
  (List.zip (segments c tb) (c.share g layers qm)).flatMap fun q =>
    let d := ldpcEncode c q.1
    let f := (c.matchPos rv q.2).map fun i => ((d.getD i none).getD false)
    (List.range q.2).map fun t => f.getD (interleavePos q.2 qm t) false

/-! ### Polar coding of the downlink (TS 38.212 5.3.1, 5.4.1) -/

/-- The polar transform of 2^n bits. -/
def polarMul : Nat → List Bool → List Bool
  | 0, u => u
  | n + 1, u => (let a := u.take (2 ^ n); let b := u.drop (2 ^ n); polarMul n (xorBits a b) ++ polarMul n b)

/-- The least n with v ≤ 2^n. -/
def ceilLog2 (v : Nat) : Nat := if v ≤ 1 then 0 else (v - 1).log2 + 1

/-- The exponent of the mother code for `k` bits in `e` coded bits, at most 9. -/
def polarExp (k e : Nat) : Nat :=
  let l := ceilLog2 e
  let n1 := if 8 * e ≤ 9 * 2 ^ (l - 1) ∧ 16 * k < 9 * e then l - 1 else l
  max 5 (min (min n1 (ceilLog2 (8 * k))) 9)

/-- The sub-block interleaver over 2^n bits. -/
def polarSub (n i : Nat) : Nat :=
  let p := [0, 1, 2, 4, 3, 5, 6, 7, 8, 16, 9, 17, 10, 18, 11, 19, 12, 20, 13, 21, 14, 22, 15, 23, 24, 25, 26, 28, 27, 29, 30, 31].getD (i / 2 ^ (n - 5)) 0
  p * 2 ^ (n - 5) + i % 2 ^ (n - 5)

/-- The positions that carry information: the `k` most reliable that rate matching leaves, ascending. -/
def polarInfo (n k e : Nat) : List Nat :=
  let full := 2 ^ n
  let cut := if full ≤ e then [] else if 16 * k ≤ 7 * e then
      (List.range (full - e)).map (polarSub n) ++ List.range (if 3 * full ≤ 4 * e then (3 * full - 2 * e + 3) / 4 else (9 * full - 4 * e + 15) / 16)
    else ((List.range full).drop e).map (polarSub n)
  let rest := ((List.range 1024).map Config.polarOrder).filter fun i => decide (i < full) && !cut.contains i
  let best := rest.drop (rest.length - k)
  (List.range full).filter fun i => best.contains i

/-- Polar encoding of bits with their CRC, interleaved, and rate matching to `e` bits. -/
def polarEncode (bits : List Bool) (e : Nat) : List Bool :=
  let k := bits.length
  let mix := ((List.range 164).map Config.polarMix).filter (164 - k ≤ ·)
  let c := mix.map fun m => bits.getD (m - (164 - k)) false
  let n := polarExp k e
  let info := polarInfo n k e
  let u := (List.range (2 ^ n)).map fun i => match info.findIdx? (· == i) with | some j => c.getD j false | none => false
  let d := polarMul n u
  let y := (List.range (2 ^ n)).map fun i => d.getD (polarSub n i) false
  let from_ := if 2 ^ n ≤ e ∨ 7 * e < 16 * k then 0 else 2 ^ n - e
  (List.range e).map fun i => y.getD ((i + from_) % 2 ^ n) false

/-! ### Scrambling (TS 38.211 5.2.1, 6.3.1.1, 7.3.1.1) -/

/-- One step of the two registers of the pseudo-random sequence. -/
def goldStep (x : Nat × Nat) : Nat × Nat :=
  let f := fun (v : Nat) (b : Bool) => v / 2 + (if b then 2 ^ 30 else 0)
  (f x.1 (x.1.testBit 3 != x.1.testBit 0), f x.2 (((x.2.testBit 3 != x.2.testBit 2) != x.2.testBit 1) != x.2.testBit 0))

def goldRun : Nat → Nat × Nat → List Bool
  | 0, _ => []
  | n + 1, x => (x.1.testBit 0 != x.2.testBit 0) :: goldRun n (goldStep x)

/-- `n` bits of the pseudo-random sequence of a c_init. -/
def gold (cinit n : Nat) : List Bool := (goldRun (1600 + n) (1, cinit % 2 ^ 31)).drop 1600

/-- c_init of a shared channel's data. -/
def dataInit (rnti nId : Nat) : Nat := rnti * 2 ^ 15 + nId

/-! ### Modulation (TS 38.211 5.1) -/

/-- The odd level of one axis from its bits. -/
def axisLevel : List Bool → Int
  | [] => 0
  | [b] => if b then -1 else 1
  | b :: bs => (if b then -1 else 1) * ((2 ^ bs.length : Nat) - axisLevel bs)

/-- The levels of both axes of a symbol of `qm` bits: even bits the first axis, odd bits the second. -/
def symbolLevels (bits : List Bool) : Int × Int :=
  let pick := fun o => ((List.range (bits.length / 2)).map fun i => bits.getD (2 * i + o) false)
  (axisLevel (pick 0), axisLevel (pick 1))

/-- The square of the norm of the levels: 2, 10, 42, 170. -/
def qamNorm (qm : Nat) : Nat := 2 * (2 ^ qm - 1) / 3

/-- RNE32(1,024 × a) of a level (R279). -/
def pointWord (qm : Nat) (l : Int) : Word :=
  let w := sqrtFrac (l.natAbs * l.natAbs * 2 ^ 20) (qamNorm qm) 0
  if l < 0 then fneg w else w

/-- RNE(1,024 × a) of a level (R255). -/
def pointInt (qm : Nat) (l : Int) : Int :=
  let v : Int := ((isqrt (4 * (l.natAbs * l.natAbs) * 2 ^ 20 / qamNorm qm) + 1) / 2 : Nat)
  if l < 0 then -v else v

/-- Point j of a constellation, the first bit of j the most significant, in CI16 (R157, R255); the two points of π/2-BPSK lie on both axes. -/
def pointCI (qm j : Nat) : Int × Int :=
  if qm = 1 then (let v : Int := if j = 0 then 724 else -724; (v, v))
  else (let l := symbolLevels (bitsOfNat qm j); (pointInt qm l.1, pointInt qm l.2))

/-- The symbols of a codeword as FP32 coordinates (R279). -/
def modulate (qm : Nat) (bits : List Bool) : List CW :=
  (chunks qm (bits.length + 1) bits).map fun b => (let l := symbolLevels b; (pointWord qm l.1, pointWord qm l.2))

end Sys2Proof.Machine
end

