-- ==== Sys2Proof/Machine/Timing.lean ====
section
/-!
DEFINITION. The timing unit: device time and its tick (R377, R378), the PTP servo (R380 to R384), the transparent clock (R385, R386),
alarms (R387), PPS_OUT (R524).
-/
namespace Sys2Proof.Machine

/-! ### Registers -/

def tuStepLimit (ctl : Dword) : Nat := bitsOf ctl.toNat 48 16
def tuSlewMax (ctl : Dword) : Nat := bitsOf ctl.toNat 40 8
def tuLockThresh (ctl : Dword) : Nat := bitsOf ctl.toNat 24 16
def tuDomain (ctl : Dword) : Nat := bitsOf ctl.toNat 16 8
def tuPps (ctl : Dword) : Bool := ctl.getLsbD 5
def tuSyncePort (ctl : Dword) : Nat := bitsOf ctl.toNat 4 1
def tuSynceEn (ctl : Dword) : Bool := ctl.getLsbD 3
def tuTcEn (ctl : Dword) : Bool := ctl.getLsbD 2
def tuSlavePort (ctl : Dword) : Nat := bitsOf ctl.toNat 1 1
def tuSlaveEn (ctl : Dword) : Bool := ctl.getLsbD 0

def Servo.code : Servo → Nat
  | .freerun => 0
  | .locking => 1
  | .locked => 2
  | .holdover => 3

/-- TU_STAT (Table 15-4). -/
def tuStat (t : Timing) : Nat :=
  t.offset.toNat * 2 ^ 32 + t.epoch.toNat * 2 ^ 8 + (if t.synceLock then 4 else 0) + t.state.code

def State.anyCarrier (s : State) : Bool := allCarriers.any fun k => (s.carrier k).cfg.isSome
def State.modTime (s : State) (f : Timing → Timing) : State := { s with time := f s.time }

/-! ### The tick -/

/-- The part of an offset that one tick slews, at most slew_max ppm of the rate word (R383). -/
def slewStep (t : Timing) : Int :=
  let lim : Int := ((t.rate.toNat * tuSlewMax t.ctl / 1000000 : Nat) : Int)
  if t.slew < -lim then -lim else if lim < t.slew then lim else t.slew

def Timing.tick (t : Timing) : Timing :=
  let d := slewStep t
  { t with acc := t.acc + t.rate.setWidth 96 + BitVec.ofInt 96 d, slew := t.slew - d }

def isSlotMsg (typ : Half) : Bool := decide (0x0A20 ≤ typ.toNat ∧ typ.toNat ≤ 0x0A2A)

/-- One queued message leaves the device, slot messages first (R411). -/
def HostIf.drain (h : HostIf) : HostIf :=
  match h.txq.find? (fun m => isSlotMsg m.typ) with
  | some m => { h with txq := h.txq.erase m, sent := h.sent ++ [m] }
  | none =>
    match h.txq with
    | [] => h
    | m :: ms => { h with txq := ms, sent := h.sent ++ [m] }

/-- What happens while no command is waiting: the timing unit ticks while the Lantern domain has power (R461), and one message leaves
(log 8). -/
def State.tick (s : State) : State := { s with time := if s.lantern.powered then s.time.tick else s.time, host := s.host.drain }

/-! ### The servo -/

/-- time.event (Table 16-4). -/
def State.timeEvent (s : State) (kind old new alarm : Nat) (st : Half) : State :=
  s.notifyT1 0x0B04 st (leBytes 1 kind ++ leBytes 1 old ++ leBytes 1 new ++ [s.time.epoch] ++ leBytes 1 alarm ++ [0#8, 0#8, 0#8] ++ s.fullTime)

/-- Enter a servo state; a transition is reported (R382). -/
def State.setServo (s : State) (st : Servo) : State :=
  if s.time.state = st then s
  else
    let old := s.time.state.code
    let s := s.modTime fun t => { t with state := st, good := 0 }
    s.timeEvent 0 old st.code 0 (match st with | .holdover => stTimeHoldover | .freerun => stTimeFreerun | _ => stOk)

/-- The rate word that the servo's filter gives after a Sync, a free value within 200 ppm of nominal (Table 15-5, R383). -/
def State.servoRate (s : State) : State :=
  let (v, s) := s.draw
  let r := BitVec.ofNat 48 (Config.nominalRate - Config.rateSpan + v.toNat % (2 * Config.rateSpan + 1))
  s.modTime fun t => { t with rate := r, held := r }

/-- The slave is switched off: FREERUN at the nominal rate (Table 15-2). -/
def State.freeRun (s : State) : State :=
  (s.modTime fun t => { t with master := none, slew := 0, rate := BitVec.ofNat 48 Config.nominalRate }).setServo .freerun

/-- The selected master is lost: HOLDOVER at the held rate, the slew stops (R382, R384, R391). -/
def State.holdOver (s : State) : State :=
  (s.modTime fun t => { t with master := none, slew := 0, rate := t.held }).setServo .holdover

/-- TU_CTL is written: reserved bits stay 0 (R11). -/
def State.writeTuCtl (s : State) (v : Dword) : State :=
  let v := v &&& 0xFFFFFFFFFFFF003F#64
  let s := s.modTime fun t => { t with ctl := v, synceLock := t.synceLock && tuSynceEn v }
  if tuSlaveEn v then s else s.freeRun

def clampInt (lo hi v : Int) : Int := if v < lo then lo else if hi < v then hi else v

/-- The offset of a Sync in 2^-16 ns: its arrival less the master's time, its correction and the mean path delay. -/
def syncOffset (t : Timing) (origin correction ingress : Int) : Int := ingress - (origin + correction + t.delay)

/-- An offset above step_limit steps device time only in LOCKING and while no carrier is configured (R383). -/
def State.mayStep (s : State) (off : Int) : Bool :=
  s.time.state == .locking && tuStepLimit s.time.ctl != 0 && decide ((tuStepLimit s.time.ctl : Int) * 65536 < off.natAbs) && !s.anyCarrier

/-- SYNC: a Sync of the selected master with its times in 2^-16 ns (R382, R383). In LOCKED device time runs at the rate word alone (Table
15-2, log 78). -/
def execSync (port : Fin 2) (master : Dword) (origin correction ingress : Int) (s : State) : Out :=
  .next (let t := s.time
    if !tuSlaveEn t.ctl || port.val != tuSlavePort t.ctl || t.master != some master || (t.state != .locking && t.state != .locked) then s
    else
      let off := syncOffset t origin correction ingress
      let s := s.modTime fun t => { t with offset := BitVec.ofInt 32 (clampInt (-2147483648) 2147483647 (off / 65536)) }
      if s.mayStep off then
        let s := s.modTime fun t => { t with acc := BitVec.ofInt 96 ((t.acc.toNat : Int) - off * 65536), epoch := t.epoch + 1#8, slew := 0, good := 0 }
        (s.timeEvent 1 s.time.state.code s.time.state.code 0 stTimeStep).servoRate
      else
        let near := decide (off.natAbs ≤ tuLockThresh t.ctl * 65536)
        let s := s.modTime fun t => { t with slew := if t.state == .locking then -(off * 65536) else 0, good := if near then t.good + 1 else 0 }
        let s := s.servoRate
        if s.time.state == .locking && 16 ≤ s.time.good then (s.modTime fun t => { t with slew := 0 }).setServo .locked else s)

/-- ANNOUNCE: the BMCA's choice after an Announce on the slave port (R380, R382). -/
def execAnnounce (port : Fin 2) (best : Dword) (s : State) : Out :=
  .next (let t := s.time
    if !tuSlaveEn t.ctl || port.val != tuSlavePort t.ctl then s
    else match t.state with
      | .freerun | .holdover => (s.modTime fun t => { t with master := some best }).setServo .locking
      | _ => if t.master = some best then s else s.holdOver)

/-- DELAY_RESP: an end-to-end delay measurement completes; times in 2^-16 ns (R380). -/
def execDelayResp (port : Fin 2) (master : Dword) (t1 t2 t3 t4 correction : Int) (s : State) : Out :=
  .next (if !tuSlaveEn s.time.ctl || port.val != tuSlavePort s.time.ctl || s.time.master != some master then s
    else s.modTime fun t => { t with delay := ((t2 - t1) + (t4 - t3) - correction) / 2 })

/-- MASTER_LOSS: three announce intervals without the master (R382). -/
def execMasterLoss (s : State) : Out :=
  .next (match s.time.state with
    | .locking | .locked => s.holdOver
    | _ => s)

/-- ESMC: the quality level of the SyncE source port is reported and not acted on (R381). -/
def execEsmc (port : Fin 2) (ql : Byte) (s : State) : Out :=
  .next (if port.val = tuSyncePort s.time.ctl then s.modTime fun t => { t with ql := ql } else s)

/-- SYNCE_LOCK: SyncE gains or loses lock (R381). -/
def execSynceLock (locked : Bool) (s : State) : Out :=
  .next (if tuSynceEn s.time.ctl then s.modTime fun t => { t with synceLock := locked } else s)

/-! ### Transparent clock -/

/-- The largest correctionField, which a sum that overflows yields (R386). -/
def corrMax : Dword := 0x7FFFFFFFFFFFFFFF#64

/-- correctionField after the residence time is added (R386). -/
def addResidence (correction tIn tOut : Dword) : Dword :=
  if correction = corrMax then corrMax
  else
    let v := correction.toInt + ((tOut - tIn).toNat : Int)
    if corrMax.toInt < v then corrMax else BitVec.ofInt 64 v

/-- TRANSPARENT_CLOCK: a PTP frame passes to the other 100G port (R385). -/
def execTransparentClock (fromPort : Fin 2) (ptpVersion msgType : BitVec 4) (correction : BitVec 64) (tIn tOut : BitVec 64) (s : State) : Out :=
  .next (if !tuTcEn s.time.ctl then s
    else
      let c := if ptpVersion = 2#4 ∧ (msgType = 0#4 ∨ msgType = 1#4) then addResidence correction tIn tOut else correction
      s.modTime fun t => { t with forwarded := t.forwarded ++ [(1 - fromPort.val, c)] })

/-! ### Alarms and pulses -/

def Timing.alarm (t : Timing) (n : Fin 16) : Alarm := t.alarms.get n
def State.setAlarm (s : State) (n : Fin 16) (a : Alarm) : State := s.modTime fun t => { t with alarms := t.alarms.set n a }

/-- The low 40 bits of device time. -/
def State.now40 (s : State) : BitVec 40 := BitVec.ofNat 40 s.nowNs

/-- An armed alarm has reached its target (R387). -/
def State.alarmDue (s : State) (n : Fin 16) : Bool :=
  (s.time.alarm n).arm && decide (0 ≤ (s.now40 - (s.time.alarm n).target).toInt)

/-- TU_ALARM_LO: a write stages the low bits (R387). -/
def execTuAlarmLo (n : Fin 16) (v : Word) (s : State) : Out := .next (s.setAlarm n { s.time.alarm n with lo := v })

/-- TU_ALARM_HI: a write takes the staged low bits with its own, and arms or disarms (R387); a write of the reserved out 3 has no
effect. -/
def State.writeAlarmHi (s : State) (n : Fin 16) (v : Word) : State :=
  if bitsOf v.toNat 29 2 = 3 then s
  else
    let a := s.time.alarm n
    s.setAlarm n { a with target := v.setWidth 8 ++ a.lo, arm := v.getLsbD 31, out := BitVec.ofNat 2 (bitsOf v.toNat 29 2) }

def execTuAlarmHi (n : Fin 16) (v : Word) (s : State) : Out := .next (s.writeAlarmHi n v)

/-- ALARM_FIRE: arm is cleared, a record written, an output pulsed, and the host's alarms reported (R387). -/
def execAlarmFire (n : Fin 16) (s : State) : Out :=
  .next (if !s.alarmDue n then s
    else
      let a := s.time.alarm n
      let s := s.setAlarm n { a with arm := false }
      let s := s.event (srcWord 7 0) 0x20 stOk (leBytes 1 n.val)
      let s := if a.out = 1#2 then { s with pins := { s.pins with tuOut0 := s.pins.tuOut0 + 1 } }
        else if a.out = 2#2 then { s with pins := { s.pins with tuOut1 := s.pins.tuOut1 + 1 } } else s
      if n.val < 8 then s else s.timeEvent 2 s.time.state.code s.time.state.code n.val stOk)

/-- PPS_OUT rises at a whole second of device time (Table 15-3, R524). -/
def execPpsOut (s : State) : Out :=
  .next (if tuPps s.time.ctl then { s with pins := { s.pins with pps := s.pins.pps + 1 } } else s)

end Sys2Proof.Machine
end

