-- ==== Sys2Proof/Machine/Messages.lean ====
section
/-!
DEFINITION. Requests of the host (R395 to R407): which frames are discarded, authentication and the receive window, ports, tokens and
their memory, responses.
-/
namespace Sys2Proof

open Machine

/-! ### Frames (Table 16-1) -/

def Frame.mb (f : Frame) : Nat := f.mailbox.toNat % 16
def Frame.prot (f : Frame) : Bool := f.vflags.getLsbD 4

/-- Reserved bits, resp, unsol and status of a request's header are 0, and so is the tag of an unprotected one (R11, R419, Table 16-1, log 112). -/
def Frame.clean (f : Frame) : Bool :=
  f.vflags.toNat % 16 == 0 && f.mailbox.toNat < 16 && f.length.toNat < 2048 && f.status == 0#16 && (f.prot || f.tag == 0#128)

/-- The datagram is one that R395 and R397 accept: sizes agree, version 1, mailbox equal to the type's high byte. -/
def Frame.wellFormed (f : Frame) : Bool :=
  f.udpLen == 32 + f.length.toNat % 2048 && f.payload.length == f.length.toNat % 2048 && decide (f.payload.length ≤ 1408)
    && f.vflags.toNat / 32 == 1 && f.typ.toNat / 256 == f.mb

/-- Bytes 0x00 to 0x0F of the datagram (Table 16-1). -/
def Frame.head (f : Frame) : List Byte :=
  leBytes 1 f.vflags.toNat ++ leBytes 1 f.mailbox.toNat ++ leBytes 2 f.typ.toNat ++ leBytes 2 f.session.toNat ++ leBytes 2 f.length.toNat
    ++ leBytes 4 f.seq.toNat ++ leBytes 2 f.token.toNat ++ leBytes 2 f.status.toNat

/-- A field of the payload. -/
def Frame.nat (f : Frame) (off n : Nat) : Nat := fieldAt f.payload off n

/-- A frame's payload has exactly this length. -/
def Frame.len (f : Frame) (n : Nat) : Bool := f.payload.length == n
/-- Bytes of the payload are 0 (reserved fields). -/
def Frame.zero (f : Frame) (off n : Nat) : Bool := ((f.payload.drop off).take n).all (· == 0#8)

end Sys2Proof

namespace Sys2Proof.Machine

/-- Request types of Table 16-4. -/
def requestTypes : List Nat :=
  [0x0002, 0x0003, 0x0004, 0x0005, 0x0006, 0x0007, 0x0008, 0x0010, 0x0011, 0x0012, 0x0013, 0x0015,
   0x0101, 0x0102, 0x0103, 0x0104, 0x0105, 0x0106, 0x0107,
   0x0A01, 0x0A02, 0x0A03, 0x0A04, 0x0A06, 0x0A07, 0x0A0A, 0x0A0B, 0x0A0C, 0x0A0E, 0x0A0F, 0x0A10, 0x0A11, 0x0A12, 0x0A14,
   0x0A20, 0x0A28, 0x0A29, 0x0B01, 0x0B02, 0x0B03, 0x0C01, 0x0C02, 0x0C03, 0x0D01]

def isJobType (t : Nat) : Bool := decide (2 ≤ t / 256 ∧ t / 256 ≤ 9) && decide (1 ≤ t % 256 ∧ t % 256 ≤ 5)
def knownType (t : Nat) : Bool := requestTypes.contains t || isJobType t

end Sys2Proof.Machine

namespace Sys2Proof

/-- The frame belongs to a row of the message list: it carries the row's type, or one that no row has (R412, log 41). -/
def Frame.isRow (f : Frame) (t : Nat) : Bool := f.typ.toNat == t || !Machine.knownType f.typ.toNat
/-- A row of a job message: any job mailbox. -/
def Frame.isJobRow (f : Frame) (low : Nat) : Bool := (Machine.isJobType f.typ.toNat && f.typ.toNat % 256 == low) || !Machine.knownType f.typ.toNat

end Sys2Proof

namespace Sys2Proof.Machine

/-- Ports that Table 16-4 lists for a type. -/
def portAllowed (t : Nat) (p : Port) : Bool :=
  if [0x0011, 0x0013, 0x0A20, 0x0A28, 0x0A29].contains t then isPort100G p
  else if [0x0002, 0x0003, 0x0005, 0x0010, 0x0012, 0x0015, 0x0101, 0x0102, 0x0103, 0x0104].contains t then p == .host || isPort100G p
  else p == .host

/-! ### Authentication and the receive window (R396, R402) -/

/-- The tag of a protected frame verifies under the key and salt of its direction (R396). -/
def Session.tagOk (x : Session) (f : Frame) : Bool :=
  let iv := gcmNonce x.saltIn f.seq
  BitVec.ofNat 128 (Sha.beNat (gcmTag x.keyIn iv f.head (gcmCtr x.keyIn iv f.payload))) == f.tag

/-- A sequence number is new to a session (R402). -/
def Session.fresh (x : Session) (seq : Word) : Bool :=
  let h := x.rxHigh.toNat
  let q := seq.toNat
  if q = 0 then false
  else if h < q then true
  else if q = h ∨ q + 64 ≤ h then false
  else !x.rxSeen.getLsbD (h - q - 1)

/-- Take a new sequence number into the window. -/
def Session.take (x : Session) (seq : Word) : Session :=
  let h := x.rxHigh.toNat
  let q := seq.toNat
  if h < q then { x with rxHigh := seq, rxSeen := if h = 0 then 0#64 else ((x.rxSeen <<< 1) ||| 1#64) <<< (q - h - 1) }
  else { x with rxSeen := x.rxSeen ||| (1#64 <<< (h - q - 1)) }

/-- A claim session (R513): it has no key's roles. -/
def Session.claim (x : Session) : Bool := x.isOpen && x.roles == 0#8

/-- A frame of a session is authentic: the session is on that port, the tag verifies, the sequence number is new; before the session is
open only its confirmation with seq 1 counts (R396, R400, R402). -/
def Session.accepts (x : Session) (f : Frame) : Bool :=
  x.port == f.port && x.tagOk f && x.fresh f.seq && (x.isOpen || (f.typ == 0x0103#16 && f.seq == 1#32))

def State.discard (s : State) : State := { s with host := { s.host with discards := satInc32 s.host.discards } }

/-- Account for an authentic frame (R402, R403). -/
def State.touch (s : State) (f : Frame) : State := s.modSession f.session fun x => { x.take f.seq with last := s.nowNs }

/-! ### Responses (R404, R405) -/

/-- What a request comes to: its status, the payload of a response with ST_OK, the state, and what follows once the response is sent. -/
structure Reply where
  st      : Half := 0x0000#16
  payload : List Byte := []
  state   : State
  post    : State → State := id

def Reply.deny (st : Half) (s : State) : Reply := { st := st, state := s }
def Reply.ok (s : State) : Reply := { state := s }
/-- Answer with a status unless a condition holds. -/
def Reply.need (b : Bool) (st : Half) (s : State) (k : Reply) : Reply := if b then k else .deny st s

abbrev Handler := Option Session → Frame → State → Reply

/-- Send a response with the protection of its request. -/
def State.respond (s : State) (f : Frame) (st : Half) (payload : List Byte) : State :=
  let payload := if st = stOk then payload else []
  if f.prot then s.sendFrame f.session f.typ.toNat true false f.token st payload
  else
    let m : Msg := { port := f.port, session := 0#16, typ := f.typ, prot := false, resp := true, unsol := false, seq := 0#32,
                     token := f.token, status := st, payload := payload }
    { s with host := { s.host with txq := s.host.txq ++ [m.clear] } }

/-- Remember a request and its response; the last 128 of a mailbox stay (R405). -/
def Session.remember (x : Session) (mb : Nat) (token : Half) (m : Option Msg) : Session :=
  let mine := x.tokens.filter fun t => t.mailbox.toNat == mb
  let rest := x.tokens.filter fun t => t.mailbox.toNat != mb
  { x with tokens := rest ++ mine.drop (mine.length - 127) ++ [{ mailbox := BitVec.ofNat 4 mb, token := token, resp := m }] }

/-- The highest remembered token of a mailbox, by signed 16-bit difference. -/
def Session.topToken (x : Session) (mb : Nat) : Option Half :=
  (x.tokens.filter fun t => t.mailbox.toNat == mb).foldl (fun top t =>
    match top with
    | none => some t.token
    | some v => if 0 < (t.token - v).toInt then some t.token else some v) none

/-- A token 128 or more below the highest remembered one (R405). -/
def Session.stale (x : Session) (mb : Nat) (token : Half) : Bool :=
  match x.topToken mb with
  | some v => decide (128 ≤ (v - token).toInt)
  | none => false

/-- Requests of a session and mailbox whose responses are not sent yet (R398). -/
def State.outstanding (s : State) (sid : Half) (mb : Nat) : Nat :=
  s.host.txq.countP fun m => m.session == sid && m.resp && m.prot && m.typ.toNat / 256 == mb

/-- The firmware answers requests: after a boot, in a boot hold, or after a failed die authentication (R489, R510). -/
def State.answering (s : State) : Bool :=
  s.boot.phase == .running || s.boot.phase == .hold || s.boot.phase == .dieFail

/-- The requests that are answered in a boot hold, after a failed die authentication, and (with key.owner) in a claim session. -/
def alwaysServed (t : Nat) : Bool := [0x0002, 0x0101, 0x0003, 0x0105].contains t

/-- The outcome of a request that reaches its handler: header, type, port and boot checks come first (R397, R412, R419, R489, R510). -/
def State.judge (s : State) (x : Option Session) (f : Frame) (h : Handler) : Reply :=
  let t := f.typ.toNat
  .need f.clean stMsgInvalid s <|
  .need (knownType t) stMsgInvalid s <|
  .need (portAllowed t f.port) stPortWrong s <|
  .need (s.boot.phase != .hold || alwaysServed t) stPowerState s <|
  .need (s.boot.phase != .dieFail || alwaysServed t) stDieAuth s <|
  h x f s

/-- Answer a protected request that is neither a duplicate nor stale nor over the limit, and remember its response. -/
def State.answer (s : State) (x : Session) (f : Frame) (h : Handler) : State :=
  let r := s.judge (some x) f h
  let n := r.state.host.txq.length
  let s := r.state.respond f r.st r.payload
  let s := s.modSession f.session fun x => x.remember f.mb f.token (s.host.txq[n]?)
  r.post s

/-- A remembered request sends its response again, in a new frame (R405). -/
def State.resend (s : State) (f : Frame) (t : Token) : State :=
  match t.resp with
  | some m => s.respond f m.status m.payload
  | none => s

/-- The datagram reaches the device: IPv4 is off until net.configure gives the port an address (R393). -/
def State.reaches (s : State) (f : Frame) : Bool := !f.ipv4 || (s.host.net f.port).plen != 0#8

/-- A request of the host, from datagram to response (R395 to R406). -/
def State.request (s : State) (f : Frame) (h : Handler) : State :=
  if !s.answering || !s.reaches f then s
  else if !f.wellFormed || f.port == .guy then s.discard
  else if !f.prot then
    (if !(f.typ == 0x0002#16 || f.typ == 0x0101#16 || f.typ == 0x0102#16) || f.session != 0#16 then s.respond f stNoSession []
     else
       let r := s.judge none f h
       r.post (r.state.respond f r.st r.payload))
  else match s.session f.session with
    | none => s.discard
    | some x =>
      if !x.accepts f || (x.claim && !(alwaysServed f.typ.toNat || f.typ == 0x0107#16)) then s.discard
      else
        let s := s.touch f
        match x.tokens.find? fun t => t.mailbox.toNat == f.mb && t.token == f.token with
        | some t => s.resend f t
        | none =>
          if x.stale f.mb f.token then s.respond f stStaleToken []
          else if 64 ≤ s.outstanding f.session f.mb then s.respond f stMboxFull []
          else s.answer x f h

/-- A request row. -/
def State.row (s : State) (f : Frame) (t : Nat) (h : Handler) : State := if f.isRow t then s.request f h else s

/-- A slot message (R411): accepted under the session's protection on a 100G port, without a response; its token is ignored. -/
def State.slotFrame (s : State) (f : Frame) (t : Nat) (h : Frame → State → State) : State :=
  if f.typ.toNat != t then s
  else if s.boot.phase != .running || !s.reaches f then s
  else if !f.wellFormed || !isPort100G f.port then s.discard
  else if !f.prot then s.respond f stNoSession []
  else match s.session f.session with
    | none => s.discard
    | some x => if !x.accepts f || x.claim then s.discard else if !f.clean then s.touch f else h f (s.touch f)

end Sys2Proof.Machine
end

