-- ==== Sys2Proof/Machine/Cert.lean ====
section
/-!
DEFINITION. The certificates of Table 20-1 under the profile of R487, in the DER encoding of RFC 5280 and RFC 5480. What the profile leaves open
(attribute order and string types, the order of extensions) is a choice of log 113.
-/
namespace Sys2Proof.Machine

/-- The ASCII bytes of a string. -/
def ascii (s : String) : List Byte := s.toList.map fun c => BitVec.ofNat 8 c.toNat

/-! ### DER -/

/-- One element: tag, length in the shortest form, contents. -/
def der (tag : Byte) (c : List Byte) : List Byte :=
  let n := c.length
  tag :: ((if n < 128 then leBytes 1 n else if n < 256 then 0x81#8 :: leBytes 1 n else 0x82#8 :: beBytes 2 n) ++ c)

def derSeq (cs : List (List Byte)) : List Byte := der 0x30#8 cs.flatten
def derSet (cs : List (List Byte)) : List Byte := der 0x31#8 cs.flatten
def derOid (b : List Byte) : List Byte := der 0x06#8 b
def derOctets (b : List Byte) : List Byte := der 0x04#8 b
/-- A BIT STRING with a number of unused bits. -/
def derBits (unused : Byte) (b : List Byte) : List Byte := der 0x03#8 (unused :: b)

/-- A non-negative INTEGER from its big-endian bytes. -/
def derInt (b : List Byte) : List Byte :=
  let c := b.dropWhile (· == 0#8)
  der 0x02#8 (if c.isEmpty || (c.headD 0#8).getLsbD 7 then 0#8 :: c else c)

def oidEcdsaSha384 : List Byte := derOid [0x2A, 0x86, 0x48, 0xCE, 0x3D, 0x04, 0x03, 0x03]
def oidEcKey : List Byte := derOid [0x2A, 0x86, 0x48, 0xCE, 0x3D, 0x02, 0x01]
def oidBrainpool : List Byte := derOid [0x2B, 0x24, 0x03, 0x03, 0x02, 0x08, 0x01, 0x01, 0x0B]

/-! ### Names -/

def certName (i : Nat) : List Byte :=
  match i with
  | 0 => ascii "Kuaryo Shedun Root"
  | 1 => ascii "Kuaryo Shedun Device CA"
  | 2 => ascii "Shedun hub die"
  | 3 => ascii "Shedun compute die 0"
  | 4 => ascii "Shedun compute die 1"
  | _ => ascii "Shedun package"

/-- The issuer's index (Table 20-1). -/
def certIssuer (i : Nat) : Nat := if i ≤ 1 then 0 else if i = 5 then 2 else 1

/-- The last two letters of the subject's serialNumber attribute. -/
def certSuffix (i : Nat) : List Byte :=
  match i with
  | 2 => ascii "-H"
  | 3 => ascii "-0"
  | 4 => ascii "-1"
  | _ => ascii "-P"

/-- A number's 32 upper-case hexadecimal digits. -/
def hex32 (n : Nat) : List Byte :=
  (List.range 32).map fun i => let d := bitsOf n (4 * (31 - i)) 4; BitVec.ofNat 8 (if d < 10 then 0x30 + d else 0x37 + d)

/-- The distinguished name of certificate `i` in a package: its CN and, for indexes 2 to 5, the serialNumber attribute. -/
def certDn (i serial : Nat) : List Byte :=
  let cn := derSet [derSeq [derOid [0x55, 0x04, 0x03], der 0x0C#8 (certName i)]]
  let sn := derSet [derSeq [derOid [0x55, 0x04, 0x05], der 0x13#8 (hex32 serial ++ certSuffix i)]]
  derSeq (if 2 ≤ i then [cn, sn] else [cn])

/-! ### The profile -/

/-- basicConstraints of Table 20-1. -/
def certBasic (i : Nat) : List Byte :=
  let ca := der 0x01#8 [0xFF#8]
  match i with
  | 0 => derSeq [ca]
  | 1 => derSeq [ca, derInt [1]]
  | 2 => derSeq [ca, derInt [0]]
  | _ => derSeq []

/-- keyUsage of Table 20-1. -/
def certUsage (i : Nat) : List Byte :=
  match i with
  | 0 => derBits 2 [0x04]
  | 1 => derBits 2 [0x04]
  | 2 => derBits 2 [0x8C]
  | 5 => derBits 7 [0x80]
  | _ => derBits 3 [0x88]

/-- One extension, critical or not. -/
def certExt (oid : Byte) (critical : Bool) (v : List Byte) : List Byte :=
  derSeq ([derOid [0x55, 0x1D, oid]] ++ (if critical then [der 0x01#8 [0xFF#8]] else []) ++ [derOctets v])

/-- The signed part of certificate `i`: serialNumber, issuer, validity, subject, key, extensions (Table 20-1, R487). -/
def certTbs (i : Nat) (sn : List Byte) (serial : Nat) (key : List Byte) (keyId issuerId : Dword) (notBefore : List Byte) : List Byte :=
  derSeq [
    der 0xA0#8 (derInt [2]), derInt sn, derSeq [oidEcdsaSha384], certDn (certIssuer i) serial,
    derSeq [der 0x17#8 notBefore, der 0x18#8 (ascii "99991231235959Z")], certDn i serial,
    derSeq [derSeq [oidEcKey, oidBrainpool], derBits 0 key],
    der 0xA3#8 (derSeq [
      certExt 0x13 true (certBasic i), certExt 0x0F true (certUsage i), certExt 0x0E false (derOctets (leBytes 8 keyId.toNat)),
      certExt 0x23 false (derSeq [der 0x80#8 (leBytes 8 issuerId.toNat)])])]

/-- A certificate from its signed part and the signature r ‖ s. -/
def certOf (tbs sig : List Byte) : List Byte :=
  derSeq [tbs, derSeq [oidEcdsaSha384], derBits 0 (derSeq [derInt (sig.take 48), derInt (sig.drop 48)])]

/-- A positive 16-byte serialNumber out of random bytes. -/
def certSerial (b : List Byte) : List Byte := BitVec.ofNat 8 ((b.headD 0#8).toNat % 127 + 1) :: b.drop 1

end Sys2Proof.Machine
end

