-- ==== Sys2Proof/Machine/Security.lean ====
section
/-!
DEFINITION. Keys and attestation: signature blocks (R490 to R493), counters (R494, R495), the owner store (R496 to R499), measurements
(R500, R501), quotes (R502), certificates (R486), and the session handshake (R400, R513). Keys and nonces that the device
draws are free values (log 112).
-/
namespace Sys2Proof.Machine

/-! ### Identifiers and counters -/

def State.serialBytes (s : State) : List Byte := leBytes 16 s.part.serial.toNat
/-- The key identifier of a public key (R484). -/
def keyIdOf (key : List Byte) : Dword := BitVec.ofNat 64 (leNat ((Sha.sha384 key).take 8))
/-- The hub die's public key (R483). -/
def State.hubKey (s : State) : List Byte := eccPublic s.part.hubPriv.toNat
/-- The bind value of this package (Table 20-2). -/
def State.bindOf (s : State) : Nat := leNat ((Sha.sha384 s.serialBytes).take 8)

def Security.counter (c : Security) (n : Nat) : Nat := (c.counters[n % 64]'(Nat.mod_lt _ (by decide))).toNat
/-- Raise a counter; it never falls (R494, R495). -/
def Security.raise (c : Security) (n v : Nat) : Security :=
  { c with counters := c.counters.set (n % 64) (BitVec.ofNat 9 (min 256 (max v (c.counter n)))) (Nat.mod_lt _ (by decide)) }

def State.modSec (s : State) (f : Security → Security) : State := { s with security := f s.security }

/-- Extend a measurement register with a 48-byte digest (R500). -/
def State.extend (s : State) (n typ index : Nat) (digest : List Byte) : State :=
  let e := Sha.sha384 (leBytes 2 typ ++ leBytes 2 index ++ leBytes 4 0 ++ digest)
  s.modSec fun c =>
    let i := n % 16
    let r := c.regs[i]'(Nat.mod_lt _ (by decide))
    { c with
      regs := c.regs.set i (Sha.digest (beBytes 48 r.toNat ++ e)) (Nat.mod_lt _ (by decide))
      counts := c.counts.set i ((c.counts[i]'(Nat.mod_lt _ (by decide))) + 1#16) (Nat.mod_lt _ (by decide)) }

/-! ### Signature blocks (Table 20-2) -/

/-- The fields of a signature block. -/
structure SigBlock where
  kind    : Nat
  counter : Nat
  svn     : Nat
  floor   : Nat
  keyId   : Dword
  bind    : Nat
deriving DecidableEq, Repr

/-- The signature block at the end of an object of `n` bytes, `b` its last 128 bytes; none when it breaks Table 20-2. -/
def sigBlockOf (n : Nat) (b : List Byte) : Option SigBlock :=
  let svn := fieldAt b 8 2
  let fl := fieldAt b 0x0A 2
  let ctr := fieldAt b 6 1
  if 128 ≤ n ∧ b.length = 128 ∧ fieldAt b 0 4 = 0x4E474953 ∧ fieldAt b 4 1 = 1 ∧ fieldAt b 7 1 = 0 ∧ (ctr < 64 ∨ ctr = 0xFF)
      ∧ svn ≤ 256 ∧ fl ≤ svn ∧ fieldAt b 0x0C 4 = n - 128 ∧ n % 16 = 0 then
    some { kind := fieldAt b 5 1, counter := ctr, svn := svn, floor := fl, keyId := BitVec.ofNat 64 (fieldAt b 0x10 8), bind := fieldAt b 0x18 8 }
  else none

/-- The role bit that may sign a kind (Table 20-3, R496). -/
def roleOf (kind : Nat) : Nat := kind - 1

/-- The last `n` bytes of a byte string. -/
def lastBytes (b : List Byte) (n : Nat) : List Byte := b.drop (b.length - n)
/-- The signature block of an object. -/
def sigOf (obj : List Byte) : Option SigBlock := sigBlockOf obj.length (lastBytes obj 128)

/-- An installed owner key with a role. -/
def State.ownerKey (s : State) (id : Dword) (role : Nat) : Option OwnerKey :=
  s.security.owners.find? fun k => k.id == id && k.roles.getLsbD role

/-- The signature of an object verifies: it covers the object and bytes 0x00 to 0x1F of its block (R490). -/
def objSigOk (key obj : List Byte) : Bool := ecdsaOk key (obj.take (obj.length - 96)) (lastBytes obj 96)

/-- The first failed check of R493 for an owner's object, its signature block at its end; ST_OK when it is accepted. -/
def State.checkSigned (s : State) (kind : Nat) (obj : List Byte) : Half :=
  match sigOf obj with
  | none => stMsgInvalid
  | some k =>
    if k.kind ≠ kind then stMsgInvalid
    else match s.ownerKey k.keyId (roleOf kind) with
      | none => stKeyUnknown
      | some q =>
        if !objSigOk q.key obj || (k.bind != 0 && k.bind != s.bindOf) then stSigInvalid
        else if k.counter < 64 ∧ k.svn < s.security.counter k.counter then stRollback
        else stOk

/-- The counter of an accepted object is raised to its floor (R495). -/
def State.acceptSigned (s : State) (obj : List Byte) : State :=
  match sigOf obj with
  | none => s
  | some k => if k.counter < 64 then s.modSec fun c => c.raise k.counter k.floor else s

/-! ### Owner store -/

/-- The bytes of the owner area that M4 measures (R500; their layout is DESIGN CHOICE, log 45). -/
def ownerArea (c : Security) : List Byte := c.owners.flatMap fun k => leBytes 8 k.id.toNat ++ [k.roles] ++ k.key

def State.measureOwner (s : State) : State := s.extend 4 0x05 0 (Sha.sha384 (ownerArea s.security))

def State.owned (s : State) : Bool := !s.security.owners.isEmpty
/-- The strap OWN_CLAIM as sampled (Table 21-2). -/
def State.ownClaim (s : State) : Bool := s.part.straps.getLsbD 11

/-! ### Sessions (R400, R403) -/

/-- Take a session out of the table; its queued responses still leave. -/
def State.releaseSession (s : State) (sid : Half) : State :=
  match s.session sid with
  | none => s
  | some x =>
    let rest := s.host.sessions.filter fun y => y.id != sid
    let h := { s.host with sessions := rest }
    let again := (x.port == .host || x.port == .guy) && x.isOpen && rest.all fun y => !(y.port == x.port && y.isOpen)
    { s with host := if again then h.setNet x.port { h.net x.port with hello := (h.net x.port).up } else h }

/-- A fresh private key or per-message secret of the device (log 112). -/
def State.drawScalar (s : State) : Nat × State := let (b, s) := s.drawBytes 48; (eccScalar b, s)

/-- The digest TH and the 72 bytes of key material of a handshake (R401). -/
def sessionKeys (ph nh pd nd z : List Byte) (sid : Half) : List Byte × List Byte :=
  let th := Sha.sha384 (ph ++ nh ++ pd ++ nd ++ leBytes 2 sid.toNat)
  (th, hkdf (nh ++ nd) z (ascii "PLSK1" ++ th) 72)

/-- SESSION_OPEN with the identifier that the device chooses (R400, R401); a key that is no point of the curve breaks the payload (log 112). -/
def openSession (sid : Half) : Handler := fun _ f s =>
  match eccDecode (f.payload.take 97) with
  | none => .deny stMsgInvalid s
  | some ph =>
    .need (f.len 132 && f.zero 97 3) stMsgInvalid s <|
    .need (decide (s.host.sessions.countP (·.isOpen) < 8)) stSessionLimit s <|
      let (d, s) := s.drawScalar
      let (nd, s) := s.drawBytes 32
      let (k, s) := s.drawScalar
      let pd := eccPublic d
      let (th, keys) := sessionKeys (f.payload.take 97) ((f.payload.drop 100).take 32) pd nd (ecdh d ph) sid
      let x : Session := { id := sid, port := f.port, isOpen := false, ipv4 := f.ipv4, last := s.nowNs, keys := keys, th := th }
      { payload := leBytes 2 sid.toNat ++ [0#8, 0#8] ++ pd ++ [0#8, 0#8, 0#8] ++ nd ++ ecdsaSign s.part.hubPriv.toNat k (ascii "PLSK1 device" ++ th)
        state := { s with host := { s.host with sessions := s.host.sessions ++ [x] } } }

def execSessionOpen (f : Frame) (sid : Half) (s : State) : Out :=
  .next (if sid = 0#16 ∨ sid = 0xFFFF#16 ∨ (s.session sid).isSome then s else s.row f 0x0102 (openSession sid))

/-- SESSION_CONFIRM: the host's key and signature open the session; otherwise its identifier is released (R400, R513). -/
def confirmSession : Handler := fun x f s =>
  let id := BitVec.ofNat 64 (f.nat 0 8)
  let fail := fun st => { Reply.deny st s with post := fun t => t.releaseSession f.session }
  let opened := fun (roles : Byte) =>
    let t := s.modSession f.session fun y => { y with isOpen := true, keyId := id, roles := roles }
    Reply.ok { t with host := t.host.setNet f.port { t.host.net f.port with hello := false } }
  .need (x.all fun y => !y.isOpen) stMsgInvalid s <|
  if !f.len 104 then fail stMsgInvalid
  else if id = 0#64 then
    (if !s.owned && s.ownClaim && f.zero 8 96 then opened 0#8 else fail stKeyUnknown)
  else match s.security.owners.find? fun k => k.id == id && k.roles.getLsbD 0 with
    | none => fail stKeyUnknown
    | some k => if ecdsaOk k.key (ascii "PLSK1 host" ++ (x.elim [] (·.th))) (f.payload.drop 8) then opened k.roles else fail stSigInvalid

def execSessionConfirm (f : Frame) (s : State) : Out := .next (s.row f 0x0103 confirmSession)

def closeSession : Handler := fun _ f s =>
  .need (f.len 0) stMsgInvalid s { state := s, post := fun t => t.releaseSession f.session }

def execSessionClose (f : Frame) (s : State) : Out := .next (s.row f 0x0104 closeSession)

/-- SESSION_TIMEOUT: 30 s without an authenticated frame end a session (R403). -/
def execSessionTimeout (sid : Half) (s : State) : Out :=
  .next (match s.session sid with
    | some x => if x.isOpen then s.endSession sid else s
    | none => s)

/-- CONFIRM_TIMEOUT: a confirmation that does not arrive releases the identifier (R400). -/
def execConfirmTimeout (sid : Half) (s : State) : Out :=
  .next (match s.session sid with
    | some x => if x.isOpen then s else s.endSession sid
    | none => s)

/-! ### Certificates and quotes -/

/-- DEV_CERTS: certificates 0 to 4 are what the identity area of the flash holds (`der`), checked against the fused digests; certificate 5 stands in the
Lantern key store and is checked by its signature (R486). -/
def sendCert (der : List Byte) : Handler := fun _ f s =>
  let i := f.nat 0 1
  .need (f.len 1 && decide (i ≤ 5)) stMsgInvalid s <|
  let (tbs, sig) := s.lantern.cert5
  if i = 5 then .need (s.lantern.quoteKey.isSome && ecdsaOk s.hubKey tbs sig) stCertInvalid s { payload := certOf tbs sig, state := s }
  else .need ((s.part.certs.toList.getD i 0#384) == Sha.digest der) stCertInvalid s { payload := der.take 1408, state := s }

def execDevCerts (f : Frame) (der : List Byte) (s : State) : Out := .next (s.row f 0x0101 (sendCert der))

/-- The package quote key is generated, and the hub die issues certificate 5 for it (R485). -/
def State.makeQuoteKey (s : State) : State :=
  let (d, s) := s.drawScalar
  let (sn, s) := s.drawBytes 16
  let (k, s) := s.drawScalar
  let tbs := certTbs 5 (certSerial sn) s.part.serial.toNat (eccPublic d) (keyIdOf (eccPublic d)) (keyIdOf s.hubKey) (ascii "000101000000Z")
  { s with lantern := { s.lantern with quoteKey := some (BitVec.ofNat 384 d), cert5 := (tbs, ecdsaSign s.part.hubPriv.toNat k tbs) } }

def RxState.code : RxState → Nat
  | .cOnly => 0
  | .probation => 1
  | .learned => 2
  | .fallback => 3

/-- Bytes 0x10 to the end of a quote's fixed part and its registers and carriers (Table 20-7). -/
def State.quoteBytes (s : State) (mask live : Nat) (nonce : List Byte) : List Byte :=
  let regs := (List.range 16).filter (mask.testBit ·)
  let cs := allCarriers.filter fun k => live.testBit k.val
  leBytes 4 0x544F5551 ++ leBytes 2 (if s.boot.phase == .dieFail then 2 else 1) ++ leBytes 2 mask ++ s.serialBytes
    ++ leBytes 1 (if s.part.sh9632 then 1 else 0) ++ [0xB0#8] ++ leBytes 1 live ++ [0#8] ++ leBytes 4 s.part.fwVer.toNat ++ nonce
    ++ leBytes 8 s.shortTime ++ leBytes 2 (s.security.counter 0) ++ leBytes 2 (s.security.counter 1) ++ leBytes 4 0
    ++ s.security.counts.toList.flatMap (fun n => leBytes 2 n.toNat)
    ++ regs.flatMap (fun i => beBytes 48 (s.security.regs[i % 16]'(Nat.mod_lt _ (by decide))).toNat)
    ++ cs.flatMap fun k =>
        let x := s.carrier k
        let (id, d, t) := match x.live with
          | some m => (m.id.toNat, beBytes 48 m.digest.toNat, Sha.sha384 m.trec)
          | none => (0, List.replicate 48 0#8, List.replicate 48 0#8)
        leBytes 1 k.val ++ leBytes 1 x.rx.code ++ [0#8, 0#8] ++ leBytes 4 id ++ d ++ t

def sendQuote : Handler := fun _ f s =>
  let live := f.nat 34 1
  .need (f.len 40 && f.zero 35 5 && decide (live < 16)) stMsgInvalid s <|
  .need (allCarriers.all fun k => !live.testBit k.val || (s.carrier k).cfg.isSome) stCellInvalid s <|
    let q := s.quoteBytes (f.nat 32 2) live (f.payload.take 32)
    let d := if s.boot.phase == .dieFail then s.part.hubPriv else s.lantern.quoteKey.getD 0#384
    let (k, s) := s.drawScalar
    { payload := q ++ ecdsaSign d.toNat k (ascii "PLSK1 quote" ++ q), state := s }

def execAttestQuote (f : Frame) (s : State) : Out := .next (s.row f 0x0105 sendQuote)

end Sys2Proof.Machine
end

