-- ==== Sys2Proof/Machine/Radio.lean ====
section
/-!
DEFINITION. Carriers: the fields of their configuration (Table 16-9), slots and symbols (R291, Table 10-8), messages on their 100G port
(R411), and the DFE and JESD204C registers (Tables 11-7 to 11-14, 13-3) with their deferred writes (R308, R417).
-/
namespace Sys2Proof.Machine

/-! ### Configuration (Table 16-9) -/

def Carrier.conf (x : Carrier) : List Byte := x.cfg.getD []
def Carrier.field (x : Carrier) (off n : Nat) : Nat := fieldAt x.conf off n
def cfgMode (c : List Byte) : Nat := fieldAt c 1 1 % 8
def cfgMu (c : List Byte) : Nat := fieldAt c 2 1
def cfgPort (c : List Byte) : Port := if fieldAt c 3 1 % 2 = 1 then .eth1 else .eth0
def cfgPrbs (c : List Byte) : Nat := fieldAt c 4 2
def cfgRx (c : List Byte) : Nat := fieldAt c 8 8
def cfgTx (c : List Byte) : Nat := fieldAt c 0x10 8
def cfgOffset (c : List Byte) : Nat := fieldAt c 0x18 8
def cfgTdd (c : List Byte) : Bool := cfgMode c == 1 || cfgMode c == 3
def cfg72 (c : List Byte) : Bool := cfgMode c == 3 || cfgMode c == 4
def cfgPeriod (c : List Byte) : Nat := fieldAt c 0x42 1

/-- The paths of a 64-bit mask. -/
def pathsOf (m : Nat) : List Nat := (List.range 64).filter (m.testBit ·)
def Carrier.rxPaths (x : Carrier) : List Nat := pathsOf (cfgRx x.conf)
def Carrier.txPaths (x : Carrier) : List Nat := pathsOf (cfgTx x.conf)

/-- Slot duration in ns and slots per frame (R291). -/
def slotNs (c : List Byte) : Nat := if cfgMu c = 0 then 1000000 else 500000
def slotsPerFrame (c : List Byte) : Nat := if cfgMu c = 0 then 10 else 20

/-- The number of the slot that runs at a device time, counted from a start of SFN 0 (R291). -/
def slotAt (c : List Byte) (t : Nat) : Nat := (t + 10240000000 - cfgOffset c % 10240000000) / slotNs c
/-- The device time at which a slot starts. -/
def slotStart (c : List Byte) (ix : Nat) : Int := (ix * slotNs c : Nat) - 10240000000 + (cfgOffset c % 10240000000 : Nat)

/-- The slot reference of a slot number (Table 10-8). -/
def slotRef (k : CarrierId) (c : List Byte) (ix : Nat) : Word :=
  let n := slotsPerFrame c
  BitVec.ofNat 32 (k.val * 2 ^ 30 + cfgMu c * 2 ^ 28 + ix / n % 1024 * 2 ^ 18 + ix % n * 2 ^ 13)

def refCarrier (r : Word) : CarrierId := Fin.ofNat 4 (r.toNat / 2 ^ 30)
/-- slot_index of R262 and R359: sfn × slots per frame + slot. -/
def refIndex (r : Word) : Nat := bitsOf r.toNat 18 10 * (if bitsOf r.toNat 28 2 = 0 then 10 else 20) + bitsOf r.toNat 13 5

/-- A slot reference keeps Table 10-8 and names this numerology. -/
def refOk (c : List Byte) (r : Word) : Bool :=
  bitsOf r.toNat 0 13 == 0 && bitsOf r.toNat 28 2 == cfgMu c && decide (bitsOf r.toNat 13 5 < slotsPerFrame c)

/-- The reference of the running slot. -/
def State.nowRef (s : State) (k : CarrierId) : Word := slotRef k (s.carrier k).conf (s.carrier k).slotIx

/-- What the TDD pattern makes of a symbol: 0 downlink, 1 uplink, 2 flexible, 3 both (FDD). -/
def symKind (c : List Byte) (ix sym : Nat) : Nat :=
  if !cfgTdd c then 3 else fieldAt c (0x44 + 4 * (ix % max 1 (cfgPeriod c))) 4 / 2 ^ (2 * sym) % 4
def symDown (c : List Byte) (ix sym : Nat) : Bool := symKind c ix sym == 0 || symKind c ix sym == 3
def symUp (c : List Byte) (ix sym : Nat) : Bool := symKind c ix sym == 1 || symKind c ix sym == 3

/-- The last downlink symbol of a slot. -/
def lastDown (c : List Byte) (ix : Nat) : Option Nat := ((List.range 14).filter (symDown c ix ·)).getLast?

/-- The lift threshold in effect exceeds no load of this size (R247): a load above lift_thresh × s / 2, s the speeds of the floor cores. -/
def State.liftWanted (s : State) (k : CarrierId) (load : Nat) : Bool :=
  let x := s.carrier k
  let given := x.field 0x2A 2
  let thr := if given ≠ 0 then given else if s.power.step = 3#2 then 1792 else if s.power.step = 2#2 then 1344 else 896
  let quarters := (x.floor.map fun c => if s.backed c = 4 then 4 else if s.backed c = 3 then 3 else if s.backed c = 2 then 2 else 0).foldl (· + ·) 0
  decide (thr * quarters < load * 8)

/-! ### Messages -/

/-- A slot message of a carrier: to subscribed sessions on its 100G port (R408, R411). A standby sends none (R435). -/
def State.slotMsg (s : State) (k : CarrierId) (typ : Nat) (st : Half) (payload : List Byte) : State :=
  if s.twin.role == .standby then s
  else s.notify typ st payload fun p => p == cfgPort (s.carrier k).conf

/-- dfe.event (Table 16-11). -/
def State.dfeEvent (s : State) (ref : Word) (car path band lane : Nat) (aclr st : Half) : State :=
  s.notifyT1 0x0A08 st (leBytes 4 ref.toNat ++ leBytes 1 car ++ leBytes 1 path ++ leBytes 1 band ++ leBytes 1 lane ++ leBytes 2 aclr.toNat ++ leBytes 6 0)

/-- Bump a stake of a carrier's ranks (R248); stake 0 of its floor cores (DESIGN CHOICE, log 46). -/
def State.bumpFloor (s : State) (k : CarrierId) : State :=
  (s.carrier k).floor.foldl (fun s c => s.modCtx c fun x => x.setStake 0 (x.stake 0 + 1#32)) s

/-! ### Fields of PDUs -/

def Pdu.nat (p : Pdu) (off n : Nat) : Nat := fieldAt p.bytes off n
def Pdu.typ (p : Pdu) : Nat := p.nat 0 1
def Pdu.rnti (p : Pdu) : Nat := p.nat 2 2
def Pdu.harq (p : Pdu) : Nat := p.nat 4 1 % 16
def Pdu.ndi (p : Pdu) : Bool := (p.nat 4 1).testBit 4
def Pdu.tbs (p : Pdu) : Nat := p.nat 0x14 4
/-- Decide a PDU's outcome, once. -/
def Pdu.settle (p : Pdu) (st : Half) : Pdu := if p.decided then p else { p with decided := true, status := st }
/-- The same operand as rnti and harq_id form in R262 and R359. -/
def Pdu.drawIx (p : Pdu) : Nat := p.rnti * 256 + p.harq

/-! ### DFE registers -/

def State.modDfe (s : State) (f : Dfe → Dfe) : State := { s with dfe := f s.dfe }

def Dfe.cfrOf (d : Dfe) (i : Nat) : Word := d.cfr[i % 4]'(Nat.mod_lt _ (by decide))
def Dfe.firOf (d : Dfe) (i : Nat) : Word := d.firCtl[i % 8]'(Nat.mod_lt _ (by decide))
def Dfe.dpdOf (d : Dfe) (i : Nat) : Word := d.dpdReg[i % 64]'(Nat.mod_lt _ (by decide))
def Dfe.rampOf (d : Dfe) (i : Nat) : Word := d.ramp[i % 4]'(Nat.mod_lt _ (by decide))
def Dfe.maskOf (d : Dfe) (i : Nat) : Dword := d.mask[i % 16]'(Nat.mod_lt _ (by decide))
def Dfe.agcOf (d : Dfe) (i : Nat) : Dword := d.agc[i % 4]'(Nat.mod_lt _ (by decide))
def Dfe.calOf (d : Dfe) (i : Nat) : Dword := d.calReg[i % 4]'(Nat.mod_lt _ (by decide))
def Dfe.dpdSet (d : Dfe) (i : Nat) : Dpd := d.dpd[i % 64]'(Nat.mod_lt _ (by decide))
def Dfe.setDpd (d : Dfe) (i : Nat) (v : Dpd) : Dfe := { d with dpd := d.dpd.set (i % 64) v (Nat.mod_lt _ (by decide)) }

/-- DF_DPD: K, M, L and the number of terms (R304). -/
def dpdOrder (v : Nat) : Nat := 2 * bitsOf v 6 2 + 1
def dpdTerms (v : Nat) : Nat :=
  let k := dpdOrder v
  let m := bitsOf v 3 3
  (k + 1) / 2 * m + (k - 1) * m * bitsOf v 1 2

/-- The link options of JS_CFG: paths, MS/s ×100, by option (Table 11-13). -/
def linkPaths (opt : Nat) : Nat := if opt = 2 ∨ opt = 4 then 32 else 64
def linkFast (opt : Nat) : Bool := decide (opt ≤ 2)
def rxOpt (js : Dword) : Nat := bitsOf js.toNat 21 3
def txOpt (js : Dword) : Nat := bitsOf js.toNat 18 3
def obsEn (js : Dword) : Bool := js.getLsbD 17

/-- DF_CAL fields (Table 13-3). -/
def calEn (v : Dword) : Bool := v.getLsbD 63
def calDir (v : Dword) : Nat := bitsOf v.toNat 61 2
def calRate (v : Dword) : Nat := bitsOf v.toNat 58 3
def calQpsk (v : Dword) : Bool := v.getLsbD 57
def calTag (v : Dword) : Nat := bitsOf v.toNat 36 4
def calRef (v : Dword) : Nat := bitsOf v.toNat 30 6
def calInj (v : Dword) : Nat := bitsOf v.toNat 24 6
def calGain (v : Dword) : Nat := bitsOf v.toNat 15 5
def calGroup (v : Dword) : Nat := bitsOf v.toNat 11 4

/-- Nominal bandwidth in MHz of Table 11-6; 0 outside it. -/
def bandwidth (mu prbs : Nat) : Nat :=
  if mu = 1 then (match prbs with | 51 => 20 | 106 => 40 | 133 => 50 | 162 => 60 | 217 => 80 | 273 => 100 | _ => 0)
  else if mu = 0 then (match prbs with | 106 => 20 | 216 => 40 | 270 => 50 | _ => 0)
  else 0

/-- A chip rate is allowed (R348, Table 13-1). -/
def calRateOk (rate bw : Nat) (fast : Bool) : Bool :=
  match rate with
  | 0 => fast && decide (100 ≤ bw)
  | 1 => decide (80 ≤ bw)
  | 2 => decide (50 ≤ bw)
  | 3 => decide (40 ≤ bw)
  | 4 => decide (40 ≤ bw)
  | 5 => decide (20 ≤ bw)
  | _ => false

/-- The beacon is available to a carrier under a DF_CAL value (R345). -/
def State.calAvailable (s : State) (k : CarrierId) (v : Dword) : Bool :=
  let x := s.carrier k
  let tx := calDir v != 2
  let rx := calDir v != 1
  x.cfg.isSome && cfgMode x.conf == 1 && (!tx || obsEn s.dfe.jsCfg)
    && (!tx || x.txPaths.contains (calRef v)) && (!rx || x.rxPaths.contains (calRef v)) && x.txPaths.contains (calInj v)
    && calRateOk (calRate v) (bandwidth (cfgMu x.conf) (cfgPrbs x.conf)) (linkFast (txOpt s.dfe.jsCfg))

/-- The carrier that a TX path belongs to. -/
def State.txCarrier (s : State) (p : Nat) : Option CarrierId :=
  allCarriers.find? fun k => (s.carrier k).cfg.isSome && (cfgTx (s.carrier k).conf).testBit p

/-- The status of one entry of dfe.config: ST_OK, or why the message is rejected (R304, R308, R345, R417, Tables 11-7 to 13-3). A value is
a register write, so its res bits are masked and reject nothing (DEDUCED, log 90). -/
def State.entryStatus (s : State) (reg index v : Nat) : Half :=
  let ok := fun (b : Bool) => if b then stOk else stMsgInvalid
  match reg with
  | 1 => ok (decide (index < 8) && decide (2 ≤ bitsOf v 8 4 ∧ bitsOf v 8 4 ≤ 12))
  | 2 => ok (decide (index < 2048) && decide (index % 128 < 96))
  | 3 => ok (decide (index < 4) && bitsOf v 15 2 != 0 && decide (bitsOf v 0 8 ≤ 200))
  | 4 => ok (decide (index < 64) && decide (1 ≤ bitsOf v 3 3 ∧ bitsOf v 3 3 ≤ 5) && bitsOf v 1 2 != 3 && decide (dpdTerms v ≤ 64))
  | 5 => ok (decide (index < 4) && bitsOf v 30 2 != 3)
  | 6 => ok (decide (index < 128))
  | 7 => ok (decide (index < 16) && bitsOf v 14 4 != 0)
  | 8 => ok (decide (index < 4) && decide (bitsOf v 48 5 ≤ bitsOf v 53 5) && bitsOf v 39 3 != 0 && bitsOf v 35 4 != 0 && bitsOf v 31 4 != 0
      && decide (-120 ≤ signExt 8 (bitsOf v 8 8) ∧ signExt 8 (bitsOf v 8 8) ≤ -24))
  | 9 =>
    let w := BitVec.ofNat 64 v
    if !(decide (index < 4) && calDir w != 0 && decide (calRate w < 6) && decide (20 ≤ bitsOf v 50 7 ∧ bitsOf v 50 7 ≤ 80)
        && decide (bitsOf v 40 10 ≤ 1022) && bitsOf v 20 4 != 0 && calGroup w != 0) then stMsgInvalid
    else if calEn w && !s.calAvailable (Fin.ofNat 4 index) w then stCalUnavailable else stOk
  | 10 => if !(index == 0 && decide (bitsOf v 21 3 ≤ 4) && decide (bitsOf v 18 3 ≤ 4)) then stMsgInvalid
      else if s.anyCarrier then stCfgBusy else stOk
  | 11 => ok (decide (index < 64) && v == 1)
  | _ => stMsgInvalid

/-- The carrier whose slot boundary an entry waits for. -/
def State.entryCarrier (s : State) (reg index : Nat) : Option CarrierId :=
  let k := match reg with
    | 1 => some (index / 2)
    | 2 => some (index / 512)
    | 4 | 11 => (s.txCarrier index).map (·.val)
    | 6 => some (index / 32)
    | 7 => some (index / 4)
    | 10 => none
    | _ => some index
  match k with
  | some i => if (s.carrier (Fin.ofNat 4 i)).cfg.isSome then some (Fin.ofNat 4 i) else none
  | none => none

/-- Write a DFE register: reserved bits stay 0 (R11). -/
def Dfe.write (d : Dfe) (reg index : Nat) (v : Dword) : Dfe :=
  let w := v.setWidth 32
  match reg with
  | 1 => { d with firCtl := d.firCtl.set (index % 8) (w &&& 0x1F80#32) (Nat.mod_lt _ (by decide)) }
  | 2 => { d with firCoef := d.firCoef.set (index % 2048) (w &&& 0x3FFFF#32) }
  | 3 => { d with cfr := d.cfr.set (index % 4) (w &&& 0x3C0FF#32) (Nat.mod_lt _ (by decide)) }
  | 4 => { d with dpdReg := d.dpdReg.set (index % 64) (w &&& 0x3FE#32) (Nat.mod_lt _ (by decide)) }
  | 5 => { d with ramp := d.ramp.set (index % 4) w (Nat.mod_lt _ (by decide)) }
  | 6 => { d with rampTab := d.rampTab.set (index % 128) (w &&& 0xFFFF#32) }
  | 7 => { d with mask := d.mask.set (index % 16) (v &&& 0xFFFFFFFFFFFFE000#64) (Nat.mod_lt _ (by decide)) }
  | 8 => { d with agc := d.agc.set (index % 4) (v &&& 0x03FFFFFFFFFFFFFF#64) (Nat.mod_lt _ (by decide)) }
  | 9 => { d with calReg := d.calReg.set (index % 4) (v &&& 0xFFFFFFFFFFFFF800#64) (Nat.mod_lt _ (by decide)) }
  | 10 => { d with jsCfg := v &&& 0xFFFFFF#64, aligned := false }
  | _ => { d with muted := d.muted &&& ~~~(1#64 <<< (index % 64)), muteDue := d.muteDue &&& ~~~(1#64 <<< (index % 64)) }

/-- The value of a DFE register (dfe.read). -/
def Dfe.read (d : Dfe) (reg index : Nat) : Dword :=
  match reg with
  | 1 => (d.firOf index).setWidth 64
  | 2 => (d.firCoef.get (index % 2048)).setWidth 64
  | 3 => (d.cfrOf index).setWidth 64
  | 4 => (d.dpdOf index).setWidth 64
  | 5 => (d.rampOf index).setWidth 64
  | 6 => (d.rampTab.get (index % 128)).setWidth 64
  | 7 => d.maskOf index
  | 8 => d.agcOf index
  | 9 => d.calOf index
  | 10 => d.jsCfg
  | _ => if d.muted.getLsbD (index % 64) then 1#64 else 0#64

/-- PA_EN falls for a group whose four paths are all muted (R307). -/
def State.paOff (s : State) : State :=
  { s with pins := { s.pins with paEn := (List.range 16).foldl (fun (p : Half) g =>
      if bitsOf s.dfe.muted.toNat (4 * g) 4 = 15 then p &&& ~~~(1#16 <<< g) else p) s.pins.paEn } }

/-- A gain load: the gains of all RX paths are shifted out and latched (R523). -/
def State.gainLoad (s : State) : State :=
  let now : Vector (BitVec 5) 64 := Vector.ofFn fun p : Fin 64 =>
    match allCarriers.find? fun k => (s.carrier k).cfg.isSome && (cfgRx (s.carrier k).conf).testBit p.val with
    | some k => (s.carrier k).gains.get p.val
    | none => 0#5
  { s with pins := { s.pins with rg := now, rgLoads := s.pins.rgLoads + 1 } }

/-- The running round ends early (R357, R358). -/
def Cal.abort (q : Cal) : Cal :=
  match q.cur with
  | some r => { q with cur := none, done := q.done ++ [{ r with aborted := true }] }
  | none => q

/-- An entry takes effect. -/
def State.applyEntry (s : State) (reg index : Nat) (v : Dword) : State :=
  let before := s.dfe.calOf index
  let s := s.modDfe fun d => d.write reg index v
  if reg = 8 then
    -- fixed = 1 holds gain_init and drops pending steps (Table 11-12, R320)
    let k : CarrierId := Fin.ofNat 4 index
    if v.getLsbD 42 then
      let old := (s.carrier k).gains
      let s := s.modCarrier k fun x =>
        { x with gains := x.rxPaths.foldl (fun g p => g.set p (BitVec.ofNat 5 (bitsOf v.toNat 43 5))) x.gains, gainNext := [] }
      if (s.carrier k).cfg.isSome && (s.carrier k).gains != old then s.gainLoad else s
    else s
  else if reg = 9 ∧ s.dfe.calOf index ≠ before then s.modCarrier (Fin.ofNat 4 index) fun x => { x with cal := x.cal.abort }
  else s

/-- Write an entry now, or keep it for its carrier's next slot boundary (R308). -/
def State.queueEntry (s : State) (reg index : Nat) (v : Dword) : State :=
  match s.entryCarrier reg index with
  | some k => s.modDfe fun d => { d with queued := d.queued ++ [(k.val, reg, index, v)] }
  | none => s.applyEntry reg index v

/-- The entries that wait for a carrier's boundary take effect. -/
def State.applyQueued (s : State) (k : CarrierId) : State :=
  let due := s.dfe.queued.filter fun e => e.1 == k.val
  let s := s.modDfe fun d => { d with queued := d.queued.filter fun e => e.1 != k.val }
  due.foldl (fun s e => s.applyEntry e.2.1 e.2.2.1 e.2.2.2) s

end Sys2Proof.Machine
end

