-- ==== Sys2Proof/Machine/Grid.lean ====
section
/-!
DEFINITION. IQB8 grids of a carrier: the grid ring in the die memory of the home cluster's die, with header, scale entries, mantissas and
gain array (R86, R89 to R91, R104, R248), the planes that the DFE writes (R300), widening to CI16 (R105) and the beam grid (R249 to R251).
-/
namespace Sys2Proof.Machine

/-! ### The ring (R248) -/

/-- Groups of a grid line (R248). -/
def gridGroups (c : List Byte) : Nat := (cfgPrbs c + 3) / 4
/-- Lines of a receive grid: one per RX path of the carrier. -/
def gridLines (c : List Byte) : Nat := (pathsOf (cfgRx c)).length

/-- An IQB8 tensor in memory: its first byte, planes, lines, groups a line, and offsets of the scale array and of the mantissas. -/
structure GridAt where
  base   : Nat
  planes : Nat
  lines  : Nat
  groups : Nat
  scales : Nat
  data   : Nat
deriving DecidableEq, Repr

def GridAt.blocks (g : GridAt) : Nat := (g.lines + 63) / 64
/-- Bytes of a plane's mantissas and of its scale blocks. -/
def GridAt.planeBytes (g : GridAt) : Nat := 96 * g.lines * g.groups
def GridAt.scaleBytes (g : GridAt) : Nat := 128 * g.blocks * g.groups

/-- Address of a scale entry (R90). -/
def GridAt.entry (g : GridAt) (plane line q : Nat) : Nat :=
  g.base + g.scales + 2 * (((plane * g.blocks + line / 64) * g.groups + q) * 64 + line % 64)
/-- Address of the 48 elements of a group. -/
def GridAt.elems (g : GridAt) (plane line q : Nat) : Nat := g.base + g.data + plane * g.planeBytes + 96 * (line * g.groups + q)

/-- The tensor header but for its panel scales (Table 4-2, R104); addresses are physical (log 102). -/
def GridAt.header (g : GridAt) (id : Word) : List Byte :=
  leBytes 4 id.toNat ++ [0x0B#8, 0x03#8, 0x01#8, 0#8] ++ leBytes 4 g.planes ++ leBytes 4 g.lines ++ leBytes 4 (48 * g.groups) ++ leBytes 4 g.lines
    ++ leBytes 2 g.planes ++ leBytes 6 0 ++ leBytes 8 (g.base + g.data) ++ leBytes 8 (g.base + g.scales) ++ leBytes 4 (96 * g.groups) ++ leBytes 4 0
    ++ leBytes 8 g.planeBytes

/-- Offset of the gain array in a ring slot, and the end of the slot's fixed part: header with 14 panels, then 14 × 64 gain bytes. -/
def ringGains : Nat := 128
def ringHead : Nat := 1024

/-- Bytes of one slot of the grid ring. -/
def ringSlot (c : List Byte) : Nat := ringHead + 14 * (128 * gridGroups c + 96 * gridLines c * gridGroups c)

/-- A slot of the grid ring of a carrier, in die memory of its home die (R248; its place is the firmware's, log 102). -/
def State.ringAt (s : State) (k : CarrierId) (ring : Nat) : GridAt :=
  let x := s.carrier k
  { base := Config.dieMemBase (x.home.val / 4) + k.val * 0x1000000 + Config.ringSpot k.val % 0x8000 * 128 + ring % 2 * ringSlot x.conf
    planes := 14, lines := gridLines x.conf, groups := gridGroups x.conf, scales := ringHead, data := ringHead + 14 * 128 * gridGroups x.conf }

/-! ### Writing a plane (R99, R100, R104, R300) -/

/-- The least integer e for which a magnitude is at most lim × 2^e; none for 0. -/
def leastExp (lim n d : Nat) : Option Int :=
  if n = 0 then none
  else
    let l := floorLog2 n (lim * d)
    let (a, b) := ratOf 1 l
    some (if n * b = a * (lim * d) then l else l + 1)

/-- e of R300. -/
def panelExp (n d : Nat) : Option Int := leastExp 127 n d

/-- The elements of one group of a line of resource elements; those past the last PRB are 0 (R72, R104). -/
def groupElems (prbs : Nat) (line : List CV) (g : Nat) : List Elem :=
  (List.range 48).map fun i =>
    let z := if 48 * g + i < 12 * prbs then line.getD (48 * g + i) cvZero else cvZero
    { col := i, re := z.1, im := z.2 }

/-- One group in memory: its scale entry under the tag of R91 and its mantissas. -/
def State.putGroup (s : State) (g : GridAt) (plane line q : Nat) (panel : Word) (es : List Elem) : State :=
  let (code, cs, _) := writeGroup 11 panel false false (fun _ => 0) es
  (s.writePhys (g.entry plane line q) (leBytes 2 (q % 16 * 4096 + code))).writePhys (g.elems plane line q) (cs.flatMap fun e => leBytes 2 e.2)

/-- The padding entries of a plane's last line block, as the firmware leaves them: the tag of the block and code 0 (R90). -/
def State.putPadding (s : State) (g : GridAt) (plane : Nat) : State :=
  (List.range g.groups).foldl (fun (s : State) q =>
    ((List.range (64 * g.blocks)).drop g.lines).foldl (fun (s : State) r => s.writePhys (g.entry plane r q) (leBytes 2 (q % 16 * 4096))) s) s

/-- A plane of lines of exact values under a panel scale, with the header and its panel. -/
def State.putPlane (s : State) (g : GridAt) (id : Word) (prbs plane : Nat) (panel : Word) (lines : List (List CV)) : State :=
  let s := (s.writePhys g.base (g.header id)).writePhys (g.base + 64 + 4 * plane) (leBytes 4 panel.toNat)
  let s := s.putPadding g plane
  (List.range g.lines).foldl (fun (s : State) l =>
    (List.range g.groups).foldl (fun (s : State) q => s.putGroup g plane l q panel (groupElems prbs (lines.getD l []) q)) s) s

/-- The panel scale of a received symbol (R300). That of a symbol without any power is a free value, positive and finite (log 2). -/
def State.panelScale (s : State) (lines : List (List CV)) : Word × State :=
  let (n, d) := maxAbs (lines.flatMap fun l => l.flatMap fun z => [z.1, z.2])
  match panelExp n d with
  | some e => (rne32 (.fin false 1 e), s)
  | none => (let (v, s) := s.draw; (0x00800000#32 ||| (v.setWidth 32 &&& 0x3F7FFFFF#32), s))

/-- One symbol of the running slot enters the grid ring: panel scale, planes, scale blocks and gain bytes; its completion bumps a stake of
the carrier's ranks (R248). -/
def State.writePlane (s : State) (k : CarrierId) (sym : Nat) (lines : List (List CV)) : State :=
  let x := s.carrier k
  let prbs := cfgPrbs x.conf
  let lines := lines.map fun l => l.take (12 * prbs)
  let (panel, s) := s.panelScale lines
  let g := s.ringAt k x.slotIx
  let s := s.putPlane g (Config.gridTensor k.val) prbs sym panel lines
  (s.writePhys (g.base + ringGains + 64 * sym) ((List.range 64).map fun p => (x.gains.get p).setWidth 8)).bumpFloor k

/-! ### Reading a plane -/

def State.gridPanel (s : State) (g : GridAt) (plane : Nat) : Word := BitVec.ofNat 32 (leNat (s.readPhys (g.base + 64 + 4 * plane) 4))
def State.gridGain (s : State) (g : GridAt) (sym path : Nat) : Nat := leNat (s.readPhys (g.base + ringGains + 64 * sym + path) 1) % 32

/-- A group as a unit reads it: the code of its scale and its 48 mantissa pairs. -/
def State.gridGroup (s : State) (g : GridAt) (plane line q : Nat) : Nat × List (Int × Int) :=
  let bs := s.readPhys (g.elems plane line q) 96
  (leNat (s.readPhys (g.entry plane line q) 2) % 128, (List.range 48).map fun i => decodeComplex 9 (fieldAt bs (2 * i) 2))

/-! ### Widening to CI16 (R105) -/

/-- RNE of the quotient of two finite values. -/
def rneQuot : FV → FV → Int
  | .fin sa ma ea, .fin sb mb eb =>
    if mb = 0 then 0
    else
      let (na, da) := ratOf ma ea
      let (nb, db) := ratOf mb eb
      let q : Int := (rneDiv (na * db) (da * nb) : Nat)
      if sa != sb then -q else q
  | _, _ => 0

/-- The greatest group scale across the lines. -/
def commonScale (codes : List Nat) : FV := codes.foldl (fun m c => (let v := decodeMag ue4m3F false c; if m.lt v then v else m)) fvZero

/-- One group of every line of a symbol widened to CI16: the common scale s_c, the lanes of each line, and cvt_nan. A mantissa m under its
line's scale sg becomes RNE(m × sg × 256 / s_c) (R105). -/
def widenGroup (ls : List (Nat × List (Int × Int))) : FV × List (List (Int × Int)) × Bool :=
  if ls.any fun l => l.1 == 0x7F then (fvZero, ls.map fun l => l.2.map fun _ => (0, 0), true)
  else
    let sc := commonScale (ls.map (·.1))
    let lane := fun (code : Nat) (m : Int) => rneQuot ((FV.ofInt (256 * m)).mul (decodeMag ue4m3F false code)) sc
    (sc, ls.map fun l => l.2.map fun z => (lane l.1 z.1, lane l.1 z.2), false)

/-! ### Beamforming (R249, R250, R251) -/

/-- f(d): the FP32 value nearest to 10^(-d / 20) (R250). -/
def gainFactor (d : Nat) : Word := pow10 (-(d : Int)) 20

/-- Layer `j` of a weight set: its FP32 scale, and the CI16 weight of a path (R413). -/
def setScale (w : List Byte) (j : Nat) : Word := BitVec.ofNat 32 (fieldAt w (4 * j) 4)
def setWeight (w : List Byte) (j p : Nat) : Int × Int := decodeComplex 10 (fieldAt w (32 + 4 * (64 * j + p)) 4)

/-- A weight times the gain factor of its path, rounded once to CI16 (R250). -/
def gainWeight (w : Int × Int) (d : Nat) : Int × Int := cvInt16 (cvScale (f32 (gainFactor d)) (cvOfInt w))

/-- The complex MAC of the radio tiles, CI16 × CI16 with conj_a = 1. -/
def radioMac : TileOp := { mode := 0, fmtA := 10, fmtB := 10, grp := false, acc := false, conjA := true, conjB := false, kbase := 0, gsize := 48 }

/-- The code of a CI16 element. -/
def codeCI16 (z : Int × Int) : Nat := (BitVec.ofInt 16 z.1).toNat + (BitVec.ofInt 16 z.2).toNat * 65536

/-- One cell of a radio tile over its K steps. -/
def macCell (t : TileOp) (a b : List (Int × Int)) : CellSt := runCell t (a.map codeCI16) (b.map codeCI16) [] { re := 0#32, im := 0#32, idx := 0#6 }

/-- What PSCALE by 1.0 and MUL by a stream 0 factor make of an integer accumulator (R98, R112, R250, R283). -/
def scaleAcc (c : Word) (acc : Word) : Word := fmul (fmul (intToF acc) wOne) c

/-- The row factor of R250 from the common scale, the layer's weight scale, the panel scale and the least gain. -/
def rowFactor (sc : FV) (w sp : Word) (gmin : Nat) : Word :=
  fmul (fmul (rne32 (sc.mul (.fin false 1 (-8)))) w) (fmul sp (gainFactor gmin))

/-- One group of a beam grid: for each layer the code of its scale and its mantissa pairs; with the panel scale of the symbol. -/
structure BeamGroup where
  panel : Word
  rows  : List (Nat × List (Int × Int))
deriving DecidableEq, Repr

/-- The BEAM_GC tile of group `q` of a symbol for the layers of a weight set: K paths, M layers, 48 columns (R249, R250). The gains are those
of the carrier's paths in the symbol. -/
def beamGroup (w : List Byte) (layers : Nat) (paths gains : List Nat) (sp : Word) (ls : List (Nat × List (Int × Int))) : BeamGroup :=
  let gmin := gains.foldl min 31
  let (sc, lanes, _) := widenGroup ls
  let panel := fmul sp (gainFactor gmin)
  let row := fun (i : Nat) =>
    let a := List.zipWith (fun p g => gainWeight (setWeight w i p) (g - gmin)) paths gains
    let c := rowFactor sc (setScale w i) sp gmin
    let es := (List.range 48).map fun n =>
      let r := macCell radioMac a (lanes.map fun l => l.getD n (0, 0))
      ({ col := n, re := f32 (scaleAcc c r.re), im := f32 (scaleAcc c r.im) } : Elem)
    let (code, cs, _) := writeGroup 11 panel false false (fun _ => 0) es
    (code, cs.map fun e => decodeComplex 9 e.2)
  { panel := panel, rows := (List.range layers).map row }

/-- The value of element `n` of row `i` of a beam group: mantissas × group scale × panel scale (R72). -/
def BeamGroup.value (b : BeamGroup) (i n : Nat) : CV :=
  let (code, ms) := b.rows.getD i (0, [])
  cvScale ((decodeMag ue4m3F false code).mul (f32 b.panel)) (cvOfInt (ms.getD n (0, 0)))

/-- The beam group of a symbol of a ring slot under a weight set. -/
def State.beam (s : State) (k : CarrierId) (g : GridAt) (w : List Byte) (layers sym q : Nat) : BeamGroup :=
  let paths := (s.carrier k).rxPaths
  beamGroup w layers paths (paths.map fun p => s.gridGain g sym p) (s.gridPanel g sym) ((List.range paths.length).map fun l => s.gridGroup g sym l q)

end Sys2Proof.Machine
end

