-- ==== Sys2Proof/Machine/RefSig.lean ====
section
/-!
DEFINITION. Reference signals and the resource elements that they take (TS 38.211, as R252, R280 and R281 name it): DMRS of the shared
channels, PDCCH and PBCH, PSS, SSS and NZP CSI-RS. Subcarrier 0 of the carrier's grid is the reference point of every sequence (DEDUCED,
log 104). A pilot is given by its two levels, each 1 or -1; its coordinates are the levels over √2.
-/
namespace Sys2Proof.Machine

/-- Pilot m of a sequence, negated when `neg`. -/
def pilotAt (seq : List Bool) (neg : Bool) (m : Nat) : Int × Int :=
  let f := fun (b : Bool) => if b != neg then (-1 : Int) else 1
  (f (seq.getD (2 * m) false), f (seq.getD (2 * m + 1) false))

/-- c_init of the DMRS of a symbol from its slot in the frame and an identity. -/
def dmrsInit (slot sym id : Nat) : Nat := (2 ^ 17 * (14 * slot + sym + 1) * (2 * id + 1) + 2 * id) % 2 ^ 31

/-- The sequence of a symbol's DMRS for a grid of `prbs` PRBs. -/
def dmrsSeq (prbs slot sym id : Nat) : List Bool := gold (dmrsInit slot sym id) (12 * prbs)

/-! ### DMRS of PDSCH and PUSCH -/

/-- A DMRS symbol is the second of a pair of adjacent ones. -/
def dmrsSecond (mask : Nat) : Nat → Bool
  | 0 => false
  | l + 1 => mask.testBit l && !dmrsSecond mask l

/-- The CDM group of a subcarrier and of a port, by configuration type. -/
def scGroup (type2 : Bool) (k : Nat) : Nat := if type2 then k % 6 / 2 else k % 2
def portGroup (type2 : Bool) (port : Nat) : Nat := if type2 then port % 6 / 2 else port % 4 / 2

/-- A resource element carries DMRS or lies in a CDM group without data (R282). -/
def dmrsRe (type2 : Bool) (cdm mask sym k : Nat) : Bool := mask.testBit sym && decide (scGroup type2 k < cdm)

/-- The pilot of a port on a subcarrier of a DMRS symbol. -/
def dmrsPilot (type2 : Bool) (seq : List Bool) (second : Bool) (port k : Nat) : Option (Int × Int) :=
  if scGroup type2 k ≠ portGroup type2 port then none
  else
    let m := if type2 then 2 * (k / 6) + k % 2 else k / 2
    let flip := decide (port % 2 = 1 ∧ m % 2 = 1) != (second && decide ((if type2 then 6 else 4) ≤ port))
    some (pilotAt seq flip m)

/-! ### PDCCH -/

/-- The PRBs of a PDCCH PDU's CORESET, lowest first. -/
def coresetPrbs (p : Pdu) : List Nat :=
  ((List.range 45).filter ((p.nat 4 6).testBit ·)).flatMap fun g => (List.range 6).map (6 * g + ·)

def code236 (v : Nat) : Nat := match v % 4 with | 0 => 2 | 1 => 3 | 2 => 6 | _ => 0
def pdcchDur (p : Pdu) : Nat := p.nat 0x0A 1 % 16
def pdcchAgg (p : Pdu) : Nat := 2 ^ (p.nat 0x0E 1)

/-- Resource-element groups of a PDCCH, as (symbol, PRB): its CCEs' REG bundles under the mapping of TS 38.211 7.3.2.2. -/
def pdcchRegs (p : Pdu) : List (Nat × Nat) :=
  let prbs := coresetPrbs p
  let dur := pdcchDur p
  let inter := (p.nat 0x0B 1).testBit 7
  let l := if inter then code236 (bitsOf (p.nat 0x0B 1) 5 2) else 6
  let r := code236 (bitsOf (p.nat 0x0B 1) 3 2)
  let bundles := prbs.length * dur / l
  let c := bundles / r
  let perm := fun x => if inter then (x % r * c + x / r + p.nat 0x0C 2) % bundles else x
  let first := p.nat 0x0F 1 * 6 / l
  let n := pdcchAgg p * 6 / l
  (List.range n).flatMap fun i => (List.range l).map fun j =>
    let reg := perm (first + i) * l + j
    (p.nat 0x0A 1 / 16 + reg % dur, prbs.getD (reg / dur) 0)

/-- The subcarriers of a PDCCH in a symbol, ascending, without those of its DMRS. -/
def pdcchSub (p : Pdu) (sym : Nat) : List Nat :=
  ((((pdcchRegs p).filter fun q => q.1 == sym).map (·.2)).mergeSort fun a b => decide (a ≤ b)).flatMap fun b =>
    ((List.range 12).filter fun r => r % 4 != 1).map (12 * b + ·)

/-- A DCI's coded and scrambled bits (R281): CRC-24C over 24 leading ones, its last 16 bits masked with the RNTI. -/
def pdcchBits (p : Pdu) : List Bool :=
  let n := p.nat 0x16 1
  let dci := (List.range n).map fun i => (p.nat (0x20 + i / 8) 1).testBit (i % 8)
  let crc := crc24c 0 (List.replicate 24 true ++ dci)
  let masked := crc.take 8 ++ xorBits (crc.drop 8) (bitsOfNat 16 (p.nat 2 2))
  let e := 108 * pdcchAgg p
  xorBits (polarEncode (dci ++ masked) e) (gold (p.nat 0x12 2 * 2 ^ 16 + p.nat 0x10 2) e)

/-! ### SSB -/

/-- A maximum-length sequence of 7 registers: 127 bits from (x0 … x6) and the second tap beside x(i). -/
def mSeq (tap : Nat) : Nat → List Bool → List Bool
  | 0, _ => []
  | n + 1, x => x.getD 0 false :: mSeq tap n (x.drop 1 ++ [x.getD tap false != x.getD 0 false])

/-- A bit as 1 or -1. -/
def signOf (b : Bool) : Int := if b then -1 else 1

def pssAt (pci n : Nat) : Int :=
  signOf ((mSeq 4 127 [false, true, true, false, true, true, true]).getD ((n + 43 * (pci % 3)) % 127) false)

def sssAt (pci n : Nat) : Int :=
  let one := [true, false, false, false, false, false, false]
  let n1 := pci / 3
  signOf ((mSeq 4 127 one).getD ((n + 15 * (n1 / 112) + 5 * (pci % 3)) % 127) false)
    * signOf ((mSeq 1 127 one).getD ((n + n1 % 112) % 127) false)

/-- First subcarrier of an SSB: k_ssb counts 15 kHz (PRESUMED, log 48). -/
def ssbSub (mu : Nat) (p : Pdu) : Nat := 12 * p.nat 6 2 + (if mu = 1 then p.nat 5 1 / 2 else p.nat 5 1)

/-- Place G(j) of the PBCH payload interleaver (TS 38.212 7.1.1). -/
def pbchPlace : List Nat :=
  [16, 23, 18, 17, 8, 30, 10, 6, 24, 7, 0, 5, 3, 2, 1, 4, 9, 11, 12, 13, 14, 15, 19, 20, 21, 22, 25, 26, 27, 28, 29, 31]

/-- The interleaved PBCH payload: MIB, four SFN bits, half frame, the highest bit of k_ssb (R281); the SFN bits take the first places. -/
def pbchPayload (p : Pdu) (sfn : Nat) (half : Bool) : List Bool :=
  let a := bitsOfNat 24 (p.nat 0x0C 3) ++ bitsOfNat 4 sfn ++ [half, (p.nat 5 1).testBit 4, false, false]
  let cls := fun i => if (decide (1 ≤ i) && decide (i ≤ 6)) || (decide (24 ≤ i) && decide (i < 28)) then 0 else if i = 28 then 10 else if 29 ≤ i then 11 else 14
  let place := fun i => pbchPlace.getD (cls i + ((List.range i).filter fun j => cls j == cls i).length) 0
  (List.range 32).map fun j => match (List.range 32).find? fun i => place i == j with | some i => a.getD i false | none => false

/-- The 864 bits of a PBCH. `lmax4`: the burst has four places (carriers up to 3 GHz, log 104). -/
def pbchBits (p : Pdu) (sfn : Nat) (half lmax4 : Bool) : List Bool :=
  let pci := p.nat 2 2
  let a := pbchPayload p sfn half
  let keep := [pbchPlace.getD 10 0, pbchPlace.getD 7 0, pbchPlace.getD 8 0]
  let v := 2 * bitsOf sfn 2 1 + bitsOf sfn 1 1
  let c := (gold pci (29 * 4)).drop (29 * v)
  let scr := a.mapIdx fun i b => if keep.contains i then b else b != c.getD ((List.range i).filter fun j => !keep.contains j).length false
  let nu := p.nat 4 1 % (if lmax4 then 4 else 8)
  xorBits (polarEncode (scr ++ crc24c 0 scr) 864) ((gold pci (864 * 8)).drop (864 * nu))

/-- The PBCH takes a subcarrier of symbol 1 to 3 of its block: DMRS or data. -/
def pbchIn (l k : Nat) : Bool := l == 1 || l == 3 || (l == 2 && (decide (k < 48) || decide (192 ≤ k)))
def pbchPilot (pci k : Nat) : Bool := k % 4 == pci % 4

/-- Index of a resource element of the PBCH among those of its kind, in order of symbol and subcarrier. -/
def pbchIndex (pci l k : Nat) : Nat :=
  let like := fun m j => pbchIn m j && (pbchPilot pci j == pbchPilot pci k)
  (((List.range l).flatMap fun m => (List.range 240).filter (like m)) ++ (List.range k).filter (like l)).length

/-! ### CSI-RS (TS 38.211 7.4.1.5) -/

/-- Ports of the rows of the CSI-RS location table that have at most 16 (log 48). -/
def csiPorts (row : Nat) : Nat := [0, 1, 1, 2, 4, 4, 8, 8, 8, 12, 12, 16, 16].getD row 32
/-- Rows whose ports lie in two symbols, and rows of 4-port CDM groups. -/
def csiTwoSyms (row : Nat) : Bool := [5, 7, 8, 10, 11, 12].contains row
def csiCdm4 (row : Nat) : Bool := row == 8 || row == 10 || row == 12
def csiZp (p : Pdu) : Bool := (p.nat 0x0C 3).testBit 15
def csiFirst (p : Pdu) : Nat := p.nat 8 1 / 16

/-- The subcarrier k_i that the frequency bitmap gives. -/
def csiSub (p : Pdu) (i : Nat) : Nat :=
  let row := p.nat 4 1
  (((List.range 8).filter ((p.nat 5 1).testBit ·)).getD i 0) * (if row ≤ 2 then 1 else if row = 4 then 4 else 2)

/-- The CDM groups of a row: first subcarrier and symbol offset. -/
def csiGroups (p : Pdu) : List (Nat × Nat) :=
  let k := csiSub p
  let at_ := fun (n l : Nat) => (List.range n).map fun i => (k i, l)
  match p.nat 4 1 with
  | 1 => [(k 0, 0), (k 0 + 4, 0), (k 0 + 8, 0)]
  | 2 => at_ 1 0
  | 3 => at_ 1 0
  | 4 => [(k 0, 0), (k 0 + 2, 0)]
  | 5 => [(k 0, 0), (k 0, 1)]
  | 6 => at_ 4 0
  | 7 => at_ 2 0 ++ at_ 2 1
  | 8 => at_ 2 0
  | 9 => at_ 6 0
  | 10 => at_ 3 0
  | 11 => at_ 4 0 ++ at_ 4 1
  | 12 => at_ 4 0
  | _ => []

/-- A PRB of the PDU's range has its resource elements at the density of Table 11-4. -/
def csiPrb (p : Pdu) (b : Nat) : Bool :=
  let d := p.nat 0x0C 3
  decide (p.nat 6 2 ≤ b) && decide (b < p.nat 6 2 + d % 512) && (match d / 2 ^ 16 with | 0 => b % 2 == 0 | 1 => b % 2 == 1 | _ => true)

/-- What a CSI-RS has on a resource element: CDM group, k' and l'. -/
def csiHit (p : Pdu) (sym k : Nat) : Option (Nat × Nat × Nat) :=
  if !csiPrb p (k / 12) then none
  else
    let row := p.nat 4 1
    let fd := if row ≤ 2 then 1 else 2
    let td := if csiCdm4 row then 2 else 1
    ((csiGroups p).mapIdx fun j g => (j, g)).findSome? fun q =>
      let (j, kk, ll) := q
      if kk ≤ k % 12 ∧ k % 12 < kk + fd ∧ csiFirst p + ll ≤ sym ∧ sym < csiFirst p + ll + td then
        some (if row = 1 then 0 else j, k % 12 - kk, sym - csiFirst p - ll) else none

/-- The pilot of port `port` of an NZP CSI-RS on a resource element. -/
def csiPilot (p : Pdu) (prbs slot port sym k : Nat) : Option (Int × Int) :=
  match csiHit p sym k with
  | none => none
  | some (j, kf, lt) =>
    let row := p.nat 4 1
    let size := if row ≤ 2 then 1 else if csiCdm4 row then 4 else 2
    if port / size ≠ j then none
    else
      let id := p.nat 2 2
      let b := k / 12
      let half := decide ((p.nat 0x0C 3) / 2 ^ 16 < 2)
      let m := if row = 1 then 3 * b + k % 12 / 4 else if row = 2 then (if half then b / 2 else b) else (if half then b else 2 * b) + kf
      let flip := decide (port % 2 = 1 ∧ size ≠ 1 ∧ kf = 1) != decide (2 ≤ port % size ∧ lt = 1)
      some (pilotAt (gold ((2 ^ 10 * (14 * slot + sym + 1) * (2 * id + 1) + id) % 2 ^ 31) (6 * prbs + 2)) flip m)

end Sys2Proof.Machine
end

