-- ==== Sys2Proof/Machine/Estimate.lean ====
section
/-!
DEFINITION. The classical receiver of a PUSCH block (R252, R253): LS estimate by CH_LS, averages, interpolation, the noise estimate, MMSE
weights by Cholesky factorisation, and equalisation. Where R252 and R253 leave the order or scale of an FP32 step open the model takes
ascending indices and powers of two (DESIGN CHOICE, log 105).
-/
namespace Sys2Proof.Machine

/-! ### The block as both receivers read it -/

/-- The beam grid of a block's slot by symbol and group, with the carrier's PRBs, the slot's number in the frame and the least gain by symbol. -/
structure RxView where
  p     : Pdu
  prbs  : Nat
  slot  : Nat
  gmin  : List Nat
  beams : List (List BeamGroup)
deriving DecidableEq, Repr

def RxView.beam (v : RxView) (sym q : Nat) : BeamGroup := (v.beams.getD sym []).getD q { panel := 0#32, rows := [] }

def Pdu.prb0 (p : Pdu) : Nat := p.nat 6 2
def Pdu.prbN (p : Pdu) : Nat := p.nat 8 2
def Pdu.syms (p : Pdu) : List Nat := (List.range (p.nat 0x0A 1 % 16)).map (p.nat 0x0A 1 / 16 + ·)
def Pdu.inPrbs (p : Pdu) (b : Nat) : Bool := decide (p.prb0 ≤ b) && decide (b < p.prb0 + p.prbN)
def Pdu.ulLayers (p : Pdu) : Nat := p.nat 0x0B 1 % 16
def Pdu.ulQm (p : Pdu) : Nat := p.nat 0x0E 1 % 16
def Pdu.dmrsMask (p : Pdu) : Nat := p.nat 0x0C 2
def Pdu.ulCdm (p : Pdu) : Nat := p.nat 0x0F 1 / 16 % 4
def Pdu.ulPort (p : Pdu) : Nat := p.nat 0x0F 1 % 16
/-- Uplink DMRS has type 2 where the fields name what only type 2 has (PRESUMED, log 104). -/
def Pdu.ulType2 (p : Pdu) : Bool := decide (8 < p.ulPort + p.ulLayers) || p.ulCdm == 3

/-- A PUSCH resource element carries data. -/
def Pdu.ulData (p : Pdu) (sym k : Nat) : Bool := !dmrsRe p.ulType2 p.ulCdm p.dmrsMask sym k

/-- A beam group widened for CI16 tiles (R105), with the value of one unit of its lanes. -/
structure Wide where
  unit  : Word
  lanes : List (List (Int × Int))
deriving DecidableEq, Repr

def BeamGroup.wide (b : BeamGroup) : Wide :=
  let (sc, lanes, _) := widenGroup b.rows
  { unit := fmul (rne32 (sc.mul (.fin false 1 (-8)))) b.panel, lanes := lanes }

def Wide.lane (w : Wide) (i n : Nat) : Int × Int := (w.lanes.getD i []).getD n (0, 0)
/-- The value of a lane. -/
def Wide.value (w : Wide) (i n : Nat) : CW := cwScale w.unit (cwOf (cvOfInt (w.lane i n)))

/-! ### CH_LS and its averages (R252) -/

/-- CH_LS on one element: y × conj(p) × 1/|p|² with the pilot's levels as CI16, so |p|² = 2, rounded to CI16. -/
def chLs (y p : Int × Int) : Int × Int :=
  cvInt16 (cwVal (cwScale 0x3F000000#32 (cwMul (cwOf (cvOfInt y)) (cwConj (cwOf (cvOfInt p))))))

/-- The pilot of layer `j` on a subcarrier of a DMRS symbol. -/
def RxView.pilot (v : RxView) (j sym k : Nat) : Option (Int × Int) :=
  dmrsPilot v.p.ulType2 (dmrsSeq v.prbs v.slot sym (v.p.nat 0x1A 2)) (dmrsSecond v.p.dmrsMask sym) (v.p.ulPort + j) k

/-- The DMRS symbols of the block, and those that form one estimate with a symbol: its pair of adjacent ones. -/
def RxView.pilots (v : RxView) : List Nat := v.p.syms.filter (v.p.dmrsMask.testBit ·)
def RxView.mates (v : RxView) (sym : Nat) : List Nat :=
  v.pilots.filter fun l => l == sym || (dmrsSecond v.p.dmrsMask sym && l + 1 == sym) || (dmrsSecond v.p.dmrsMask l && l == sym + 1)

/-- What one unit of the averaged product stands for in unit-power terms: √(2 / n), as DMRS beside n - 1 other CDM groups without data is n
times as strong (TS 38.214; PRESUMED, log 105). -/
def RxView.pilotGain (v : RxView) : Word := sqrtFrac 2 (max 1 v.p.ulCdm) 0

/-- The estimate of beam `i` for layer `j` at a DMRS symbol, averaged over the PRB's elements of the layer's CDM group. -/
def RxView.estimate (v : RxView) (i j b sym : Nat) : CW :=
  let vs := (v.mates sym).flatMap fun l =>
    let w := (v.beam l (b / 4)).wide
    (List.range 12).filterMap fun r => (v.pilot j l (12 * b + r)).map fun p => cwScale w.unit (cwOf (cvOfInt (chLs (w.lane i (12 * b + r - 48 * (b / 4))) p)))
  cwScale (fmul (fdiv wOne (intToF (BitVec.ofNat 32 vs.length))) v.pilotGain) (cwSum vs)

/-- The estimate at any symbol: linear between DMRS symbols, constant outside them. -/
def RxView.channel (v : RxView) (i j b sym : Nat) : CW :=
  match (v.pilots.filter (· ≤ sym)).getLast?, v.pilots.find? (sym ≤ ·) with
  | some a, some c =>
    let ha := v.estimate i j b a
    if a = c then ha
    else
      let t := fdiv (intToF (BitVec.ofNat 32 (sym - a))) (intToF (BitVec.ofNat 32 (c - a)))
      let d := cwSub (v.estimate i j b c) ha
      (ffma d.1 t ha.1, ffma d.2 t ha.2)
  | some a, none => v.estimate i j b a
  | none, some c => v.estimate i j b c
  | none, none => cwZero

/-- σ² of a PRB: the mean |y - Σ h p|² over beams and DMRS elements. -/
def RxView.noise (v : RxView) (b : Nat) : Word :=
  let n := v.p.ulLayers
  let amp := fdiv wOne v.pilotGain
  let rs := v.pilots.flatMap fun l =>
    let w := (v.beam l (b / 4)).wide
    ((List.range 12).map (12 * b + ·)).flatMap fun k =>
      let ps := (List.range n).map fun j => v.pilot j l k
      if ps.all (·.isNone) then []
      else (List.range n).map fun i =>
        let fit := cwSum (ps.mapIdx fun j p => match p with
          | some p => cwMul (v.estimate i j b l) (cwScale amp (cwOf (cvOfInt p)))
          | none => cwZero)
        cwPower (cwSub (w.value i (k - 48 * (b / 4))) fit)
  fdiv (fsum rs) (intToF (BitVec.ofNat 32 rs.length))

/-! ### MMSE (R253) -/

def cwDivRe (a : CW) (d : Word) : CW := (fdiv a.1 d, fdiv a.2 d)

/-- Row `r` of the Cholesky factor of a Hermitian matrix, below the rows before it. -/
def cholRow (g : Nat → Nat → CW) (rows : List (List CW)) (r : Nat) : List CW :=
  (List.range (r + 1)).foldl (fun row c =>
    let other := if c = r then row else rows.getD c []
    let v := (List.range c).foldl (fun v m => cwSub v (cwMul (row.getD m cwZero) (cwConj (other.getD m cwZero)))) (g r c)
    row ++ [if c = r then (fsqrt v.1, 0#32) else cwDivRe v (other.getD c cwZero).1]) []

/-- The lower factor of an n × n matrix. -/
def cholesky (n : Nat) (g : Nat → Nat → CW) : List (List CW) := (List.range n).foldl (fun rows r => rows ++ [cholRow g rows r]) []

/-- The solution of L Lᴴ x = b. -/
def cholSolve (n : Nat) (l : List (List CW)) (b : Nat → CW) : List CW :=
  let at_ := fun r c => (l.getD r []).getD c cwZero
  let z := (List.range n).foldl (fun (z : List CW) r =>
    z ++ [cwDivRe ((List.range r).foldl (fun v m => cwSub v (cwMul (at_ r m) (z.getD m cwZero))) (b r)) (at_ r r).1]) []
  (List.range n).foldr (fun r (x : List CW) =>
    cwDivRe ((x.mapIdx fun m y => (r + 1 + m, y)).foldl (fun v q => cwSub v (cwMul (cwConj (at_ q.1 r)) q.2)) (z.getD r cwZero)) (at_ r r).1 :: x) []

/-- MMSE of a PRB and symbol: the weights by layer and beam, and the noise variance that each layer keeps. -/
def RxView.mmse (v : RxView) (b sym : Nat) : List (List CW) × List Word :=
  let n := v.p.ulLayers
  let h := (List.range n).map fun i => (List.range n).map fun j => v.channel i j b sym
  let at_ := fun i j => (h.getD i []).getD j cwZero
  let s2 := v.noise b
  let g := fun j k =>
    let sum := cwSum ((List.range n).map fun i => cwMul (cwConj (at_ i j)) (at_ i k))
    if j = k then (fadd sum.1 s2, sum.2) else sum
  let l := cholesky n g
  let cols := (List.range n).map fun i => cholSolve n l fun j => cwConj (at_ i j)
  let inv := (List.range n).map fun j => ((cholSolve n l fun r => if r = j then (wOne, 0#32) else cwZero).getD j cwZero).1
  ((List.range n).map fun j => cols.map fun c => c.getD j cwZero, inv.map (fmul s2))

/-- The least e for which every lane is at most 32,767 × 2^e. -/
def weightExp (row : List CW) : Int :=
  let (n, d) := maxAbs (row.flatMap fun w => [f32 w.1, f32 w.2])
  (leastExp 32767 n d).getD 0

/-- An equalised symbol: the CI16 tile of a row of weights over the beams, scaled to unit power at 1,024. -/
def equalise (row : List CW) (w : Wide) (n : Nat) : Int × Int :=
  let e := weightExp row
  let a := row.map fun z => cvInt16 (cvScale (.fin false 1 (-e)) (cwVal z))
  let r := macCell { radioMac with conjA := false } a ((List.range row.length).map fun i => w.lane i n)
  let c := fmul (rne32 (.fin false 1 e)) (fmul w.unit 0x44800000#32)
  cvInt16 (f32 (scaleAcc c r.re), f32 (scaleAcc c r.im))

/-- f_RE = 4 / (1,024² × σ²). -/
def demapFactor (s2 : Word) : Word := fdiv 0x36800000#32 s2

/-- The classical receiver's symbols and factors in order of data elements: symbol, subcarrier, layer. -/
def RxView.classical (v : RxView) : List ((Int × Int) × Word) :=
  v.p.syms.flatMap fun sym => (List.range v.p.prbN).flatMap fun b0 =>
    let b := v.p.prb0 + b0
    let (ws, s2) := v.mmse b sym
    let wide := (v.beam sym (b / 4)).wide
    ((List.range 12).filter fun r => v.p.ulData sym (12 * b + r)).flatMap fun r =>
      List.zipWith (fun row s => (equalise row wide (12 * b + r - 48 * (b / 4)), demapFactor s)) ws s2

end Sys2Proof.Machine
end

