-- ==== Sys2Proof/Machine/Ldpc.lean ====
section
/-!
DEFINITION. From equalised symbols to bits (R255 to R261): demapping by SQD_LLR, descrambling, rate recovery, HARQ combining, the layered
min-sum decoder on MINPLUS tiles, and the CRC tests.
-/
namespace Sys2Proof.Machine

/-! ### Demapping (R255) -/

/-- The distance tile of SQD_LLR. -/
def sqdTile : TileOp := { radioMac with mode := 1, conjA := false }

/-- A symbol of modulation index i of π/2-BPSK, de-rotated: a lane swap with one negation, which saturates (R255). -/
def derotate (i : Nat) (z : Int × Int) : Int × Int := if i % 2 = 0 then z else (z.2, min 32767 (-z.1))

/-- The INT8 LLRs of a symbol in bit order. -/
def demap (qm : Nat) (z : Int × Int) (f : Word) : List Int :=
  let dist := (List.range (2 ^ qm)).map fun j => scaleAcc f (macCell sqdTile [z] [pointCI qm j]).re
  (List.range qm).map fun b =>
    let best := fun v => ((dist.mapIdx fun j d => (j, d)).filter fun q => q.1 / 2 ^ (qm - 1 - b) % 2 == v).foldl (fun m q => fmin m q.2) wInf
    fvInt 8 (f32 (fsub (best 1) (best 0)))

/-! ### Rate recovery (R256) -/

/-- A sum kept in INT8 (R256). -/
def addInt8 (a b : Int) : Int := clampInt (-128) 127 (a + b)

/-- The LLRs of a code block over the circular buffer from the `e` received ones: de-interleaved, fillers +127, positions not transmitted
0, repeats added with saturation. -/
def CodeParams.recover (c : CodeParams) (rv qm : Nat) (ls : List Int) : List Int :=
  let e := ls.length
  let f := (List.range e).map fun j => ((List.range e).find? fun t => interleavePos e qm t == j).elim 0 fun t => ls.getD t 0
  let got := List.zip (c.matchPos rv e) f
  (List.range c.n).map fun i => if c.filler i then 127 else (got.filter fun q => q.1 == i).foldl (fun a q => addInt8 a q.2) 0

/-- LLRs cut into those of each code block. -/
def cutBlocks : List Nat → List Int → List (List Int)
  | [], _ => []
  | e :: es, ls => ls.take e :: cutBlocks es (ls.drop e)

/-- Descrambled LLRs: the sign turns where the sequence has a 1; -128 turns to 127. -/
def descramble (seq : List Bool) (ls : List Int) : List Int :=
  List.zipWith (fun b (l : Int) => if b then min 127 (-l) else l) seq ls

/-! ### HARQ (R257) -/

/-- LLR_HARQ: combined LLRs of a block and its soft buffer. -/
def combine (new old : List Int) : List Int := new.mapIdx fun i l => clampInt (-127) 127 (l + old.getD i 0)

def softBytes (ls : List Int) : List Byte := ls.map (BitVec.ofInt 8)
def softInts (bs : List Byte) : List Int := bs.map (·.toInt)

/-! ### LDPC on MINPLUS (R258 to R260) -/

/-- Source lane of align: PERM rotate with seg_len = Z up to 256, gather above (R259). -/
def alignSrc (z s r : Nat) : Nat :=
  if z ≤ 256 then permSrc { stageOf 0 with sub := 1, seg := z } z (fun _ => s) r else permSrc (stageOf 0) z (fun r => (r + s) % z) r
/-- Source lane of unalign: the inverse. -/
def unalignSrc (z s r : Nat) : Nat :=
  if z ≤ 256 then permSrc { stageOf 0 with sub := 1, seg := z } z (fun _ => z - s) r else permSrc (stageOf 0) z (fun r => (r + (z - s)) % z) r

/-- A check record (R258). -/
structure CheckRec where
  v1  : Int := 0
  v2  : Int := 0
  idx : Nat := 0
  neg : List Bool := []
deriving DecidableEq, Repr

def sgn (neg : Bool) : Int := if neg then -1 else 1

/-- The message of edge `e` from a record. -/
def CheckRec.expand (r : CheckRec) (e : Nat) : Int :=
  r.neg.foldl (fun p b => p * sgn b) 1 * sgn (r.neg.getD e false) * (if e = r.idx then r.v2 else r.v1)

/-- The INT8 MINPLUS tile. -/
def minTile : TileOp := { mode := 3, fmtA := 1, fmtB := 1, grp := false, acc := false, conjA := false, conjB := false, kbase := 0, gsize := 16 }

/-- One column of a MINPLUS tile whose A row is zero: the least value and its index. -/
def minColumn (bs : List Nat) : CellSt := runCell minTile (bs.map fun _ => 0) bs [] { re := 0#32, im := 0#32, idx := 0#6 }

/-- The tile pair of a chunk of checks from |Q| by edge and column: B, then B' with 127 at row idx of each column (R260). -/
def minPair (b : List (List Nat)) (n : Nat) : List (Nat × Word × Word) :=
  let col := fun (rows : List (List Nat)) j => rows.map fun r => r.getD j 0
  let first := (List.range n).map fun j => minColumn (col b j)
  let b' := b.mapIdx fun k row => row.mapIdx fun j v => if ((first.getD j { re := 0#32, im := 0#32, idx := 0#6 }).idx).toNat = k then 127 else v
  first.mapIdx fun j c => (c.idx.toNat, c.re, (minColumn (col b' j)).re)

/-- v of CN_MINPLUS: max(m - β, +0) × α, written to CI8 (R158, R258). -/
def cnValue (alpha beta m : Word) : Int := fvInt 8 (f32 (fmul (fmax (fadd (intToF m) (fneg beta)) 0#32) alpha))

/-- One layer: a row of the base graph over all its checks; the new APP values and records. -/
def ldpcLayer (c : CodeParams) (alpha beta : Word) (row : Nat) (app : List Int) (recs : List CheckRec) : List Int × List CheckRec :=
  let es := c.edges row
  let z := c.z
  let q := es.mapIdx fun e cs => (List.range z).map fun r =>
    clampInt (-127) 127 (app.getD (cs.1 * z + alignSrc z cs.2 r) 0 - (recs.getD r {}).expand e)
  let mins := (List.range ((z + 63) / 64)).flatMap fun k =>
    minPair (q.map fun l => ((l.drop (64 * k)).take 64).map (·.natAbs)) (min 64 (z - 64 * k))
  let new := mins.mapIdx fun r m =>
    { v1 := cnValue alpha beta m.2.1, v2 := cnValue alpha beta m.2.2, idx := m.1, neg := q.map fun l => decide (l.getD r 0 < 0) : CheckRec }
  let out := (q.mapIdx fun e l => l.mapIdx fun r v => clampInt (-127) 127 (v + (new.getD r {}).expand e))
  let app := (es.mapIdx fun e cs => (e, cs)).foldl (fun (app : List Int) p =>
    app.mapIdx fun i v => if i / z = p.2.1 then (out.getD p.1 []).getD (unalignSrc z p.2.2 (i % z)) 0 else v) app
  (app, new)

/-- Every parity check holds for the hard decisions. -/
def checksHold (c : CodeParams) (app : List Int) : Bool :=
  let bit := fun i => decide (app.getD i 0 < 0)
  (List.range c.rows).all fun row => (List.range c.z).all fun r => !c.check bit row r

/-- The bits of a code block with its CRC. -/
def hardBits (c : CodeParams) (app : List Int) : List Bool := (app.take c.kp).map fun l => decide (l < 0)

/-- The stop rule of R258. -/
def ldpcStop (c : CodeParams) (app : List Int) : Bool :=
  checksHold c app && (c.blocks == 1 || (let b := hardBits c app; crc24b (b.take (c.kp - 24)) == b.drop (c.kp - 24)))

/-- Iterations until the stop rule holds: the APP values, the iterations done, and whether it held. -/
def ldpcRun (c : CodeParams) (alpha beta : Word) : Nat → Nat → List Int → List (List CheckRec) → List Int × Nat × Bool
  | 0, done, app, _ => (app, done, false)
  | left + 1, done, app, recs =>
    let (app, recs) := (List.range c.rows).foldl (fun (a : List Int × List (List CheckRec)) row =>
      let (app, new) := ldpcLayer c alpha beta row a.1 (recs.getD row [])
      (app, a.2 ++ [new])) (app, [])
    if ldpcStop c app then (app, done + 1, true) else ldpcRun c alpha beta left (done + 1) app recs

/-- A code block decoded from its combined LLRs; the punctured columns start at 0. -/
def ldpcDecode (c : CodeParams) (alpha beta : Word) (maxIter : Nat) (ls : List Int) : List Int × Nat × Bool :=
  ldpcRun c alpha beta maxIter 0 (List.replicate (2 * c.z) 0 ++ ls) []

/-! ### A transport block (R261) -/

/-- max_iter, α and β of a carrier (Table 16-9). -/
structure LdpcSet where
  iters : Nat
  alpha : Word
  beta  : Word
deriving DecidableEq, Repr

def ldpcSet (v : Nat) : LdpcSet :=
  { iters := bitsOf v 11 5, alpha := rne32 (.fin false (bitsOf v 0 5) (-4)), beta := rne32 (FV.ofInt (bitsOf v 8 3 : Nat)) }

/-- What the decoder makes of a transport block: CRC result, bytes, largest iteration count, failed code blocks. -/
structure TbDone where
  pass   : Bool
  bits   : List Byte
  iters  : Nat
  failed : Nat
deriving DecidableEq, Repr

/-- The decoded transport block of combined LLRs, code block by code block. -/
def decodeTb (c : CodeParams) (w : LdpcSet) (tbs : Nat) (soft : List (List Int)) : TbDone :=
  let out := soft.map (ldpcDecode c w.alpha w.beta w.iters)
  let bits := out.flatMap fun o => (let b := hardBits c o.1; if c.blocks = 1 then b else b.take (c.kp - 24))
  let a := 8 * tbs
  let held := out.all fun o => o.2.2
  { pass := held && tbCrc (bits.take a) == (bits.drop a).take (if 3824 < a then 24 else 16)
    bits := bytesOfBits tbs (bits.take a)
    iters := (out.map fun o => o.2.1).foldl max 0
    failed := (out.filter fun o => !o.2.2).length }

end Sys2Proof.Machine
end

