-- ==== Sys2Proof/Machine/Learned.lean ====
section
/-!
DEFINITION. The reference grid receiver (R254, Table 10-2): features, and the two blocks of attention and MLP over one grid tile, with the
arithmetic of the menu entries that the table names. What lies where in a model image is not in the spec: uninterpreted reads (log 106).
-/
namespace Sys2Proof.Machine

/-! ### Tensors between steps -/

/-- A line of E4M3 elements in groups of 32 under a panel scale: scale code and element codes of each group. -/
abbrev QLine := List (Nat × List Nat)

/-- A line written as E4M3, G = 32 (R99, R100). -/
def quantLine (panel : Word) (xs : List Word) : QLine :=
  (chunks 32 (xs.length + 1) xs).map fun g =>
    let (code, cs, _) := writeGroup 4 panel false false (fun _ => 0) (g.mapIdx fun i x => { col := i, re := f32 x })
    (code, cs.map (·.2))

/-- The values of a line. -/
def lineValues (panel : Word) (q : QLine) : List Word :=
  q.flatMap fun g => g.2.map fun c => rne32 (((decodeReal 4 c).mul (decodeMag ue4m3F false g.1)).mul (f32 panel))

/-- The E4M3 group pair with G = 32, and the unscaled E4M3 pair. -/
def netTile (grp : Bool) : TileOp := { mode := 0, fmtA := 4, fmtB := 4, grp := grp, acc := false, conjA := false, conjB := false, kbase := 0, gsize := 32 }
def cellZero : CellSt := { re := 0#32, im := 0#32, idx := 0#6 }

/-- Output `o` of matrix `m` on a line, after PSCALE (the weights' panel scale is 1.0, R367). -/
def netDot (img : List Byte) (m o : Nat) (panel : Word) (q : QLine) : Word :=
  let xs := q.flatMap (·.2)
  let sc := q.mapIdx fun g p => (decodeMag ue4m3F false p.1, decodeMag ue4m3F false (Config.netScale img m o g))
  fmul (runCell (netTile true) xs ((List.range xs.length).map (Config.netCode img m o)) sc cellZero).re (fmul panel wOne)

def addVec (img : List Byte) (v : Nat) (xs : List Word) : List Word := xs.mapIdx fun i x => fadd x (Config.netVec img v i)

/-- MM_BIAS_ACT, its ACT being the step's. -/
def biasAct (img : List Byte) (step m v n : Nat) (panel : Word) (q : QLine) : List Word :=
  (addVec img v ((List.range n).map fun o => netDot img m o panel q)).map fun x => if Config.netAct step < 5 then actLane (Config.netAct step) x else x

/-- MM_RESID_LNORM: product plus residual, normalised with gain and bias. -/
def residNorm (img : List Byte) (m gain bias : Nat) (panel : Word) (q : QLine) (resid : List Word) : List Word :=
  let xs := resid.mapIdx fun o r => fadd (netDot img m o panel q) r
  let (ys, _) := secondRow 7 8 xs.length Config.netEps (Config.netVec img gain) (Config.netVec img bias) [xs.map some]
  ys.flatten.map fun y => y.getD 0#32

/-- MM_GLU over a line: SiLU(gate) × up. -/
def glu (img : List Byte) (m n : Nat) (panel : Word) (q : QLine) : List Word :=
  (List.range n).map fun i => fmul (fsilu (netDot img m i panel q)) (netDot img m (n + i) panel q)

/-! ### Features (step 1) -/

/-- The 32 features of a token (R254): the beam grid and the classical estimate at its four elements, σ² of the PRB, G_min / 32. -/
def RxView.features (v : RxView) (layer group token : Nat) : List Word :=
  let sym := token / 12
  let q := token % 12
  let b := 4 * group + q / 3
  let y := (List.range 4).flatMap fun e => (let z := cwOf ((v.beam sym group).value layer (4 * q + e)); [z.1, z.2])
  let h := v.channel layer layer b sym
  y ++ (List.replicate 4 [h.1, h.2]).flatten ++ [v.noise b, fdiv (intToF (BitVec.ofNat 32 (v.gmin.getD sym 0))) 0x42000000#32] ++ List.replicate 14 0#32

/-- A token outside the block's PRBs or symbols is masked. -/
def RxView.masked (v : RxView) (group token : Nat) : Bool := !(v.p.inPrbs (4 * group + token % 12 / 3) && v.p.syms.contains (token / 12))

/-- The step-1 tensor of a tile; features that are not formed, in masked tokens, are 0. -/
def RxView.tileFeatures (v : RxView) (layer group : Nat) : List QLine :=
  (List.range 168).map fun t => quantLine Config.featurePanel (if v.masked group t then List.replicate 32 0#32 else v.features layer group t)

/-! ### Attention (step 4) -/

/-- The unscaled E4M3 code of a value. -/
def e4m3Of (x : Word) : Nat := (convFloat e4m3F false {} (f32 x)).code

/-- One query row over the 192 key lanes: lanes 168 up and masked tokens are masked keys; O / l (R150, R152). -/
def attnQuery (mask : List Bool) (ks vs : List (List Nat)) (query : List Nat) : List Word :=
  let ls := (List.range 192).map fun j =>
    let score := (runCell (netTile false) query (ks.getD j []) [] cellZero).re
    ((some (fmul (fmul score wOne) Config.netSoftmax) : Option Word), mask.getD j true)
  let (_, _, ps, flag) := attnRow wNegInf 0 ls
  let p := ps.map fun c => c.getD 0
  let l := (tree (fun a b => (fadd a b, false)) 16 (p.map fun c => some (bf16Word c))).1.getD 0#32
  let tile := { netTile false with fmtA := 6, fmtB := 6 }
  (List.range 64).map fun d =>
    let o := (runCell tile p ((List.range 192).map fun j => (vs.getD j []).getD d 0) [] cellZero).re
    if 2 ≤ flag % 4 then wNan else if (f32 l).isZero then 0#32 else fmul (fdiv o l) wOne

/-- GRID_ATTN over the tokens' Q, K and V in unscaled E4M3. -/
def gridAttn (mask : List Bool) (qkv : List (List Word)) : List (List Word) :=
  let code := fun (o : Nat) (x : List Word) => ((x.drop o).take 64).map e4m3Of
  let ks := qkv.map (code 64)
  let vs := qkv.map fun x => (code 128 x).map fun c => (convFloat bf16F false {} (decodeReal 4 c)).code
  qkv.map fun x => attnQuery mask ks vs (code 0 x)

/-! ### The network -/

/-- Steps 3 to 7 with the weights of one block: matrices 1 to 4 or 5 to 8, vectors after the embedding's bias. -/
def netBlock (img : List Byte) (mask : List Bool) (b : Nat) (xs : List QLine) : List QLine :=
  let m := 1 + 4 * b
  let v := 1 + 5 * b
  let qkv := xs.map fun x => biasAct img (3 + 5 * b) m v 192 wOne x
  let att := (gridAttn mask qkv).map (quantLine wOne)
  let ys := List.zipWith (fun a x => quantLine wOne (residNorm img (m + 1) (v + 1) (v + 2) wOne a (lineValues wOne x))) att xs
  ys.map fun y => quantLine wOne (residNorm img (m + 3) (v + 3) (v + 4) wOne (quantLine wOne (glu img (m + 2) 128 wOne y)) (lineValues wOne y))

/-- A tile through Table 10-2: by token the four CI16 symbols and their f_RE. -/
def learnedTile (img : List Byte) (mask : List Bool) (features : List QLine) : List (List ((Int × Int) × Word)) :=
  let xs := features.map fun f => quantLine wOne (biasAct img 2 0 0 64 Config.featurePanel f)
  let xs := netBlock img mask 1 (netBlock img mask 0 xs)
  xs.map fun x =>
    let z := biasAct img 9 9 11 8 wOne x
    let f := (addVec img 12 ((List.range 4).map fun o => netDot img 10 o wOne x)).map fexp
    (List.range 4).map fun e => (cvInt16 (f32 (z.getD (2 * e) 0#32), f32 (z.getD (2 * e + 1) 0#32)), f.getD e 0#32)

/-- The learned receiver's symbols and factors in order of data elements: symbol, subcarrier, layer. -/
def RxView.learned (v : RxView) (img : List Byte) : List ((Int × Int) × Word) :=
  let tiles := (List.range v.p.ulLayers).map fun l => (List.range ((v.prbs + 3) / 4)).map fun g =>
    learnedTile img ((List.range 168).map (v.masked g)) (v.tileFeatures l g)
  v.p.syms.flatMap fun sym => ((List.range (12 * v.prbs)).filter fun k => v.p.inPrbs (k / 12) && v.p.ulData sym k).flatMap fun k =>
    tiles.map fun gs => ((((gs.getD (k / 48) []).getD (12 * sym + k % 48 / 4) []).getD (k % 4) ((0, 0), 0#32)))

end Sys2Proof.Machine
end

