-- ==== Sys2Proof/Machine/Receiver.lean ====
section
/-!
DEFINITION. What the paths of a carrier's receiver make of a block (R252 to R261, R264), of UCI (R269, R270), of SRS (R272), from the grid ring,
the weight sets, the model and the soft buffers.
-/
namespace Sys2Proof.Machine

/-! ### Slots and weight sets -/

/-- The slot number of a reference, the last one up to the running slot (Table 10-8). -/
def Carrier.ixOf (x : Carrier) (slot : Word) : Nat :=
  let n := 1024 * slotsPerFrame x.conf
  x.slotIx - (x.slotIx % n + n - refIndex slot) % n

/-- How many slots ahead of the running one a reference lies; half the cycle or more is the past (DEDUCED, log 110). -/
def Carrier.ahead (x : Carrier) (now : Nat) (slot : Word) : Nat :=
  let n := 1024 * slotsPerFrame x.conf
  (refIndex slot + n - (if x.started then x.slotIx else slotAt x.conf now) % n) % n
def Carrier.inPast (x : Carrier) (now : Nat) (slot : Word) : Bool := decide (512 * slotsPerFrame x.conf ≤ x.ahead now slot)

/-- A set's bytes at a device time. -/
def WeightSet.at_ (w : WeightSet) (t : Int) : List Byte :=
  if (w.since : Int) ≤ t then w.bytes
  else match w.old.find? fun o => decide ((o.1 : Int) ≤ t) with
    | some o => o.2
    | none => []

/-- A slot uses each set as it stood 250 µs before its start (R290). -/
def Carrier.slotSet (x : Carrier) (num ix : Nat) : List Byte :=
  match x.weights.find? fun w => w.num == num with
  | some w => w.at_ (slotStart x.conf ix - 250000)
  | none => []

/-- Put a weight set; what it held stays for the slots that began before (R290). -/
def Carrier.setWeights (x : Carrier) (num now : Nat) (b : List Byte) : Carrier :=
  let old := match x.weights.find? fun w => w.num == num with
    | some w =>
      let os := (w.since, w.bytes) :: w.old
      os.take ((os.takeWhile fun o => decide (now < o.1 + 4000000)).length + 1)
    | none => []
  { x with weights := x.weights.filter (fun w => w.num != num) ++ [{ num := num, bytes := b, since := now, old := old }] }

/-! ### A PUSCH block -/

/-- The beam grid of a block and what its receivers read with it. -/
def State.rxView (s : State) (k : CarrierId) (slot : Word) (p : Pdu) : RxView :=
  let x := s.carrier k
  let ix := x.ixOf slot
  let g := s.ringAt k ix
  let w := x.slotSet (p.nat 0x12 2) ix
  { p := p, prbs := cfgPrbs x.conf, slot := bitsOf slot.toNat 13 5
    gmin := (List.range 14).map fun sym => (x.rxPaths.map fun q => s.gridGain g sym q).foldl min 31
    beams := (List.range 14).map fun sym =>
      if p.syms.contains sym then (List.range g.groups).map fun q => s.beam k g w p.ulLayers sym q else [] }

/-- The PDU carries UCI. -/
def Pdu.hasUci (p : Pdu) : Bool := p.nat 0x1C 1 != 0 || p.nat 0x1E 4 != 0

/-- The LLRs of a block in order of its coded bits, descrambled (R255, R256). -/
def RxView.llrs (v : RxView) (res : List ((Int × Int) × Word)) : List Int :=
  let p := v.p
  let ls := (res.mapIdx fun i z => demap p.ulQm (if p.ulQm = 1 then derotate i z.1 else z.1) z.2).flatten
  descramble (gold (dataInit p.rnti (p.nat 0x18 2)) ls.length) ls

/-- The LLRs of the transport block: those that UCI overwrites are 0, those of UCI alone are left out (R270). -/
def Pdu.dataLlrs (p : Pdu) (ls : List Int) : List Int :=
  if !p.hasUci then ls
  else (ls.mapIdx fun i l => (Config.uciUse p.bytes i, l)).filterMap fun q => if q.1 = 0 then some q.2 else if q.1 = 2 then some 0 else none

/-- The code of a PUSCH block. -/
def Pdu.code (p : Pdu) : CodeParams := codeParams p.tbs (p.nat 0x10 2)

/-- What a receiver path made of one transport block (R261, R263), with its combined LLRs (R257). -/
structure PathDone where
  pass   : Bool
  bits   : List Byte
  iters  : Byte
  cbFail : Byte
  soft   : List Byte
deriving DecidableEq, Repr

/-- A path from its symbols on: demapping, rate recovery, combining with the buffer's content, decoding (R255 to R261). -/
def RxView.decode (v : RxView) (w : LdpcSet) (old : List Byte) (res : List ((Int × Int) × Word)) : PathDone :=
  let p := v.p
  let c := p.code
  let ls := p.dataLlrs (v.llrs res)
  let blocks := (cutBlocks (c.share ls.length p.ulLayers p.ulQm) ls).map (c.recover (p.nat 5 1 % 4) p.ulQm)
  let soft := blocks.mapIdx fun i b => combine b ((softInts (old.drop (i * c.n))).take c.n)
  let d := decodeTb c w p.tbs soft
  { pass := d.pass, bits := d.bits, iters := BitVec.ofNat 8 (min 255 d.iters), cbFail := BitVec.ofNat 8 (min 255 d.failed), soft := soft.flatMap softBytes }

/-- The soft buffer that a block combines with: none when ndi has toggled (R257). -/
def Carrier.oldSoft (x : Carrier) (p : Pdu) : List Byte :=
  match x.soft.find? fun b => b.rnti.toNat == p.rnti && b.harq.toNat == p.harq with
  | some b => if b.ndi == p.ndi then b.soft else []
  | none => []

/-- The image of the model that a slot uses (R264): the live one, or one that it followed. -/
def Carrier.imageOf (x : Carrier) (id : Word) : Option (List Byte) :=
  ((([x.live, x.prev, x.loaded, x.cand].filterMap fun m => m).find? fun (m : Model) => m.id == id).map fun m => m.image)

/-- The result of the classical path (R253) and of the learned path under a model (R254). -/
def State.classicalPath (s : State) (k : CarrierId) (slot : Word) (p : Pdu) : PathDone :=
  let x := s.carrier k
  let v := s.rxView k slot p
  v.decode (ldpcSet (x.field 0x34 2)) (x.oldSoft p) v.classical

/-- The bytes of a model image before its signature block (R490). -/
def modelBody (image : List Byte) : List Byte := image.take (image.length - 128)

def State.learnedPath (s : State) (k : CarrierId) (slot : Word) (model : Word) (p : Pdu) : Option PathDone :=
  let x := s.carrier k
  let v := s.rxView k slot p
  (x.imageOf model).map fun img => v.decode (ldpcSet (x.field 0x34 2)) (x.oldSoft p) (v.learned (modelBody img))

/-! ### UCI (R269, R270) -/

/-- The decoded content of a PUCCH or PUSCH UCI occasion (Table 10-15). -/
structure UciResult where
  crcOk    : Bool
  srSeen   : Bool
  ackSeen  : Bool
  csi2     : Bool
  ackBits  : Byte
  csi1Bits : Half
  csi2Bits : Half
  sinr     : Half
  bits     : List Byte
deriving DecidableEq, Repr

/-- How well a codeword fits soft bits of which a positive one favours 0. -/
def fit (code : Nat → Bool) (ls : List Int) : Int := (ls.mapIdx fun i l => if code i then -l else l).foldl (· + ·) 0

/-- The candidate that fits best, the earliest of several. -/
def bestOf (n : Nat) (score : Nat → Int) : Nat := (List.range n).foldl (fun b j => if score b < score j then j else b) 0

/-- A part of `a` bits: repetition, simplex, the (32, K) block code, or the polar list with its CRC; none where the CRC fails. -/
def decodePart (a : Nat) (ls : List Int) : Option (List Bool) :=
  if a = 0 then some []
  else if a ≤ 11 then
    let word := fun (j i : Nat) =>
      if a = 1 then j == 1
      else if a = 2 then (match i % 3 with | 0 => j.testBit 1 | 1 => j.testBit 0 | _ => j.testBit 1 != j.testBit 0)
      else (List.range a).foldl (fun p k => p != (j.testBit (a - 1 - k) && Config.rmBasis (i % 32) k)) false
    some (bitsOfNat a (bestOf (2 ^ a) fun j => fit (word j) ls))
  else
    let crc := fun (b : List Bool) => if a < 20 then crc6 b else crc11 b
    (((List.range 8).map (Config.polarList a ls)).find? fun c => crc (c.take a) == c.drop a).map (·.take a)

/-- Bits packed from bit 0 of byte 0, padded with 0 (Table 10-15). -/
def packBits (l : List Bool) : List Byte :=
  (List.range ((l.length + 7) / 8)).map fun i =>
    BitVec.ofNat 8 ((List.range 8).foldl (fun n j => n + (if l.getD (8 * i + j) false then 2 ^ j else 0)) 0)

/-- The report of three parts; the bits of a part whose CRC fails are left out. -/
def uciOf (ack csi1 csi2 : Option (List Bool)) (srSeen ackSeen : Bool) (sinr : Half) : UciResult :=
  let n := fun (p : Option (List Bool)) => (p.getD []).length
  { crcOk := ack.isSome && csi1.isSome && csi2.isSome, srSeen := srSeen, ackSeen := ackSeen, csi2 := decide (0 < n csi2)
    ackBits := BitVec.ofNat 8 (n ack), csi1Bits := BitVec.ofNat 16 (n csi1), csi2Bits := BitVec.ofNat 16 (n csi2), sinr := sinr
    bits := packBits (ack.getD [] ++ csi1.getD [] ++ csi2.getD []) }

/-- What the grid ring holds of groups of symbols: scale entries, mantissas, panel scales and gains (the DSP cores' input). -/
def State.gridBytes (s : State) (g : GridAt) (syms groups : List Nat) : List Byte :=
  syms.flatMap fun sym =>
    s.readPhys (g.base + 64 + 4 * sym) 4 ++ s.readPhys (g.base + ringGains + 64 * sym) 64
      ++ (List.range g.lines).flatMap fun l => groups.flatMap fun q => s.readPhys (g.entry sym l q) 2 ++ s.readPhys (g.elems sym l q) 96

/-- The groups of a PUCCH's PRBs in both hops. -/
def pucchGroups (p : Pdu) (groups : Nat) : List Nat :=
  let in_ := fun (start q : Nat) => decide (start / 4 ≤ q) && decide (q ≤ (start + p.nat 8 1 - 1) / 4)
  (List.range groups).filter fun q => in_ (p.nat 6 2) q || ((p.nat 9 1).testBit 0 && in_ (p.nat 0x0A 2) q)

/-- A PUCCH occasion: combining and demodulation are the kernel's (log 107), decoding as R269 lists it. Formats 0 and 1 carry HARQ-ACK alone,
formats 2 to 4 HARQ-ACK, SR and CSI part 1 in one codeword and CSI part 2 in another. -/
def State.pucchUci (s : State) (k : CarrierId) (slot : Word) (p : Pdu) : UciResult :=
  let g := s.ringAt k ((s.carrier k).ixOf slot)
  let bytes := s.gridBytes g (((List.range (p.nat 5 1 % 16)).map (p.nat 5 1 / 16 + ·))) (pucchGroups p g.groups)
  let seen := Config.uciSeen p.bytes slot bytes
  let sr := p.nat 0x0E 1 % 2
  let ack := p.nat 0x0D 1
  let sinr := Config.uciSinr p.bytes slot bytes
  if p.nat 4 1 % 8 < 2 then uciOf (decodePart ack (Config.pucchSoft p.bytes slot bytes 0)) (some []) (some []) (sr == 1 && seen 0) (seen 1) sinr
  else
    let joint := decodePart (ack + sr + p.nat 0x10 2) (Config.pucchSoft p.bytes slot bytes 0)
    uciOf (joint.map (·.take ack)) (joint.map (·.drop (ack + sr))) (decodePart (p.nat 0x12 2) (Config.pucchSoft p.bytes slot bytes 1))
      (sr == 1 && (joint.getD []).getD ack false) (seen 1) sinr

/-- UCI multiplexed on PUSCH, whatever path is primary: equalised by the classical receiver and demapped by SQD_LLR (R270). -/
def State.puschUci (s : State) (k : CarrierId) (slot : Word) (p : Pdu) (sinr : Half) : UciResult :=
  let v := s.rxView k slot p
  let ls := ((v.llrs v.classical).mapIdx fun i l => (Config.uciUse p.bytes i, l)).filterMap fun q => if q.1 = 0 then none else some q.2
  let part := fun (i a : Nat) => decodePart a (Config.uciPart p.bytes i ls)
  uciOf (part 0 (p.nat 0x1C 1)) (part 1 (p.nat 0x1E 2)) (part 2 (p.nat 0x20 2)) false true sinr

/-! ### SRS (R272) -/

/-- SRS ports of a PDU. -/
def srsPorts (p : Pdu) : Nat := match p.nat 4 1 % 4 with | 0 => 1 | 1 => 2 | _ => 4

/-- The wideband covariance of the paths in FP32: over ports and subcarriers in ascending order. -/
def srsCovariance (h : Nat → Nat → Nat → Word × Word) (paths ports subs : Nat) : List CW :=
  (List.range paths).flatMap fun a => (List.range paths).map fun b =>
    cwSum ((List.range ports).flatMap fun q => (List.range subs).map fun k => cwMul (h a q k) (cwConj (h b q k)))

/-- A weight set from the strongest eigenvectors, one layer per port; each weight is RNE(v / scale), layers beyond are zero (R251, R285). -/
def srsWeights (paths : List Nat) (cov : List CW) (layers : Nat) : List Byte :=
  let scale := fun (l : Nat) => if l < layers then Config.eigScale cov l else 0#32
  let weight := fun (l p : Nat) => match paths.findIdx? (· == p) with
    | some i => if l < layers then (let z := Config.eigVector cov l i; cvInt16 (quot32 (f32 z.1) (f32 (scale l)), quot32 (f32 z.2) (f32 (scale l)))) else (0, 0)
    | none => (0, 0)
  (List.range 8).flatMap (fun l => leBytes 4 (scale l).toNat)
    ++ (List.range 8).flatMap fun l => (List.range 64).flatMap fun p => leBytes 4 (codeCI16 (weight l p))

/-- What the DSP cores make of an SRS PDU: SNR, timing offset, and the weight set. -/
def State.srsOf (s : State) (k : CarrierId) (slot : Word) (p : Pdu) : (Half × Half) × List Byte :=
  let x := s.carrier k
  let g := s.ringAt k (x.ixOf slot)
  let bytes := s.gridBytes g ((List.range (p.nat 5 1 % 16)).map (p.nat 5 1 / 16 + ·)) (List.range g.groups)
  let cov := srsCovariance (Config.srsChannel p.bytes slot bytes) x.rxPaths.length (srsPorts p) (12 * cfgPrbs x.conf)
  (Config.srsMeas p.bytes slot bytes, srsWeights x.rxPaths cov (srsPorts p))

end Sys2Proof.Machine
end

