-- ==== Sys2Proof/Machine/Uplink.lean ====
section
/-!
DEFINITION. The uplink schedule and its reports (R273, R274, Tables 10-9 to 10-17), arbitration and the receiver state (R262 to R266),
deadlines (R245), HARQ soft buffers (R257), UCI, PRACH and SRS reports (R269 to R272), and the checkpoint record (R436).
What the receivers and the DSP kernels form stands in Receiver.lean.
-/
namespace Sys2Proof.Machine

/-! ### Schedules -/

def findSched (l : List Sched) (slot : Word) : Option Sched := l.find? fun x => x.slot == slot
def modSched (l : List Sched) (slot : Word) (f : Sched → Sched) : List Sched := l.map fun x => if x.slot == slot then f x else x
/-- Add or replace a schedule. -/
def putSched (l : List Sched) (x : Sched) : List Sched :=
  if (findSched l x.slot).isSome then modSched l x.slot fun _ => x else l ++ [x]
/-- A carrier keeps schedules up to `past` slots past: 64 (DESIGN CHOICE, log 110), and those of the uplink in a standby four (R435). -/
def keepScheds (past : Nat) (x : Carrier) (l : List Sched) : List Sched :=
  let n := 1024 * slotsPerFrame x.conf
  l.filter fun q => decide ((x.slotIx % n + n - refIndex q.slot) % n ≤ past ∨ 512 * slotsPerFrame x.conf < (x.slotIx % n + n - refIndex q.slot) % n)

/-- Cut the PDUs of a part by their length bytes; bytes that no length fits leave PDUs without bytes, which are invalid. -/
def cutPdus : Nat → List Byte → List Pdu
  | 0, _ => []
  | n + 1, bs =>
    let len := fieldAt bs 1 1
    if 2 ≤ len ∧ len ≤ bs.length then { bytes := bs.take len } :: cutPdus n (bs.drop len)
    else { bytes := [] } :: cutPdus n []

/-- The PDUs of a complete schedule in order of their parts. -/
def Sched.assemble (x : Sched) : List Pdu :=
  (List.range x.parts).flatMap fun i => match x.got.find? fun g => g.1 == i with | some g => g.2.2 | none => []

/-- A PRB range inside the carrier's grid. -/
def prbsOk (prbs start count : Nat) : Bool := decide (1 ≤ count) && decide (start + count ≤ prbs)
def symsOk (b : Nat) : Bool := decide (1 ≤ b % 16) && decide (b / 16 + b % 16 ≤ 14)

/-- A PUSCH PDU keeps Table 10-10 and names a weight set that is not empty (R251). -/
def puschOk (x : Carrier) (p : Pdu) : Bool :=
  p.bytes.length == 48 && p.nat 1 1 == 48 && p.nat 4 1 < 32 && p.nat 5 1 < 4 && p.nat 6 2 < 273 && prbsOk (cfgPrbs x.conf) (p.nat 6 2) (p.nat 8 2)
    && symsOk (p.nat 0x0A 1) && decide (1 ≤ p.nat 0x0B 1 ∧ p.nat 0x0B 1 ≤ x.field 6 1) && p.nat 0x0C 2 < 0x4000
    && [1, 2, 4, 6, 8].contains (p.nat 0x0E 1) && p.nat 0x0F 1 < 64 && p.nat 0x0F 1 / 16 != 0 && p.nat 0x0F 1 % 16 < 12
    && p.nat 0x12 2 < 1024 && x.weights.any (fun w => w.num == p.nat 0x12 2) && p.nat 0x22 2 < 2 && (p.bytes.drop 0x24).all (· == 0#8)

/-- A PUCCH PDU keeps Table 10-11. -/
def pucchOk (x : Carrier) (p : Pdu) : Bool :=
  p.bytes.length == 24 && p.nat 1 1 == 24 && p.nat 4 1 < 5 && symsOk (p.nat 5 1) && decide (1 ≤ p.nat 8 1 ∧ p.nat 8 1 ≤ 16)
    && prbsOk (cfgPrbs x.conf) (p.nat 6 2) (p.nat 8 1) && p.nat 9 1 < 2 && p.nat 0x0A 2 < 512 && p.nat 0x0E 1 < 2 && p.nat 0x0F 1 == 0
    && p.nat 0x16 2 == 0

/-- A PRACH PDU keeps Table 10-12. -/
def prachOk (p : Pdu) : Bool :=
  p.bytes.length == 16 && p.nat 1 1 == 16 && (p.nat 2 1 < 4 || decide (0x10 ≤ p.nat 2 1 ∧ p.nat 2 1 ≤ 0x16)) && p.nat 3 1 < 8
    && p.nat 4 2 < 1024 && p.nat 6 1 < 16 && p.nat 7 1 < 3 && p.nat 8 2 < 512 && p.nat 0x0A 1 < 14
    && decide (1 ≤ p.nat 0x0B 1 ∧ p.nat 0x0B 1 ≤ 64) && p.nat 0x0E 2 == 0

/-- An SRS PDU keeps Table 10-13. -/
def srsOk (p : Pdu) : Bool :=
  p.bytes.length == 24 && p.nat 1 1 == 24 && p.nat 4 1 < 3 && [1, 2, 4].contains (p.nat 5 1 % 16) && decide (p.nat 5 1 / 16 + p.nat 5 1 % 16 ≤ 14)
    && p.nat 6 1 < 24 && p.nat 7 1 < 16 && p.nat 8 1 < 64 && p.nat 9 1 < 4 && p.nat 0x0A 1 < 68 && p.nat 0x0B 1 < 2 && p.nat 0x0C 2 < 512
    && p.nat 0x0E 2 < 1024 && (p.nat 0x0B 1 == 0 || decide (512 ≤ p.nat 0x10 2 ∧ p.nat 0x10 2 < 1024)) && p.nat 0x12 6 == 0

def ulPduOk (x : Carrier) (p : Pdu) : Bool :=
  match p.typ with
  | 1 => puschOk x p
  | 2 => pucchOk x p
  | 3 => prachOk p
  | 4 => srsOk p
  | _ => false

/-- Check the PDUs of a complete uplink schedule; of two blocks with one RNTI and HARQ process the later is invalid (R267, R273). -/
def checkUl (x : Carrier) (ps : List Pdu) : List Pdu :=
  ps.mapIdx fun i p =>
    let twice := p.typ == 1 && (ps.take i).any fun q => q.typ == 1 && ulPduOk x q && q.rnti == p.rnti && q.harq == p.harq
    if p.decided then p else if ulPduOk x p && !twice then p else p.settle stPduInvalid

/-! ### Reports -/

/-- ul.tb (Table 10-14, R274). -/
def State.sendTb (s : State) (k : CarrierId) (slot : Word) (i : Nat) (p : Pdu) : State :=
  let hdr := fun (off len : Nat) =>
    leBytes 4 slot.toNat ++ leBytes 2 i ++ leBytes 2 p.rnti ++ leBytes 1 p.harq ++ [p.path] ++ leBytes 2 p.status.toNat ++ leBytes 4 p.tbs
      ++ leBytes 4 off ++ leBytes 2 len ++ [p.iters, p.cbFail] ++ leBytes 2 p.sinr.toNat ++ leBytes 2 p.ta.toNat ++ leBytes 4 0
  if p.status = stOk then
    (List.range ((p.tbs + 1375) / 1376)).foldl (fun s n =>
      let d := (p.data.drop (1376 * n)).take (min 1376 (p.tbs - 1376 * n))
      s.slotMsg k 0x0A21 p.status (hdr (1376 * n) d.length ++ d)) s
  else s.slotMsg k 0x0A21 p.status (hdr 0 0)

/-- ul.uci (Table 10-15). -/
def State.sendUci (s : State) (k : CarrierId) (slot : Word) (i : Nat) (p : Pdu) (st : Half) (r : UciResult) : State :=
  let src := if p.typ = 1 then 5 else p.nat 4 1 % 8
  let flags := (if r.srSeen then 4 else 0) + (if r.ackSeen then 0 else 2) + (if r.csi2 then 1 else 0)
  s.slotMsg k 0x0A22 st (leBytes 4 slot.toNat ++ leBytes 2 i ++ leBytes 2 p.rnti ++ leBytes 2 st.toNat ++ leBytes 1 src ++ leBytes 1 flags
    ++ [r.ackBits, 0#8] ++ leBytes 2 r.csi1Bits.toNat ++ leBytes 2 r.csi2Bits.toNat ++ leBytes 2 r.sinr.toNat ++ leBytes 4 0 ++ r.bits)

/-- A detected preamble: index, timing advance, power (Table 10-16). -/
abbrev Preamble := Nat × Half × Half

/-- ul.prach and ul.srs (Table 10-16). -/
def State.sendPrach (s : State) (k : CarrierId) (slot : Word) (p : Pdu) (st : Half) (found : List Preamble) : State :=
  s.slotMsg k 0x0A23 st (leBytes 4 slot.toNat ++ leBytes 1 (p.nat 3 1 % 8) ++ leBytes 1 found.length ++ [0#8, 0#8]
    ++ found.flatMap fun q => leBytes 1 q.1 ++ [0#8] ++ leBytes 2 q.2.1.toNat ++ leBytes 2 q.2.2.toNat ++ [0#8, 0#8])

def State.sendSrs (s : State) (k : CarrierId) (slot : Word) (i : Nat) (p : Pdu) (st snr ta : Half) (set : Nat) : State :=
  s.slotMsg k 0x0A24 st (leBytes 4 slot.toNat ++ leBytes 2 i ++ leBytes 2 p.rnti ++ leBytes 2 st.toNat ++ leBytes 2 snr.toNat
    ++ leBytes 2 ta.toNat ++ leBytes 2 set)

/-- The report of a PDU whose outcome is a status alone: the message of its type; a type that no table has goes as ul.tb (DESIGN
CHOICE, log 47). -/
def State.reportStatus (s : State) (k : CarrierId) (slot : Word) (i : Nat) (p : Pdu) : State :=
  match p.typ with
  | 2 => s.sendUci k slot i p p.status { crcOk := false, srSeen := false, ackSeen := true, csi2 := false, ackBits := 0#8, csi1Bits := 0#16, csi2Bits := 0#16, sinr := 0#16, bits := [] }
  | 3 => s.sendPrach k slot p p.status []
  | 4 => s.sendSrs k slot i p p.status 0#16 0#16 0xFFFF
  | _ => s.sendTb k slot i p

/-! ### Receiver state (R264 to R266) -/

def polFlag (p : List Byte) (i : Nat) : Bool := (fieldAt p 1 1).testBit i
def polWindow (p : List Byte) : Nat × Nat := (fieldAt p 0x20 4, fieldAt p 0x1E 2)

/-- The reference of the next slot. -/
def refNext (r : Word) : Word :=
  let spf := if bitsOf r.toNat 28 2 = 0 then 10 else 20
  let ix := (refIndex r + 1) % (1024 * spf)
  BitVec.ofNat 32 (r.toNat / 2 ^ 28 * 2 ^ 28 + ix / spf * 2 ^ 18 + ix % spf * 2 ^ 13)

/-- rx.state (Table 10-17). -/
def State.rxState (s : State) (ref : Word) (old new cause pairs fl fc : Nat) : State :=
  s.notifyT1 0x0A05 stOk (leBytes 4 ref.toNat ++ leBytes 1 old ++ leBytes 1 new ++ leBytes 1 cause ++ [0#8] ++ leBytes 4 pairs ++ leBytes 4 fl ++ leBytes 4 fc)

/-- Start the window counters again, under the policy in force (R265, R375). -/
def Carrier.newWindow (x : Carrier) : Carrier := { x with pairs := 0, failL := 0, failC := 0, winPolicy := polWindow x.policy }

/-- Change the receiver state: counters restart and rx.state is sent (R266). -/
def State.setRx (s : State) (k : CarrierId) (new : RxState) (cause : Nat) (ref : Word) (counts : Nat × Nat × Nat) : State :=
  let old := (s.carrier k).rx
  let s := s.modCarrier k fun x => { x with rx := new }.newWindow
  s.rxState ref old.code new.code cause counts.1 counts.2.1 counts.2.2

/-- Ask for a swap to a validated model; its load begins once the unused slot is free, after any earlier swap (R372). -/
def State.startSwap (s : State) (k : CarrierId) (m : Model) : State :=
  s.modCarrier k fun x => if x.swap.isNone then { x with swap := some m, swapIx := none } else { x with swapq := x.swapq ++ [m] }

/-- On entry to FALLBACK the model before the failing one comes back, when the policy asks for it, that model is validated, and the
failing one came in as a candidate and not by a revert (R374). -/
def State.revert (s : State) (k : CarrierId) : State :=
  let x := s.carrier k
  match x.live, x.prev with
  | some m, some p => if polFlag x.policy 3 && p.validated && m.candidate && !m.reinstated then s.startSwap k { p with reinstated := true } else s
  | _, _ => s

/-- The window is full: it passes or fails, and the state follows Table 10-5 (R265, R266). -/
def State.evalWindow (s : State) (k : CarrierId) (slot : Word) : State :=
  let x := s.carrier k
  let (w, margin) := x.winPolicy
  if x.pairs < w then s
  else
    let fails := decide (((x.failL : Int) - x.failC) * 1024 > margin * w)
    let n := (x.pairs, x.failL, x.failC)
    let ref := refNext slot
    match x.rx with
    | .fallback => (s.modCarrier k fun x => x.newWindow).rxState ref 3 3 0 n.1 n.2.1 n.2.2
    | .cOnly => s.modCarrier k fun x => x.newWindow
    | .probation => if fails then (s.setRx k .fallback 0 ref n).revert k else s.setRx k .learned 0 ref n
    | .learned => if fails then (s.setRx k .fallback 0 ref n).revert k else s.modCarrier k fun x => x.newWindow

/-- Count the pair of a reported block (R265). -/
def State.countPair (s : State) (k : CarrierId) (slot : Word) (p : Pdu) : State :=
  match p.pair with
  | none => s
  | some (l, c) =>
    (s.modCarrier k fun x => { x with pairs := x.pairs + 1, failL := x.failL + (if l then 1 else 0), failC := x.failC + (if c then 1 else 0) }).evalWindow k slot

/-- A PDU that is reported in block order: a PUSCH PDU or one of no known type. -/
def Pdu.isBlock (p : Pdu) : Bool := p.typ == 1 || decide (4 < p.typ) || p.typ == 0

/-- Report what is decided: blocks in pdu_index order, up to the first that is not decided (R274). -/
def flushFrom (k : CarrierId) (slot : Word) : Nat → List Pdu → Bool → State → List Pdu × State
  | _, [], _, s => ([], s)
  | i, p :: ps, go, s =>
    if p.reported then
      let (qs, s) := flushFrom k slot (i + 1) ps go s
      (p :: qs, s)
    else if p.isBlock then
      (if p.decided && go then
        let s := (s.sendTb k slot i p).countPair k slot p
        let (qs, s) := flushFrom k slot (i + 1) ps go s
        ({ p with reported := true } :: qs, s)
      else
        let (qs, s) := flushFrom k slot (i + 1) ps false s
        (p :: qs, s))
    else if p.decided then
      let s := s.reportStatus k slot i p
      let (qs, s) := flushFrom k slot (i + 1) ps go s
      ({ p with reported := true } :: qs, s)
    else
      let (qs, s) := flushFrom k slot (i + 1) ps go s
      (p :: qs, s)

def State.modUl (s : State) (k : CarrierId) (slot : Word) (f : Sched → Sched) : State :=
  s.modCarrier k fun x => { x with ul := modSched x.ul slot f }

def State.flushUl (s : State) (k : CarrierId) (slot : Word) : State :=
  match findSched (s.carrier k).ul slot with
  | none => s
  | some q =>
    let (ps, s) := flushFrom k slot 0 q.pdus true s
    s.modUl k slot fun q => { q with pdus := ps }

/-! ### Schedule parts (R273) -/

/-- A part of a schedule keeps Table 10-9; its carrier is configured and uses this port. -/
def State.partOk (s : State) (f : Frame) : Bool :=
  let ref := BitVec.ofNat 32 (f.nat 0 4)
  let x := s.carrier (refCarrier ref)
  decide (16 ≤ f.payload.length) && f.payload.length == 16 + f.nat 6 2 && x.cfg.isSome && !x.removing && refOk x.conf ref && f.port == cfgPort x.conf
    && decide (1 ≤ f.nat 9 1 ∧ f.nat 9 1 ≤ 16) && decide (f.nat 8 1 < f.nat 9 1) && f.zero 0x0C 4

/-- A schedule with one more part. -/
def Sched.add (q : Sched) (f : Frame) : Sched :=
  let part := f.nat 8 1
  if q.got.any fun g => g.1 == part then q
  else
    let q := { q with parts := f.nat 9 1, got := q.got ++ [(part, f.nat 0x0A 2, cutPdus (f.nat 4 2) (f.payload.drop 16))] }
    if (List.range q.parts).all fun i => q.got.any fun g => g.1 == i then { q with ready := true, pdus := q.assemble } else q

def recvUl (f : Frame) (s : State) : State :=
  let ref := BitVec.ofNat 32 (f.nat 0 4)
  let k := refCarrier ref
  if !s.partOk f then s
  else
    let q := (findSched (s.carrier k).ul ref).getD { slot := ref }
    if q.late || q.ready || q.ended || (s.carrier k).inPast s.nowNs ref then s
    else
      let q := q.add f
      let q := if q.ready then { q with pdus := checkUl (s.carrier k) q.pdus, pol := (s.carrier k).policy } else q
      (s.modCarrier k fun x => { x with ul := putSched x.ul q }).flushUl k ref

/-- UL_SCHED: one part of a slot's uplink schedule (R273). -/
def execUlSched (f : Frame) (s : State) : Out := .next (s.slotFrame f 0x0A20 recvUl)

/-- The PDUs of the parts so far at their places in the slot; places between them are nobody's (R273). -/
def Sched.placed (q : Sched) : List Pdu :=
  let n := q.got.foldl (fun n g => max n (g.2.1 + g.2.2.length)) 0
  (List.range n).map fun i =>
    match q.got.find? fun g => decide (g.2.1 ≤ i) && decide (i < g.2.1 + g.2.2.length) with
    | some g => g.2.2.getD (i - g.2.1) { bytes := [] }
    | none => { bytes := [], decided := true, reported := true }

/-- The PDUs of every part so far, reported with a status. -/
def Sched.failAll (q : Sched) (st : Half) : Sched :=
  { q with pdus := (if q.ready then q.pdus else q.placed).map fun p => p.settle st }

/-- UL_SCHED_LATE: a slot whose parts are incomplete is late (R273). -/
def execUlSchedLate (car : CarrierId) (slot : Word) (s : State) : Out :=
  .next (let x := s.carrier car
    if x.cfg.isNone then s
    else
      let q := (findSched x.ul slot).getD { slot := slot }
      if q.ready || q.late then s
      else
        let q := { q.failAll stSchedLate with late := true }
        (s.modCarrier car fun x => { x with ul := putSched x.ul q }).flushUl car slot)

/-! ### Arbitration (R262, R263) -/

/-- Sampling limits of Table 10-3 by state code. -/
def samplingLimit (rx : Nat) : Nat := if rx = 1 then 16384 else if rx = 2 ∨ rx = 3 then 4096 else 0

/-- A block of a slot under a receiver state runs through both paths (R262). -/
def Carrier.sampled (x : Carrier) (slot : Word) (rx : Nat) (p : Pdu) : Bool :=
  rx != 0 && (decide (ember (BitVec.ofNat 64 (x.field 0x2C 8)) (BitVec.ofNat 32 (refIndex slot)) (BitVec.ofNat 64 p.drawIx) < samplingLimit rx)
    || (p.nat 0x22 2).testBit 0)

/-- What Table 10-4 makes of a block: the status and whether the primary's (some true) or the secondary's (some false) bits go out. -/
def arbitrate (prim sec : Option PathDone) : Half × Option Bool :=
  match prim with
  | some p =>
    if p.pass then (stOk, some true)
    else (match sec with
      | some q => if q.pass then (stOk, some false) else (stCrcFail, none)
      | none => (stCrcFail, none))
  | none =>
    match sec with
    | some q => if q.pass then (stOk, some false) else (stDeadlineMiss, none)
    | none => (stDeadlineMiss, none)

/-- A HARQ process of a carrier (R257). -/
def sameProc (rnti harq : Nat) (b : SoftBuf) : Bool := b.rnti.toNat == rnti && b.harq.toNat == harq
def setSoft (l : List SoftBuf) (rnti harq : Nat) (ndi : Bool) (soft : List Byte) : List SoftBuf :=
  l.filter (fun b => !sameProc rnti harq b) ++ [{ rnti := BitVec.ofNat 16 rnti, harq := BitVec.ofNat 4 harq, ndi := ndi, soft := soft }]

def modPdu (ps : List Pdu) (i : Nat) (f : Pdu → Pdu) : List Pdu := ps.mapIdx fun j p => if j = i then f p else p

/-- The outcome of a block from the results of the paths that were started (a path that still runs has none) under the slot's receiver state. -/
def arbPdu (lPrim smp : Bool) (p : Pdu) (learned classical : Option PathDone) : Pdu :=
  let prim := if lPrim then learned else classical
  let sec := if lPrim then classical else learned
  let (st, del) := arbitrate prim sec
  let shown := match del with
    | some true => prim
    | some false => sec
    | none => prim
  let ok := fun (r : Option PathDone) => match r with | some r => r.pass | none => false
  let delCode := match del with | some b => if b == lPrim then 1 else 2 | none => 0
  let path := (if lPrim || smp then 64 else 0) + (if !lPrim || smp then 32 else 0) + (if ok learned then 16 else 0) + (if ok classical then 8 else 0)
    + (if smp then 4 else 0) + delCode
  let pair := match learned, classical with
    | some l, some c => if smp then some (!l.pass, !c.pass) else none
    | _, _ => none
  match shown with
  | some r => { p with decided := true, status := st, path := BitVec.ofNat 8 path, iters := r.iters, cbFail := r.cbFail,
                       data := if st = stOk then r.bits else [], pair := pair }
  | none => { p with decided := true, status := st, path := BitVec.ofNat 8 path, pair := pair }

/-- Both paths passed with different bits. -/
def pathsDiffer (learned classical : Option PathDone) : Bool :=
  match learned, classical with
  | some l, some c => l.pass && c.pass && l.bits != c.bits
  | _, _ => false

def CarHealth.miss (h : CarHealth) : CarHealth := { h with deadlineMiss := satInc32 h.deadlineMiss }

/-- The learned path is primary under a receiver state (Table 10-3). -/
def learnedPrimary (rx : Nat) : Bool := rx == 1 || rx == 2

/-- The results of a block's paths: of those that were started and have ended. -/
def State.pathResults (s : State) (k : CarrierId) (q : Sched) (p : Pdu) (learned classical : Bool) : Option PathDone × Option PathDone :=
  let lPrim := learnedPrimary q.rx
  let smp := (s.carrier k).sampled q.slot q.rx p
  (if learned && (lPrim || smp) then s.learnedPath k q.slot q.model p else none,
    if classical && (!lPrim || smp) then some (s.classicalPath k q.slot p) else none)

/-- The block of a schedule that awaits its arbitration. -/
def State.arbBlock (s : State) (q : Sched) (i : Nat) : Option Pdu :=
  if s.twin.role == .standby || !q.ready || q.late || !q.ended || q.closed then none
  else match q.pdus[i]? with
    | some p => if p.decided || p.typ != 1 then none else some p
    | none => none

/-- ARBITRATION: a block's path results are arbitrated (R263), each path having ended or not; only the primary path's LLRs are written back
(R257). SINR and timing offset are free values (log 105). -/
def execArbitration (car : CarrierId) (slot : Word) (pdu : Half) (learned classical : Bool) (s : State) : Out :=
  .next (let x := s.carrier car
    match findSched x.ul slot with
    | none => s
    | some q =>
      match s.arbBlock q pdu.toNat with
      | none => s
      | some p =>
        let lPrim := learnedPrimary q.rx
        let smp := x.sampled slot q.rx p
        let (l, c) := s.pathResults car q p learned classical
        let (v, s) := s.draw
        let r := { arbPdu lPrim smp p l c with sinr := v.setWidth 16, ta := (v >>> 16).setWidth 16 }
        let s := s.modUl car slot fun q => { q with pdus := modPdu q.pdus pdu.toNat fun _ => r }
        let s := match if lPrim then l else c with
          | some d => s.modCarrier car fun x => { x with soft := setSoft x.soft p.rnti p.harq p.ndi d.soft }
          | none => s
        let s := s.modCarrier car fun x =>
          let h := if smp && pathsDiffer l c then { x.health with differ := satInc32 x.health.differ } else x.health
          { x with health := if r.status = stDeadlineMiss then h.miss else h }
        s.flushUl car slot)

/-! ### UCI, PRACH, SRS (R269 to R272) -/

/-- The valid PDU of a type in a slot that is scheduled and not reported. -/
def State.ulPdu (s : State) (car : CarrierId) (slot : Word) (i : Nat) : Option Pdu :=
  match findSched (s.carrier car).ul slot with
  | none => none
  | some q => if q.ready && !q.late && s.twin.role != .standby then q.pdus[i]? else none

def State.ulDone (s : State) (car : CarrierId) (slot : Word) (i : Nat) : State :=
  s.modUl car slot fun q => { q with pdus := modPdu q.pdus i fun p => { p with decided := true, reported := true } }

/-- PUCCH_DECODE: UCI of a PUCCH occasion, or multiplexed on PUSCH (R269, R270). -/
def execPucchDecode (car : CarrierId) (slot : Word) (pdu : Half) (s : State) : Out :=
  .next (match s.ulPdu car slot pdu.toNat with
    | none => s
    | some p =>
      let send := fun (s : State) (r : UciResult) => s.sendUci car slot pdu.toNat p (if r.crcOk then stOk else stCrcFail) r
      if p.typ = 1 ∧ p.hasUci ∧ p.status ≠ stPduInvalid then (let (v, s) := s.draw; send s (s.puschUci car slot p (v.setWidth 16)))
      else if p.typ = 2 ∧ !p.decided then (send s (s.pucchUci car slot p)).ulDone car slot pdu.toNat
      else s)

/-- Insert in ascending preamble index. -/
def insertPre (q : Preamble) : List Preamble → List Preamble
  | [] => [q]
  | r :: rs => if q.1 ≤ r.1 then q :: r :: rs else r :: insertPre q rs

/-- PRACH_DETECT: up to 16 preambles above the threshold, in ascending index, from the samples of the occasion on each path; correlation is
the kernel's (R271, log 107). -/
def execPrachDetect (car : CarrierId) (slot : Word) (pdu : Half) (samples : List (List (Int × Int))) (s : State) : Out :=
  .next (match s.ulPdu car slot pdu.toNat with
    | none => s
    | some p =>
      if p.typ != 3 || p.decided then s
      else
        let found := Config.prachPeaks p.bytes slot samples
        let above := found.filter fun q => decide (q.1 < 64) && decide (p.nat 0x0C 2 < q.2.2.toNat)
        (s.sendPrach car slot p stOk ((above.foldr insertPre []).take 16)).ulDone car slot pdu.toNat)

/-- SRS_ESTIMATE: ul.srs, and a weight set when the PDU stores one (R272, R290). -/
def execSrsEstimate (car : CarrierId) (slot : Word) (pdu : Half) (s : State) : Out :=
  .next (match s.ulPdu car slot pdu.toNat with
    | none => s
    | some p =>
      if p.typ != 4 || p.decided then s
      else
        let st := p.nat 0x0B 1 == 1
        let n := p.nat 0x10 2
        let (m, w) := s.srsOf car slot p
        let s := if st then s.modCarrier car fun x => x.setWeights n s.nowNs w else s
        (s.sendSrs car slot pdu.toNat p stOk m.1 m.2 (if st then n else 0xFFFF)).ulDone car slot pdu.toNat)

/-! ### Checkpoints (R436, Tables 17-6 and 17-7) -/

/-- A checkpoint section. -/
def ckptSection (kind id aux : Nat) (payload : List Byte) : List Byte :=
  leBytes 1 kind ++ [0#8] ++ leBytes 2 id ++ leBytes 1 aux ++ [0#8, 0#8, 0#8] ++ leBytes 4 payload.length ++ leBytes 4 0
    ++ payload ++ List.replicate ((16 - payload.length % 16) % 16) 0#8

/-- The soft-buffer sections of a slot's blocks: those that passed go as cleared (R436). -/
def softSections (x : Carrier) (q : Sched) : List (List Byte) :=
  q.pdus.filterMap fun p =>
    if p.typ != 1 || !p.decided then none
    else if p.status = stOk then some (ckptSection 2 p.rnti ((if p.ndi then 16 else 0) + p.harq) [])
    else (x.soft.find? (sameProc p.rnti p.harq)).map fun b => ckptSection 1 p.rnti ((if b.ndi then 16 else 0) + p.harq) b.soft

/-- Sections in order while they stay within 2 MiB, and those that later records carry (R436). -/
def takeSections : Nat → List (List Byte) → List (List Byte) × List (List Byte)
  | _, [] => ([], [])
  | room, c :: cs => if c.length ≤ room then (let (r, t) := takeSections (room - c.length) cs; (c :: r, t)) else ([], c :: cs)

/-- A live soft buffer as a section. -/
def softSection (b : SoftBuf) : List Byte := ckptSection 1 b.rnti.toNat ((if b.ndi then 16 else 0) + b.harq.toNat) b.soft

/-- The checkpoint record of a slot (Table 17-6), and the soft-buffer sections it leaves to later records: carried ones come first. A model
and DPD sets that took effect at the slot's end boundary go with it. -/
def State.ckptRecord (s : State) (k : CarrierId) (slot : Word) : List Byte × List (List Byte) :=
  let x := s.carrier k
  let q := (findSched x.ul slot).getD { slot := slot }
  let (kept, cut) := takeSections 0x200000 (x.carry ++ softSections x q)
  let srs := (q.pdus.filter fun p => p.typ == 4 && p.nat 0x0B 1 == 1).filterMap fun p =>
    (x.weights.find? fun w => w.num == p.nat 0x10 2).map fun w => ckptSection 3 w.num 0 w.bytes
  let model := match x.live with
    | some m => if x.guardSlot = some slot then [ckptSection 4 0 0 m.image] else []
    | none => []
  let dpds := if refNext slot != s.nowRef k then [] else (x.txPaths.filter fun p => (s.dfe.dpdSet p).fresh).map fun p =>
    ckptSection 5 p 0 ((s.dfe.dpdSet p).cur.flatMap fun v => leBytes 8 v.toNat)
  let secs := kept ++ srs ++ model ++ dpds
  let body := secs.flatten
  (leBytes 4 slot.toNat ++ leBytes 4 (96 + body.length) ++ leBytes 2 secs.length ++ leBytes 1 x.rx.code
    ++ leBytes 1 ((if cut.isEmpty then 0 else 1) + (if x.carry.isEmpty && !x.resync then 0 else 2)) ++ leBytes 4 (match x.live with | some m => m.id.toNat | none => 0)
    ++ leBytes 4 x.pairs ++ leBytes 4 x.failL ++ leBytes 4 x.failC ++ leBytes 4 0
    ++ (List.range 64).map (fun p => (x.gains.get p).setWidth 8) ++ body, cut)

/-- The active of a pair sends a carrier's record after the slot's deadline, in carrier class, while the checkpoint port is up (R436,
R437). -/
def State.checkpoint (s : State) (k : CarrierId) (slot : Word) : State :=
  match s.ckptPort with
  | none => s
  | some p =>
    if s.twin.role == .active && s.twin.formed && (s.carrier k).cfg.isSome && (s.trail.port p).up then
      let (r, cut) := s.ckptRecord k slot
      let s := { s with twin := { s.twin with records := s.twin.records ++ [r] } }
      let s := s.modCarrier k fun x => { x with lastCkpt := slot, carry := cut, resync := false }
      s.trailSendAll (s.trail.port p).nbrNode.toNat 0#2 [] 4096 (r.length / 4096 + 1) r
    else s

/-- SLOT_DEADLINE: the slot closes (R245): blocks without a result are reported, the model slot that it used is free (R372), the
checkpoint goes out. -/
def execSlotDeadline (car : CarrierId) (slot : Word) (s : State) : Out :=
  .next (if (s.carrier car).cfg.isNone then s
    else
      let q := (findSched (s.carrier car).ul slot).getD { slot := slot }
      if q.closed || ((findSched (s.carrier car).ul slot).isSome && !q.ended) then s
      else
        let missed := if s.twin.role == .standby then 0 else q.pdus.countP fun p => p.typ == 1 && !p.decided
        let q := { q with closed := true, pdus := q.pdus.map fun p => if p.typ == 1 then p.settle stDeadlineMiss else p }
        let s := s.modCarrier car fun x =>
          { x with
            ul := if (findSched x.ul slot).isSome then putSched x.ul q else x.ul
            health := (List.range missed).foldl (fun h _ => h.miss) x.health }
        ((s.flushUl car slot).checkpoint car slot).modCarrier car fun x => { x with guardSlot := if x.guardSlot = some slot then none else x.guardSlot })

end Sys2Proof.Machine
end

