-- ==== Sys2Proof/Machine/Downlink.lean ====
section
/-!
DEFINITION. The downlink schedule (R279 to R287, R290 to R297, Tables 11-2 to 11-5): arrival of dl.sched and dl.tb, the PDUs that are
reported instead of transmitted, and dl.status. Transmit.lean forms what is transmitted.
-/
namespace Sys2Proof.Machine

/-- A signed byte of a PDU. -/
def Pdu.int8 (p : Pdu) (off : Nat) : Int := signExt 8 (p.nat off 1)

def Carrier.hasSet (x : Carrier) (n : Nat) : Bool := x.weights.any fun w => w.num == n

/-! ### Limits of the fields -/

/-- Table 11-2; the range of a signed amplitude counts its units, as in Table 11-12 (DEDUCED, log 48). -/
def pdschOk (x : Carrier) (p : Pdu) : Bool :=
  p.bytes.length == 32 && p.nat 1 1 == 32 && p.nat 4 1 < 4
    && decide (1 ≤ p.nat 5 1 % 16 ∧ p.nat 5 1 % 16 ≤ 4) && decide (p.nat 5 1 / 16 + p.nat 5 1 % 16 ≤ 16)
    && p.nat 6 2 < 273 && prbsOk (cfgPrbs x.conf) (p.nat 6 2) (p.nat 8 2) && symsOk (p.nat 0x0A 1) && [2, 4, 6, 8].contains (p.nat 0x0B 1)
    && p.nat 0x0C 2 < 0x4000 && p.nat 0x0E 1 < 128 && p.nat 0x0E 1 / 16 % 4 != 0 && p.nat 0x0E 1 % 16 < 12
    && decide (-16 ≤ p.int8 0x0F ∧ p.int8 0x0F ≤ 12) && p.nat 0x12 2 < 1024 && x.hasSet (p.nat 0x12 2)
    && decide (-6 ≤ p.int8 0x1C ∧ p.int8 0x1C ≤ 12) && (p.bytes.drop 0x1D).all (· == 0#8)

/-- Table 11-3, with the CCEs inside the CORESET and the CORESET inside the grid (DEDUCED, log 48). -/
def pdcchOk (x : Carrier) (p : Pdu) : Bool :=
  let bits := p.nat 0x16 1
  p.bytes.length == p.nat 1 1 && p.nat 1 1 == 32 + (bits + 7) / 8 && p.nat 4 6 < 2 ^ 45 && p.nat 4 6 != 0
    && (coresetPrbs p).all (fun b => decide (b < cfgPrbs x.conf))
    && decide (1 ≤ pdcchDur p ∧ pdcchDur p ≤ 3) && decide (p.nat 0x0A 1 / 16 + pdcchDur p ≤ 14)
    && p.nat 0x0B 1 % 8 == 0 && bitsOf (p.nat 0x0B 1) 5 2 != 3 && bitsOf (p.nat 0x0B 1) 3 2 != 3 && decide (p.nat 0x0C 2 ≤ 274) && p.nat 0x0E 1 < 5
    && decide ((p.nat 0x0F 1 + pdcchAgg p) * 6 ≤ (coresetPrbs p).length * pdcchDur p) && decide (12 ≤ bits ∧ bits ≤ 140)
    && p.nat 0x18 2 < 1024 && x.hasSet (p.nat 0x18 2) && decide (p.nat 0x1A 1 < 16) && ((p.bytes.drop 0x1B).take 5).all (· == 0#8)

/-- PRBs from offset_prb that an SSB touches: 20, and one more where k_ssb, in units of 15 kHz, shifts it (TS 38.211; PRESUMED, log 48). -/
def ssbPrbs (x : Carrier) (p : Pdu) : Nat :=
  let k := p.nat 5 1
  20 + ((if cfgMu x.conf = 1 then (k + 1) / 2 else k) + 11) / 12

def ssbOk (x : Carrier) (p : Pdu) : Bool :=
  p.bytes.length == 16 && p.nat 1 1 == 16 && p.nat 2 2 < 1008 && p.nat 4 1 < 8 && p.nat 5 1 < 24 && p.nat 6 2 < 512
    && decide (p.nat 6 2 + ssbPrbs x p ≤ cfgPrbs x.conf) && decide (p.nat 8 1 + 4 ≤ 14) && p.nat 0x0A 2 < 1024 && x.hasSet (p.nat 0x0A 2)
    && decide (p.nat 0x0F 1 < 16)

/-- Table 11-4, R285, R290 and R295. -/
def csiOk (x : Carrier) (p : Pdu) : Bool :=
  let row := p.nat 4 1
  let ports := csiPorts row
  let set := p.nat 0x0A 2
  let d := p.nat 0x0C 3
  p.bytes.length == 16 && p.nat 1 1 == 16 && p.nat 2 2 < 1024 && decide (1 ≤ row ∧ row ≤ 18) && decide (ports ≤ 16) && p.nat 6 2 < 512
    && prbsOk (cfgPrbs x.conf) (p.nat 6 2) (d % 512) && decide (p.nat 8 1 / 16 + (if csiTwoSyms row then 2 else 1) ≤ 14)
    && set < 1024 && x.hasSet set && (decide (ports ≤ 8) || (set % 512 != 511 && x.hasSet (set + 1)))
    && d / 2 ^ 16 < 4 && bitsOf d 9 4 == 0 && decide (p.nat 0x0F 1 + ports ≤ 16)

def dlPduOk (x : Carrier) (p : Pdu) : Bool :=
  match p.typ with
  | 1 => pdschOk x p
  | 2 => pdcchOk x p
  | 3 => ssbOk x p
  | 4 => csiOk x p
  | _ => false

/-! ### What a PDU occupies (R282, R287) -/

/-- The carrier layers that a PDU uses as a mask, and for each symbol the mask of 4-PRB groups in which it has resource elements. -/
structure Occupied where
  layers : Nat
  groups : List Nat
deriving DecidableEq, Repr

/-- The groups of a PRB range. -/
def groupMask (start count : Nat) : Nat := if count = 0 then 0 else 2 ^ ((start + count - 1) / 4 + 1) - 2 ^ (start / 4)

def occupied (x : Carrier) (p : Pdu) : Occupied :=
  match p.typ with
  | 1 =>
    let g := groupMask (p.nat 6 2) (p.nat 8 2)
    { layers := (2 ^ (p.nat 5 1 % 16) - 1) * 2 ^ (p.nat 5 1 / 16)
      groups := (List.range 14).map fun s => if p.nat 0x0A 1 / 16 ≤ s ∧ s < p.nat 0x0A 1 / 16 + p.nat 0x0A 1 % 16 then g else 0 }
  | 2 =>
    let regs := pdcchRegs p
    { layers := 2 ^ (p.nat 0x1A 1)
      groups := (List.range 14).map fun s => regs.foldl (fun m q => if q.1 = s then m ||| 2 ^ (q.2 / 4) else m) 0 }
  | 3 =>
    let g := groupMask (p.nat 6 2) (ssbPrbs x p)
    { layers := 2 ^ (p.nat 0x0F 1), groups := (List.range 14).map fun s => if p.nat 8 1 ≤ s ∧ s < p.nat 8 1 + 4 then g else 0 }
  | 4 =>
    let g := ((List.range (cfgPrbs x.conf)).filter (csiPrb p)).foldl (fun m b => m ||| 2 ^ (b / 4)) 0
    let l0 := csiFirst p
    let row := p.nat 4 1
    { layers := if csiZp p then 0 else (2 ^ csiPorts row - 1) * 2 ^ (p.nat 0x0F 1)
      groups := (List.range 14).map fun s => if s = l0 ∨ (csiTwoSyms row ∧ s = l0 + 1) then g else 0 }
  | _ => { layers := 0, groups := List.replicate 14 0 }

def Occupied.meets (a b : Occupied) : Bool :=
  a.layers &&& b.layers != 0 && (List.zip a.groups b.groups).any fun g => g.1 &&& g.2 != 0

/-- Resource elements in a symbol. -/
def Occupied.inSym (a : Occupied) (sym : Nat) : Bool := a.groups.getD sym 0 != 0

/-- A PDCCH, SSB or CSI-RS PDU occupies a resource element (R282). -/
def occupiesRe (x : Carrier) (p : Pdu) (sym k : Nat) : Bool :=
  match p.typ with
  | 2 => (pdcchRegs p).any fun q => q.1 == sym && q.2 == k / 12
  | 3 => (let f := ssbSub (cfgMu x.conf) p; decide (p.nat 8 1 ≤ sym) && decide (sym < p.nat 8 1 + 4) && decide (f ≤ k) && decide (k < f + 240))
  | 4 => (csiHit p sym k).isSome
  | _ => false

/-- The carrier layers on which a PDU occupies resource elements: a zero-power CSI-RS those of its ports, on which it transmits nothing. -/
def occupiedLayers (x : Carrier) (p : Pdu) : Nat :=
  if p.typ = 4 then (2 ^ csiPorts (p.nat 4 1) - 1) * 2 ^ (p.nat 0x0F 1) else (occupied x p).layers

/-- Two PDCCH, SSB or CSI-RS PDUs meet on a resource element of a carrier layer (R282). -/
def reClash (x : Carrier) (a b : Pdu) : Bool :=
  occupiedLayers x a &&& occupiedLayers x b != 0
    && (List.range 14).any fun sym => (List.range (12 * cfgPrbs x.conf)).any fun k => occupiesRe x a sym k && occupiesRe x b sym k

/-- Check the PDUs in order: fields, the 256 of a slot (R292), resource elements and layers that an earlier PDU uses (R282, R287). -/
def checkDlFrom (x : Carrier) : Nat → List Pdu → List Pdu → List Pdu
  | _, _, [] => []
  | i, used, p :: ps =>
    if p.decided || decide (256 ≤ i) || !dlPduOk x p || used.any (fun q => (occupied x p).meets (occupied x q) || reClash x p q) then
      p.settle stPduInvalid :: checkDlFrom x (i + 1) used ps
    else p :: checkDlFrom x (i + 1) (p :: used) ps

def checkDl (x : Carrier) (ps : List Pdu) : List Pdu := checkDlFrom x 0 [] ps

/-! ### Transport blocks (R296) -/

/-- A frame of a block: bytes beyond tb_bytes, another tb_bytes than the PDU's tbs, or other bytes than those received make the PDU invalid. -/
def Pdu.tbFrame (p : Pdu) (b : List Byte) : Pdu :=
  let total := fieldAt b 8 4
  let off := fieldAt b 0x0C 4
  let n := fieldAt b 0x10 2
  let data := (b.drop 0x20).take n
  if p.decided then p
  else if total != p.tbs || decide (total < off + n) then p.settle stPduInvalid
  else
    let clash := (data.mapIdx fun i v => (i, v)).any fun q => (let have_ := p.tb.get (off + q.1); have_ != 0#9 && have_ != q.2.setWidth 9 + 1#9)
    if clash then p.settle stPduInvalid
    else
      let tb := p.tb.splice off (data.map fun v => v.setWidth 9 + 1#9)
      { p with tb := tb, tbDone := tb.length == p.tbs }

/-- A frame keeps Table 11-5. -/
def tbOk (b : List Byte) : Bool :=
  decide (0x20 ≤ b.length) && fieldAt b 6 2 == 0 && decide (1 ≤ fieldAt b 0x10 2 ∧ fieldAt b 0x10 2 ≤ 1376) && b.length == 0x20 + fieldAt b 0x10 2
    && ((b.drop 0x12).take 14).all (· == 0#8)

/-- A frame reaches the PDU that it names, a PDSCH of the schedule. -/
def Sched.tbFrame (q : Sched) (b : List Byte) : Sched :=
  { q with pdus := modPdu q.pdus (fieldAt b 4 2) fun p => if p.typ = 1 then p.tbFrame b else p }

def State.modDl (s : State) (k : CarrierId) (slot : Word) (f : Sched → Sched) : State :=
  s.modCarrier k fun x => { x with dl := modSched x.dl slot f }

def recvDl (f : Frame) (s : State) : State :=
  let ref := BitVec.ofNat 32 (f.nat 0 4)
  let k := refCarrier ref
  if !s.partOk f then s
  else
    let q := (findSched (s.carrier k).dl ref).getD { slot := ref }
    if q.late || q.ready || q.ended || (s.carrier k).inPast s.nowNs ref then s
    else
      let q := q.add f
      let q := if q.ready then q.early.foldl (fun (q : Sched) b => q.tbFrame b) { q with pdus := checkDl (s.carrier k) q.pdus, early := [] } else q
      s.modCarrier k fun x => { x with dl := putSched x.dl q }

/-- DL_SCHED: one part of a slot's downlink schedule (R292). -/
def execDlSched (f : Frame) (s : State) : Out := .next (s.slotFrame f 0x0A28 recvDl)

def recvTb (f : Frame) (s : State) : State :=
  let ref := BitVec.ofNat 32 (f.nat 0 4)
  let k := refCarrier ref
  let x := s.carrier k
  if !(tbOk f.payload && x.cfg.isSome && !x.removing && refOk x.conf ref && f.port == cfgPort x.conf) then s
  else
    let q := (findSched x.dl ref).getD { slot := ref }
    if q.late || q.ended || x.inPast s.nowNs ref then s
    else
      let q := if q.ready then q.tbFrame f.payload else { q with early := q.early ++ [f.payload] }
      s.modCarrier k fun x => { x with dl := putSched x.dl q }

/-- DL_TB: a frame of a PDSCH transport block (R296). -/
def execDlTb (f : Frame) (s : State) : Out := .next (s.slotFrame f 0x0A29 recvTb)

/-- DL_SCHED_LATE: a slot whose parts are incomplete is late (R292). -/
def execDlSchedLate (car : CarrierId) (slot : Word) (s : State) : Out :=
  .next (let x := s.carrier car
    if x.cfg.isNone then s
    else
      let q := (findSched x.dl slot).getD { slot := slot }
      if q.ready || q.late then s
      else s.modCarrier car fun x => { x with dl := putSched x.dl { q.failAll stSchedLate with late := true, early := [] } })

/-- TB_LATE: a PDSCH whose bytes are incomplete is not transmitted (R296). -/
def execTbLate (car : CarrierId) (slot : Word) (pdu : Half) (s : State) : Out :=
  .next (s.modDl car slot fun q =>
    if q.ready && !q.late then
      { q with pdus := modPdu q.pdus pdu.toNat fun p => if p.typ = 1 && !p.tbDone && p.tbs != 0 then p.settle stTbLate else p }
    else q)

/-! ### Transmission -/

/-- dl.status of a slot that had a schedule (R297). -/
def State.sendDlStatus (s : State) (k : CarrierId) (slot : Word) : State :=
  match findSched (s.carrier k).dl slot with
  | none => s
  | some q =>
    if q.done || q.got.isEmpty then s
    else
      let shown := (q.pdus.mapIdx fun i p => (i, p)).filter fun e => !e.2.reported
      let s := s.slotMsg k 0x0A2A stOk (leBytes 4 slot.toNat ++ leBytes 2 shown.length ++ [0#8, 0#8]
        ++ shown.flatMap fun e => leBytes 2 e.1 ++ leBytes 2 e.2.status.toNat)
      s.modDl k slot fun q => { q with done := true }

/-- A symbol whose grid is not complete goes out as zero, and the PDUs in it miss their deadline (R277). -/
def State.zeroSymbol (s : State) (k : CarrierId) (slot : Word) (sym : Nat) : State :=
  let x := s.carrier k
  let hit := fun (p : Pdu) => !p.decided && (occupied x p).inSym sym
  let n := match findSched x.dl slot with | some q => q.pdus.countP hit | none => 0
  s.modCarrier k fun x => { x with
    txZero := x.txZero ||| (1#14 <<< sym)
    health := (List.range n).foldl (fun h _ => h.miss) x.health
    dl := modSched x.dl slot fun q => { q with pdus := q.pdus.map fun p => if hit p then p.settle stDeadlineMiss else p } }

/-- A symbol of the running slot has been read: a late slot is zero, an incomplete grid is zero, and after the slot's last downlink symbol
its PDUs are reported (R277, R292, R297). -/
def State.txRead (s : State) (k : CarrierId) (sym : Nat) (ready : Bool) : State :=
  let x := s.carrier k
  let slot := s.nowRef k
  let late := match findSched x.dl slot with | some q => q.late | none => false
  let s := if late then s.modCarrier k fun x => { x with txZero := x.txZero ||| (1#14 <<< sym) }
    else if ready then s else s.zeroSymbol k slot sym
  if lastDown x.conf x.slotIx = some sym then s.sendDlStatus k slot else s

end Sys2Proof.Machine
end

