-- ==== Sys2Proof/Machine/Transmit.lean ====
section
/-!
DEFINITION. The downlink slot on the cores (R278 to R290): resource elements of the PDSCH, coding, modulation, layer mapping, reference signals,
and the PRECODE tiles that write a symbol of the transmit grid into the downlink ring.
-/
namespace Sys2Proof.Machine

/-! ### The slot -/

/-- What the work of a slot reads: the carrier, its running slot, and the PDUs. -/
structure TxSlot where
  k    : CarrierId
  x    : Carrier
  pdus : List Pdu
deriving DecidableEq, Repr

def TxSlot.slot (v : TxSlot) : Nat := v.x.slotIx % slotsPerFrame v.x.conf
def TxSlot.sfn (v : TxSlot) : Nat := v.x.slotIx / slotsPerFrame v.x.conf % 1024
def TxSlot.prbs (v : TxSlot) : Nat := cfgPrbs v.x.conf

/-- A PDU that was found valid; one whose bytes came late or were lost keeps its elements, as zeros (R288, R296). -/
def Pdu.sent (p : Pdu) : Bool := !(p.decided && (p.status == stPduInvalid || p.status == stSchedLate))
def Pdu.silent (p : Pdu) : Bool := p.decided && (p.status == stTbLate || p.status == stEccUncorr)

/-! ### PDSCH -/

def Pdu.dlFirst (p : Pdu) : Nat := p.nat 5 1 / 16
def Pdu.dlLayers (p : Pdu) : Nat := p.nat 5 1 % 8
def Pdu.dlQm (p : Pdu) : Nat := p.nat 0x0B 1 % 16
def Pdu.dlType2 (p : Pdu) : Bool := (p.nat 0x0E 1).testBit 6
def Pdu.dlCdm (p : Pdu) : Nat := p.nat 0x0E 1 / 16 % 4
def Pdu.dlPort (p : Pdu) : Nat := p.nat 0x0E 1 % 16

/-- The resource elements available to a PDSCH's data, in order of symbol and subcarrier (R282). -/
def TxSlot.avail (v : TxSlot) (p : Pdu) : List (Nat × Nat) :=
  let others := v.pdus.filter fun q => q.sent && q.typ != 1
  p.syms.flatMap fun sym =>
    ((List.range (12 * p.prbN)).map (12 * p.prb0 + ·)).filterMap fun k =>
      if dmrsRe p.dlType2 p.dlCdm p.dmrsMask sym k || others.any fun q => occupiesRe v.x q sym k then none else some (sym, k)

/-- The transport block's bits. -/
def Pdu.tbBits (p : Pdu) : List Bool := bitsOfBytes ((List.range p.tbs).map fun i => (p.tb.get i - 1#9).setWidth 8)

/-- The symbols of a PDSCH codeword over `n` resource elements: coded, scrambled and modulated (R278, R279). -/
def Pdu.dlSymbols (p : Pdu) (n : Nat) : List CW :=
  let g := n * p.dlLayers * p.dlQm
  let bits := encodeBlock (codeParams p.tbs (p.nat 0x10 2)) p.tbBits (p.nat 4 1 % 4) p.dlLayers p.dlQm g
  modulate p.dlQm (xorBits bits (gold (dataInit p.rnti (p.nat 0x18 2)) bits.length))

/-- A pilot's coordinates in FP32. -/
def pilotCW (z : Int × Int) : CW := (pointWord 2 z.1, pointWord 2 z.2)

/-- Layer `i` of a PDSCH on a resource element, with its amplitude in 0.5 dB: DMRS of port first + i, or symbol v·n + i of the codeword over the
available elements (R280, R284). -/
def TxSlot.pdsch (v : TxSlot) (p : Pdu) (avail : List (Nat × Nat)) (data : List CW) (i sym k : Nat) : CW × Int :=
  if p.dmrsMask.testBit sym then
    match dmrsPilot p.dlType2 (dmrsSeq v.prbs v.slot sym (p.nat 0x1A 2)) (dmrsSecond p.dmrsMask sym) (p.dlPort + i) k with
    | some z => (pilotCW z, p.int8 0x0F + p.int8 0x1C)
    | none => (match avail.findIdx? (· == (sym, k)) with
      | some n => (data.getD (p.dlLayers * n + i) cwZero, p.int8 0x0F)
      | none => (cwZero, 0))
  else match avail.findIdx? (· == (sym, k)) with
    | some n => (data.getD (p.dlLayers * n + i) cwZero, p.int8 0x0F)
    | none => (cwZero, 0)

/-! ### PDCCH, SSB, CSI-RS (R281) -/

/-- A PDCCH on a resource element: DMRS on every fourth subcarrier, or its QPSK symbols in order of symbol and subcarrier. -/
def TxSlot.pdcch (v : TxSlot) (p : Pdu) (sym k : Nat) : CW :=
  if !occupiesRe v.x p sym k then cwZero
  else if k % 4 = 1 then pilotCW (pilotAt (dmrsSeq v.prbs v.slot sym (p.nat 0x14 2)) false (3 * (k / 12) + k % 12 / 4))
  else
    let res := (List.range 14).flatMap fun l => (pdcchSub p l).map fun j => (l, j)
    match res.findIdx? (· == (sym, k)) with
    | some n => (modulate 2 (pdcchBits p)).getD n cwZero
    | none => cwZero

/-- A real coordinate of 1 or -1. -/
def realCW (v : Int) : CW := (if v < 0 then 0xC4800000#32 else 0x44800000#32, 0#32)

/-- An SSB on a resource element. -/
def TxSlot.ssb (v : TxSlot) (p : Pdu) (sym k : Nat) : CW :=
  let l := sym - p.nat 8 1
  let n := k - ssbSub (cfgMu v.x.conf) p
  let pci := p.nat 2 2
  let four := decide (Config.carrierHz v.k.val ≤ 3000000000)
  let half := decide (slotsPerFrame v.x.conf ≤ 2 * v.slot)
  if !occupiesRe v.x p sym k then cwZero
  else if l = 0 ∨ (l = 2 ∧ !pbchIn l n) then
    (if n < 56 ∨ 182 < n then cwZero else realCW (if l = 0 then pssAt pci (n - 56) else sssAt pci (n - 56)))
  else if pbchPilot pci n then
    let i := p.nat 4 1 % (if four then 4 else 8) + (if four && half then 4 else 0)
    pilotCW (pilotAt (gold (2 ^ 11 * (i + 1) * (pci / 4 + 1) + 2 ^ 6 * (i + 1) + pci % 4) 288) false (pbchIndex pci l n))
  else (modulate 2 (pbchBits p v.sfn half four)).getD (pbchIndex pci l n) cwZero

/-- A PDU of one of these types on a carrier layer's resource element. -/
def TxSlot.control (v : TxSlot) (p : Pdu) (i sym k : Nat) : CW × Int :=
  match p.typ with
  | 2 => (v.pdcch p sym k, p.int8 0x17)
  | 3 => (v.ssb p sym k, p.int8 9)
  | _ => (match csiPilot p v.prbs v.slot i sym k with | some z => pilotCW z | none => cwZero, p.int8 9)

/-! ### PRECODE (R283 to R286) -/

/-- The first carrier layer of a PDU, and the field that names its weight set. -/
def Pdu.firstLayer (p : Pdu) : Nat := match p.typ with | 1 => p.dlFirst | 2 => p.nat 0x1A 1 | _ => p.nat 0x0F 1
def Pdu.setNum (p : Pdu) : Nat := match p.typ with | 1 => p.nat 0x12 2 | 2 => p.nat 0x18 2 | _ => p.nat 0x0A 2

/-- A carrier layer in use in a group: the PDU's layer index, its set's bytes and set layer (R285), and the elements that it carries. -/
structure LayerUse where
  layer : Nat
  set   : List Byte
  sub   : Nat
  cells : List (CW × Int)
deriving DecidableEq, Repr

/-- The layers that a symbol uses in a group, with their elements. -/
def TxSlot.uses (v : TxSlot) (sym q : Nat) : List LayerUse :=
  (v.pdus.filter (·.sent)).flatMap fun p =>
    let o := occupied v.x p
    if !((o.groups.getD sym 0).testBit q) then []
    else
      let avail := if p.typ = 1 then v.avail p else []
      let data := if p.typ = 1 && !p.silent then p.dlSymbols avail.length else []
      ((List.range 16).filter (o.layers.testBit ·)).map fun l =>
        let i := l - p.firstLayer
        { layer := l, set := v.x.slotSet (p.setNum + (if p.typ = 4 then i / 8 else 0)) v.x.slotIx, sub := if p.typ = 1 then i else i % 8
          cells := (List.range 48).map fun n =>
            let k := 48 * q + n
            if p.silent || decide (12 * v.prbs ≤ k) then (cwZero, 0)
            else if p.typ = 1 then (if p.inPrbs (k / 12) then v.pdsch p avail data i sym k else (cwZero, 0))
            else v.control p i sym k }

/-- β of an amplitude in 0.5 dB: the FP32 value nearest to 10^(p / 40). -/
def beta (p : Int) : Word := pow10 p 40

/-- g_tx; 0 stands for 2⁻¹² (Table 16-9). -/
def cfgGtx (c : List Byte) : Word := (let g := BitVec.ofNat 32 (fieldAt c 0x38 4); if g = 0#32 then 0x39800000#32 else g)
/-- The panel scale of every transmit grid: RNE32(g_tx × 2²⁰). -/
def txPanel (c : List Byte) : Word := fmul (cfgGtx c) 0x49800000#32

/-- A scaled symbol lane: the exact product c × f_k rounded once to CI16 (R284). -/
def laneCI (c : CW) (f : Word) : Int × Int := cvInt16 (cvScale (f32 f) (cwVal c))

/-- The PRECODE tile of a group: for each TX path the 48 values that the entry writes (R283, R284). -/
def precode (paths : List Nat) (gtx : Word) (us : List LayerUse) : List (List CV) :=
  let wmax := us.foldl (fun m u => fmax m (setScale u.set u.sub)) 0#32
  let k := us.foldl (fun n u => max n (u.layer + 1)) 0
  let use := fun i => us.find? fun u => u.layer == i
  let c := fmul wmax gtx
  let rows := (List.range k).map fun i => match use i with
    | some u => u.cells.map fun (z : CW × Int) => laneCI z.1 (fmul (beta z.2) (fdiv (setScale u.set u.sub) wmax))
    | none => []
  paths.map fun p =>
    let a := (List.range k).map fun i => match use i with | some u => setWeight u.set u.sub p | none => (0, 0)
    (List.range 48).map fun n =>
      let r := macCell radioMac a (rows.map fun row => row.getD n (0, 0))
      if k = 0 then cvZero else (f32 (scaleAcc c r.re), f32 (scaleAcc c r.im))

/-! ### The downlink ring (R286) -/

/-- A carrier's downlink ring in hub memory: four symbols, one plane each (its place is the firmware's, log 102). -/
def State.txRing (s : State) (k : CarrierId) : GridAt :=
  let x := s.carrier k
  let g := gridGroups x.conf
  { base := Config.hubMemBase + k.val * 0x400000 + Config.ringSpot (4 + k.val) % 0x1000 * 128
    planes := 4, lines := x.txPaths.length, groups := g, scales := ringHead, data := ringHead + 4 * 128 * g }

/-- The plane of a symbol of the running slot. -/
def Carrier.txPlane (x : Carrier) (sym : Nat) : Nat := (14 * x.slotIx + sym) % 4

/-- A symbol's transmit grid is written into the ring. -/
def State.writeTx (s : State) (k : CarrierId) (sym : Nat) : State :=
  let x := s.carrier k
  let pdus := match findSched x.dl (s.nowRef k) with | some q => if q.ready && !q.late then q.pdus else [] | none => []
  let v : TxSlot := { k := k, x := x, pdus := pdus }
  let gs := (List.range (gridGroups x.conf)).map fun q => precode x.txPaths (cfgGtx x.conf) (v.uses sym q)
  s.putPlane (s.txRing k) (Config.gridTensor (4 + k.val)) (cfgPrbs x.conf) (x.txPlane sym) (txPanel x.conf)
    ((List.range x.txPaths.length).map fun i => gs.flatMap fun g => g.getD i [])

/-- The exact values of a line of a grid, group by group (R72). -/
def State.gridLine (s : State) (g : GridAt) (plane line : Nat) : List CV :=
  let panel := f32 (s.gridPanel g plane)
  (List.range g.groups).flatMap fun q =>
    let (code, ms) := s.gridGroup g plane line q
    ms.map fun z => cvScale ((decodeMag ue4m3F false code).mul panel) (cvOfInt z)

/-- What the DFE reads of a symbol: a line of values per TX path; zeros for a symbol that is sent as zero (R277, R292). -/
def State.readTx (s : State) (k : CarrierId) (sym : Nat) : List (List CV) :=
  let x := s.carrier k
  (List.range x.txPaths.length).map fun i => if x.txZero.getLsbD sym then [] else s.gridLine (s.txRing k) (x.txPlane sym) i

end Sys2Proof.Machine
end

