-- ==== Sys2Proof/Machine/Samples.lean ====
section
/-!
DEFINITION. The sample chains of the DFE (R298 to R306, R309, R310): link samples to FFT lanes and measurements, and transmit grid to link
samples. A stage whose output width no rule states keeps exact values (log 108). Sample codes are integers; code 32,768 is 1.0 (R286).
-/
namespace Sys2Proof.Machine

/-! ### Numerology (Table 11-6) -/

def fftSize (c : List Byte) : Nat := if cfgMu c = 1 then 4096 else 8192
def cpLen (c : List Byte) (sym : Nat) : Nat :=
  if cfgMu c = 1 then (if sym = 0 then 352 else 288) else if sym % 7 = 0 then 640 else 576
def symLen (c : List Byte) (sym : Nat) : Nat := cpLen c sym + fftSize c
/-- First sample of a symbol, CP included, from the start of its slot. -/
def symStart (c : List Byte) (sym : Nat) : Nat := ((List.range sym).map (symLen c)).foldl (· + ·) 0
def slotSamples (c : List Byte) : Nat := symStart c 14
/-- Samples of the CP that stay before the FFT window (R299). -/
def fftOffset (c : List Byte) (sym : Nat) : Nat := (let v := fieldAt c 0x28 2; if v = 0xFFFF then cpLen c sym / 2 else v)
def ncoHz (c : List Byte) : Int := signExt 32 (fieldAt c 0x20 4)

/-- e^(±2πi f0 t) of the symbol's start after its CP, in its subframe: the phase compensation of TS 38.211 (f0: log 103). -/
def symPhase (k : CarrierId) (c : List Byte) (ix sym : Nat) (sign : Int) : CV :=
  let t := (if cfgMu c = 1 then ix % 2 * slotSamples c else 0) + symStart c sym + cpLen c sym
  cis (sign * (Config.carrierHz k.val * t : Nat)) 122880000

/-! ### FIR (R302) -/

/-- The taps of a carrier's FIR in one direction (0 receive, 1 transmit), from the bank in use. -/
def Dfe.firTaps (d : Dfe) (k dir : Nat) : List Int :=
  let ctl := (d.firOf (2 * k + dir)).toNat
  let n := 8 * bitsOf ctl 8 4
  (List.range n).map fun t =>
    let t := if ctl.testBit 7 && decide (n ≤ 2 * t) then n - 1 - t else t
    signExt 18 (d.firCoef.get ((2 * k + dir) * 256 + bitsOf ctl 12 1 * 128 + t)).toNat

/-- RNE(Σ c_k x(n - k)) with coefficients of weight 2⁻¹⁷, saturated to 16 bits. -/
def firAt (taps : List Int) (x : Int → CV) (n : Int) : Int × Int :=
  cvInt16 (cvScale (.fin false 1 (-17)) (cvSum (taps.mapIdx fun k c => cvScale (FV.ofInt c) (x (n - k)))))

/-- A list as a sequence that is zero outside it. -/
def seqOf (l : List CV) (n : Int) : CV := if n < 0 then cvZero else l.getD n.toNat cvZero

/-! ### Receive (R299, R310) -/

/-- The samples before a symbol that the longest FIR reads. -/
def firTail : Nat := 95

/-- Link samples of a path as codes: those of option 1 have 12 bits and count × 16 (R313). -/
def linkCodes (js : Dword) (xs : List (Int × Int)) : List (Int × Int) := if rxOpt js = 1 then xs.map fun z => (16 * z.1, 16 * z.2) else xs

/-- Samples at 122.88 MS/s of a symbol from its link samples, behind `firTail` earlier ones: NCO shift, and decimation by 2 where the link runs at
245.76 MS/s. -/
def rxBase (d : Dfe) (k : CarrierId) (c : List Byte) (sym : Nat) (xs : List (Int × Int)) : List CV :=
  let fast := linkFast (rxOpt d.jsCfg)
  let r := if fast then 2 else 1
  let start : Int := (r * symStart c sym : Nat)
  let mixed := xs.mapIdx fun i z => cvMul (cvOfInt z) (cis (-(ncoHz c * (start + i - firTail))) (122880000 * r))
  if fast then (List.range (symLen c sym)).map fun m => cvOfInt (firAt (d.firTaps k.val 0) (seqOf mixed) (2 * m + firTail : Nat))
  else mixed.drop firTail

/-- The FFT lanes of a path's symbol over the carrier's PRBs (R299 steps 3 to 5), code 32,768 being 1.0 (log 108). -/
def rxLine (d : Dfe) (k : CarrierId) (c : List Byte) (ix sym : Nat) (xs : List (Int × Int)) : List CV :=
  let off := fftOffset c sym
  let n := fftSize c
  let win := ((rxBase d k c sym xs).drop off).take n
  let prbs := cfgPrbs c
  let ph := symPhase k c ix sym 1
  (List.range (12 * prbs)).map fun (j : Nat) =>
    let bin : Int := (j : Int) - (6 * prbs : Nat)
    cvScale (.fin false 1 (-15)) (cvMul (cvMul (dftAt false win bin) (cis (bin * ((cpLen c sym : Int) - off)) n)) ph)

/-- ⌊40 log10(num / den)⌋, from 10^q ≤ (num / den)^40. -/
def level40 (num den : Nat) : Option Int :=
  ((List.range 640).map fun (i : Nat) => (20 : Int) - i).find? fun q => if 0 ≤ q then decide (10 ^ q.toNat * den ^ 40 ≤ num ^ 40) else decide (den ^ 40 ≤ num ^ 40 * 10 ^ (-q).toNat)

/-- What R310 forms of a symbol's samples outside its CP. -/
def measureRx (agc : Nat) (path : Nat) (xs : List (Int × Int)) : RxMeas :=
  let p := xs.foldl (fun n z => n + (z.1 * z.1 + z.2 * z.2).toNat) 0
  let lim := bitsOf agc 16 15
  { path := path, level := if p = 0 then none else level40 p (xs.length * 2 ^ 30)
    clips := (xs.filter fun z => decide (lim ≤ z.1.natAbs ∨ lim ≤ z.2.natAbs)).length }

/-! ### Transmit (R301) -/

/-- The body of a symbol at 122.88 MS/s, in codes: IFFT normalised by 1 / √N with phase compensation. -/
def txBody (k : CarrierId) (c : List Byte) (ix sym : Nat) (line : List CV) : List CV :=
  let n := fftSize c
  let ph := symPhase k c ix sym (-1)
  let half : Int := (6 * cfgPrbs c : Nat)
  (List.range n).map fun (m : Nat) =>
    let v := cvSum (line.mapIdx fun j x => cvMul x (cis (((j : Int) - half) * m) n))
    cvScale (.fin false 1 15) (cvMul (cvScale (invSqrt n) v) ph)

/-- With its CP in front. -/
def withCp (cp : Nat) (body : List CV) : List CV := body.drop (body.length - cp) ++ body

/-- Ramp gain of step i of n: DF_RAMP's shape (the curve between its ends: DESIGN CHOICE, log 108). -/
def rampGain (shape : Nat) (tab : Nat → Nat) (i n : Nat) : FV :=
  if shape = 0 then f32 (fdiv (intToF (BitVec.ofNat 32 i)) (intToF (BitVec.ofNat 32 n)))
  else if shape = 1 then (.fin false 1 (-1) : FV).mul ((FV.ofInt 1).sub (cis i (2 * n)).1)
  else .fin false (tab (32 * i / n)) (-16)

/-- The ramp gains of a carrier, upwards. -/
def Dfe.ramps (d : Dfe) (k : Nat) : List FV :=
  let r := (d.rampOf k).toNat
  let n := bitsOf r 22 8
  (List.range n).map fun i => rampGain (bitsOf r 30 2) (fun e => (d.rampTab.get (32 * k + e)).toNat % 65536) i n

/-- CFR's threshold in codes. -/
def cfrLimit (r : Nat) : Word := fmul (pow10 (-(bitsOf r 0 8 : Nat)) 200) 0x47000000#32

/-- One pass of peak cancellation: each local peak above the threshold loses a pulse of its excess and phase (R303). -/
def cfrPass (limit : Word) (pulse : Nat → CV) (len : Nat) (xs : List CV) : List CV :=
  let pow := xs.map cvPower
  let at_ := fun (i : Nat) => pow.getD i fvZero
  let peaks := (List.range xs.length).filterMap fun i =>
    let p := at_ i
    if ((f32 limit).mul (f32 limit)).lt p && (i == 0 || (at_ (i - 1)).lt p) && !(p.lt (at_ (i + 1))) then
      some (i, cvScale (f32 (fsub wOne (fdiv limit (fsqrt (rne32 p))))) (xs.getD i cvZero))
    else none
  let c := (len - 1) / 2
  xs.mapIdx fun n x => cvSub x (cvSum (peaks.filterMap fun q =>
    if n + c < q.1 ∨ q.1 + len ≤ n + c then none else some (cvMul q.2 (pulse (n + c - q.1)))))

/-- CFR of a carrier (R303). -/
def Dfe.cfr_ (d : Dfe) (k : Nat) (c : List Byte) (xs : List CV) : List CV :=
  let r := (d.cfrOf k).toNat
  let len := if r.testBit 14 then 127 else 63
  let pulse := fun (t : Nat) => cwVal (Config.cfrPulse (d.firTaps k 1) (ncoHz c) len t)
  if !r.testBit 17 then xs else (List.range (bitsOf r 15 2)).foldl (fun xs _ => cfrPass (cfrLimit r) pulse len xs) xs

/-- The terms of the polynomial as (k, m, l), in the order of the coefficients (DESIGN CHOICE, log 109). -/
def dpdList (r : Nat) : List (Nat × Nat × Int) :=
  (List.range (bitsOf r 6 2 + 1)).flatMap fun j => (List.range (bitsOf r 3 3)).flatMap fun m =>
    if j = 0 then [(1, m, 0)]
    else (0 :: (List.range (bitsOf r 1 2)).flatMap fun (l : Nat) => [-(l + 1 : Int), (l + 1 : Int)]).map fun l => (2 * j + 1, m, l)

def fvPow (x : FV) : Nat → FV
  | 0 => FV.ofInt 1
  | n + 1 => x.mul (fvPow x n)

/-- DPD of a path (R304): Σ a x(n - m) |x(n - m - l)|^(k - 1), full scale being 1.0; without a learned set the samples pass. -/
def Dfe.dpd_ (d : Dfe) (path : Nat) (xs : List CV) : List CV :=
  let r := (d.dpdOf path).toNat
  let set := (d.dpdSet path).cur
  if !r.testBit 9 || !linkFast (txOpt d.jsCfg) || set.isEmpty then xs
  else
    let x := seqOf (xs.map (cvScale (.fin false 1 (-15))))
    let terms := List.zip (dpdList r) set
    (List.range xs.length).map fun (n : Nat) => cvScale (.fin false 1 15) (cvSum (terms.map fun (t : (Nat × Nat × Int) × Dword) =>
      let a := cwVal (BitVec.setWidth 32 t.2, BitVec.setWidth 32 (t.2 >>> (32 : Nat)))
      let at_ : Int := n - (t.1.2.1 : Int)
      cvScale (fvPow (cvPower (x (at_ - t.1.2.2))) ((t.1.1 - 1) / 2)) (cvMul a (x at_))))

/-- Baseband samples that a path keeps between symbols: more than twice what any later stage reads around a sample. -/
def txKeep : Nat := 256

/-- A symbol's new baseband samples and ramp gains enter a path's stream; what leaves it is half of `txKeep` behind (log 108). -/
def txRun (d : Dfe) (k : CarrierId) (c : List Byte) (ix sym : Nat) (q : TxPath) (base : List CV) (gains : List FV) : TxPath :=
  let len := base.length
  let base := (List.replicate (txKeep - q.base.length) cvZero ++ q.base) ++ base
  let gains := (List.replicate (2 * txKeep - q.gains.length) fvZero ++ q.gains) ++ gains
  let taps := d.firTaps k.val 1
  let start : Int := 2 * ((ix * slotSamples c + symStart c sym : Nat) - (txKeep : Int))
  let up := fun (n : Int) => if n % 2 = 0 then seqOf base (n / 2) else cvZero
  let x := (List.range (2 * base.length)).map fun (n : Nat) =>
    cvMul (cvOfInt (firAt taps up (n + taps.length / 2 : Nat))) (cis (ncoHz c * (start + n)) 245760000)
  let x := d.dpd_ q.path (d.cfr_ k.val c x)
  let out := (((List.zipWith (fun g z => cvInt16 (cvScale g z)) gains x).drop txKeep).take (2 * len))
  let out := if linkFast (txOpt d.jsCfg) then out else (List.range len).map fun i => out.getD (2 * i) (0, 0)
  { q with base := base.drop len, gains := gains.drop (2 * len)
           out := if d.muted.getLsbD (q.path % 64) then out.map fun _ => (0, 0) else out }

/-- The symbol before one is downlink. -/
def downBefore (c : List Byte) (ix sym : Nat) : Bool := if sym = 0 then symDown c (ix - 1) 13 else symDown c ix (sym - 1)

/-- A symbol of a TX path: a downlink symbol with a ramp up after a gap, or the rest of a gap with a ramp down at its start (R306). -/
def txSymbol (d : Dfe) (k : CarrierId) (c : List Byte) (ix sym : Nat) (q : TxPath) (line : List CV) : TxPath :=
  let n := symLen c sym
  let ramp := if cfgTdd c then d.ramps k.val else []
  let fill := fun (l : List FV) (v : FV) => (l ++ List.replicate (2 * n) v).take (2 * n)
  if symDown c ix sym then
    let body := txBody k c ix sym line
    { txRun d k c ix sym q (withCp (cpLen c sym) body) (fill (if downBefore c ix sym then [] else ramp) (FV.ofInt 1)) with ext := body.take 128 }
  else
    let on := downBefore c ix sym
    let ext := if on then q.ext.take ((ramp.length + 1) / 2) else []
    { txRun d k c ix sym q ((ext ++ List.replicate n cvZero).take n) (fill (if on then ramp.reverse else []) fvZero) with ext := [] }

/-- Beacon samples replace a path's output while a burst lasts; a path that does not transmit in it gives zero (R352). -/
def beaconOver (bursts : List CalBurst) (at_ : Nat) (path : Nat) (out : List (Int × Int)) : List (Int × Int) :=
  bursts.foldl (fun out b =>
    let len := (b.wave.headD (0, [])).2.length
    let w := ((b.wave.find? fun e => e.1 == path).elim [] (·.2))
    out.mapIdx fun i z => if b.start ≤ at_ + i ∧ at_ + i < b.start + len then w.getD (at_ + i - b.start) (0, 0) else z) out

/-- The first sample of a symbol at the TX link's rate, from the start of counting. -/
def linkStart (d : Dfe) (c : List Byte) (ix sym : Nat) : Nat := (if linkFast (txOpt d.jsCfg) then 2 else 1) * (ix * slotSamples c + symStart c sym)

/-- The DFE's symbol on every TX path of a carrier. -/
def State.txSamples (s : State) (k : CarrierId) (sym : Nat) (lines : List (List CV)) : State :=
  let x := s.carrier k
  let out := x.txPaths.mapIdx fun i p =>
    let q := txSymbol s.dfe k x.conf x.slotIx sym ((x.txPath.find? fun q => q.path == p).getD { path := p }) (lines.getD i [])
    { q with out := beaconOver (x.cal.sent.drop (x.cal.sent.length - 1)) (linkStart s.dfe x.conf x.slotIx sym) p q.out }
  s.modCarrier k fun x => { x with txPath := out }

/-! ### ACLR (R307) -/

/-- The power in the bins of 1,024-point FFTs of successive windows whose centres lie in a band, `lo` to `hi` Hz from the converter centre. -/
def bandPower (rate : Nat) (lo hi : Int) (xs : List (Int × Int)) : FV :=
  (chunks 1024 (xs.length + 1) (xs.map cvOfInt)).foldl (fun p w =>
    (List.range 1024).foldl (fun p (b : Nat) =>
      let bin : Int := (b : Int) - 512
      let f := bin * rate
      if lo * 1024 ≤ f ∧ f ≤ hi * 1024 then p.add (cvPower (dftAt false w bin)) else p) p) fvZero

/-- (a / b) < 10^(q / 100). -/
def ratioBelow (a b : FV) (q : Int) : Bool :=
  match a, b with
  | .fin _ ma ea, .fin _ mb eb =>
    let (na, da) := ratOf ma ea
    let (nb, db) := ratOf mb eb
    let num := na * db
    let den := da * nb
    if 0 ≤ q then decide (num ^ 100 < 10 ^ q.toNat * den ^ 100) else decide (num ^ 100 * 10 ^ (-q).toNat < den ^ 100)
  | _, _ => false

/-- The ACLR in 0.1 dB, rounded down: the carrier's power over the band's; none for a band without any power. -/
def aclrOf (a b : FV) : Option Int := if b.isZero then none else ((List.range 2400).map fun (i : Nat) => (1200 : Int) - i).find? fun q => !ratioBelow a b q

/-- A band's ACLR from the samples of its tap (R307, Table 11-11). -/
def Carrier.aclr (x : Carrier) (r : Nat) (rate : Nat) (xs : List (Int × Int)) : Option Int :=
  let c := x.conf
  let half : Int := (6 * cfgPrbs c * (if cfgMu c = 1 then 30000 else 15000) : Nat)
  let centre := ncoHz c + 1000 * signExt 18 (bitsOf r 45 18)
  let w : Int := (500 * bitsOf r 29 16 : Nat)
  aclrOf (bandPower rate (ncoHz c - half) (ncoHz c + half) xs) (bandPower rate (centre - w) (centre + w) xs)

end Sys2Proof.Machine
end

