-- ==== Sys2Proof/Machine/FrontEnd.lean ====
section
/-!
DEFINITION. The digital front end (R298 to R320): received symbols into the grid ring, transmitted symbols and PA_EN, stepped gain, the mask
monitor, DPD cycles, SYSREF and lanes, and the 7.2x U-plane and C-plane. A row's symbol is a symbol of the running slot (log 43).
-/
namespace Sys2Proof.Machine

/-- A configured carrier whose first slot has started. -/
def State.onAir (s : State) (k : CarrierId) : Bool := (s.carrier k).cfg.isSome && (s.carrier k).started

/-- The standby of a pair leaves gain decisions, the mask monitor, DPD and the beacon idle (R435). -/
def State.idle (s : State) : Bool := s.twin.role == .standby

/-! ### Received symbols (R248, R299, R300) -/

/-- The RX lane that carries a path: eight converters to a lane (Table 11-13). -/
def laneOf (p : Nat) : Nat := p / 4

/-- DFE_RX_SYMBOL: an uplink symbol's link samples, one line per RX path in ascending order behind the 95 samples before it, pass the chain into
the grid ring and are measured; a path whose lane lost lock delivers zeros (R299, R300, R310, R315, R320). -/
def execDfeRxSymbol (car : CarrierId) (sym : Fin 14) (samples : List (List (Int × Int))) (s : State) : Out :=
  .next (let x := s.carrier car
    let c := x.conf
    if !s.onAir car || cfg72 c || !symUp c x.slotIx sym.val then s
    else
      let dead := fun (p : Nat) => x.laneLost.getLsbD (laneOf p) || !s.dfe.locked.getLsbD (laneOf p)
      let n := (if linkFast (rxOpt s.dfe.jsCfg) then 2 else 1) * symLen c sym.val
      let cp := n - (if linkFast (rxOpt s.dfe.jsCfg) then 2 else 1) * fftSize c
      let raw := x.rxPaths.mapIdx fun i p => (p, if dead p then List.replicate (firTail + n) (0, 0) else linkCodes s.dfe.jsCfg (samples.getD i []))
      let agc := (s.dfe.agcOf car.val).toNat
      let s := s.modCarrier car fun x => { x with laneLost := 0#18, meas := raw.map fun q => measureRx agc q.1 (q.2.drop (firTail + cp)) }
      (s.writePlane car sym.val (raw.map fun q => rxLine s.dfe car c x.slotIx sym.val q.2)).resumeAll)

/-! ### Transmitted symbols (R301, R306) -/

/-- PA_EN of a carrier's groups in a symbol: on through downlink symbols, but for a group whose four paths are muted, and never after a thermal
trip (R306, R307, R525). -/
def State.paSymbol (s : State) (k : CarrierId) (down : Bool) : State :=
  let m := cfgTx (s.carrier k).conf
  { s with pins := { s.pins with paEn := (List.range 16).foldl (fun (p : Half) g =>
      if bitsOf m (4 * g) 4 = 0 then p
      else if down && !s.power.tripped && bitsOf s.dfe.muted.toNat (4 * g) 4 != 15 then p ||| (1#16 <<< g) else p &&& ~~~(1#16 <<< g)) s.pins.paEn } }

/-- DFE_TX_SYMBOL: a downlink symbol's transmit grid, complete in the ring or not, is read and transmitted; other symbols are guard (R277, R286,
R301, R306). -/
def execDfeTxSymbol (car : CarrierId) (sym : Fin 14) (ready : Bool) (s : State) : Out :=
  .next (let x := s.carrier car
    if !s.onAir car || cfg72 x.conf then s
    else if symDown x.conf x.slotIx sym.val then
      let s := if ready then s.writeTx car sym.val else s
      let s := (s.paSymbol car true).txRead car sym.val ready
      s.txSamples car sym.val (s.readTx car sym.val)
    else (s.paSymbol car false).txSamples car sym.val [])

/-! ### Stepped gain (R310 to R312) -/

/-- The step in dB from a level in 0.25 dB and the count of clipped samples (R311, Table 11-12). -/
def agcStep (r : Nat) (level : Int) (clips : Nat) : Int :=
  let e := level - signExt 8 (bitsOf r 8 8)
  if bitsOf r 31 4 ≤ clips then -((bitsOf r 35 4 : Nat) : Int)
  else if 12 < e then -(e / 4)
  else if e < -12 then min ((bitsOf r 39 3 : Nat) : Int) ((-e) / 4)
  else 0

/-- The gain after a step (R311). -/
def agcGain (r : Nat) (gain : Nat) (step : Int) : Nat :=
  (clampInt (bitsOf r 48 5 : Nat) (bitsOf r 53 5 : Nat) ((gain : Int) + step)).toNat

/-- AGC_DECISION: a step from the level and clipping of the path's last measured symbol, unless one is pending or the gain is fixed (R310,
R311). The level of a symbol without any power is a free value (log 2). -/
def execAgcDecision (car : CarrierId) (path : Fin 64) (s : State) : Out :=
  .next (let x := s.carrier car
    let r := (s.dfe.agcOf car.val).toNat
    if s.idle || !s.onAir car || cfg72 x.conf || r.testBit 42 || x.gainNext.any (fun q => q.1 == path.val) then s
    else
      match x.meas.find? fun m => m.path == path.val with
      | none => s
      | some m =>
        let (v, s) := if m.level.isNone then s.draw else (0#64, s)
        let level := m.level.getD (signExt 16 v.toNat)
        let old := (x.gains.get path.val).toNat
        let new := agcGain r old (agcStep r level m.clips)
        if new = old then s else s.modCarrier car fun x => { x with gainNext := x.gainNext ++ [(path.val, new)] })

/-- GAIN_STEP: a decided step takes effect, and the gains are loaded (R312, R523). -/
def execGainStep (car : CarrierId) (path : Fin 64) (s : State) : Out :=
  .next (match (s.carrier car).gainNext.find? fun q => q.1 == path.val with
    | none => s
    | some q => (s.modCarrier car fun x =>
        { x with gains := x.gains.set path.val (BitVec.ofNat 5 q.2), gainNext := x.gainNext.filter fun q => q.1 != path.val }).gainLoad)

/-! ### Mask monitor and mute (R307) -/

/-- The path that an observation channel looks at. -/
def Pins.observed (p : Pins) (path : Nat) : Bool := if path < 32 then p.orx0.toNat == path else p.orx1.toNat == path

/-- One band of a path in a slot, on the tap that it selects; the count starts again after a violation (log 49). -/
def State.maskBand (s : State) (k : CarrierId) (path band : Nat) (dpdTap obsTap : List (Int × Int)) : State :=
  let r := (s.dfe.maskOf (4 * k.val + band)).toNat
  let tap := r.testBit 18
  let xs := if tap then obsTap else dpdTap
  let on := r.testBit 63 && !xs.isEmpty && (!tap || (obsEn s.dfe.jsCfg && s.pins.observed path))
  let ix := 4 * path + band
  let aclr := (s.carrier k).aclr r (if tap then 983040000 else 245760000) xs
  if !on then s
  else if aclr.all fun a => decide ((bitsOf r 19 10 : Int) ≤ a) then s.modDfe fun d => { d with viol := d.viol.set ix 0#4 }
  else
    let n := (s.dfe.viol.get ix).toNat + 1
    if n < bitsOf r 14 4 then s.modDfe fun d => { d with viol := d.viol.set ix (BitVec.ofNat 4 n) }
    else
      let s := s.modDfe fun d =>
        let q := d.dpdSet path
        let d := { d with viol := d.viol.set ix 0#4, muteDue := if r.testBit 13 then d.muteDue ||| (1#64 <<< path) else d.muteDue }
        match q.fresh, q.prev with
        | true, some p => d.setDpd path { q with wait := some p, back := true }
        | _, _ => d
      s.dfeEvent (s.nowRef k) k.val path band 0 (BitVec.ofInt 16 (aclr.getD 0)) stMaskViolation

/-- MASK_MONITOR: a path's samples after DPD and on its observation lane in a slot's downlink symbols, band by band (R307, R320). -/
def execMaskMonitor (car : CarrierId) (path : Fin 64) (dpdTap obsTap : List (Int × Int)) (s : State) : Out :=
  .next (let x := s.carrier car
    if s.idle || !s.onAir car || cfg72 x.conf || !(cfgTx x.conf).testBit path.val || (lastDown x.conf x.slotIx).isNone then s
    else (List.range 4).foldl (fun (s : State) b => s.maskBand car path.val b dpdTap obsTap) s)

/-- MUTE_CLEAR: a dfe.config entry clears the mute of a path (R307, R308). -/
def execMuteClear (path : Fin 64) (s : State) : Out :=
  .next (if s.dfe.queued.any fun e => e.2.1 == 11 && e.2.2.1 == path.val then
      let s := s.modDfe fun d => { d with queued := d.queued.filter fun e => !(e.2.1 == 11 && e.2.2.1 == path.val) }
      s.applyEntry 11 path.val 1#64
    else s)

/-! ### DPD (R304, R305) -/

/-- DPD_ADAPT: one cycle of a path from 8,192 observation samples and the matching transmitted ones: the error under the set in use, in 1/16
dB, and the set fitted to them (the fit's arithmetic: log 109); an error more than 0.5 dB above the previous set's brings that set back at the
next boundary (R305). -/
def execDpdAdapt (path : Fin 64) (obs : List (Int × Int)) (s : State) : Out :=
  .next (let r := (s.dfe.dpdOf path.val).toNat
    match s.txCarrier path.val with
    | none => s
    | some k =>
      if s.idle || !s.onAir k || cfg72 (s.carrier k).conf || !r.testBit 9 || r.testBit 8 || !linkFast (txOpt s.dfe.jsCfg) || !obsEn s.dfe.jsCfg then s
      else
        let sel := BitVec.ofNat 6 path.val
        let s := { s with pins := if path.val < 32 then { s.pins with orx0 := sel } else { s.pins with orx1 := sel } }
        let tx := match (s.carrier k).txPath.find? fun q => q.path == path.val with | some q => q.out | none => []
        s.modDfe fun d =>
          let q := d.dpdSet path.val
          let coeffs := (List.range (dpdTerms r)).map (Config.dpdFit obs tx q.cur)
          let err := Config.dpdError obs tx q.cur
          d.setDpd path.val (match q.prev with
            | some p => if q.prevErr + 8 < err then { q with wait := some p, back := true } else { q with wait := some coeffs, back := false, prevErr := err }
            | none => { q with wait := some coeffs, back := false, prevErr := err }))

/-- The set that waits is taken at a slot boundary; a set that is restored has no predecessor. -/
def Dpd.swap (q : Dpd) : Dpd :=
  match q.wait with
  | none => { q with fresh := false }
  | some w => if q.back then { q with cur := w, prev := none, wait := none, back := false, fresh := true }
      else { q with cur := w, prev := some q.cur, wait := none, fresh := true }

/-! ### SYSREF and lanes (R314, R315) -/

/-- SYSREF_EDGE, `off` device clocks from the LEMC: the first edge after link enable aligns it; with sysref_cont a later edge that is off is
reported (R314). -/
def execSysrefEdge (off : Word) (s : State) : Out :=
  .next (if !s.dfe.aligned then s.modDfe fun d => { d with aligned := true }
    else if s.dfe.jsCfg.getLsbD 16 && off != 0#32 then s.dfeEvent 0#32 0xFF 0xFF 0 0 0#16 stJesdLink
    else s)

/-- A lane in use: an RX lane of the option, or an observation lane (16 and 17). -/
def State.laneUsed (s : State) (lane : Nat) : Bool :=
  if lane < 16 then decide (lane < linkPaths (rxOpt s.dfe.jsCfg) / 4) else obsEn s.dfe.jsCfg

/-- The carrier whose paths a lane serves, as dfe.event names it: the first one, or none. -/
def State.laneCarrier (s : State) (lane : Nat) : Nat :=
  match allCarriers.find? fun k => (s.carrier k).cfg.isSome && decide (lane < 16) && bitsOf (cfgRx (s.carrier k).conf) (4 * lane) 4 != 0 with
  | some k => k.val
  | none => 0xFF

/-- LANE_LOCK_LOSS: a lane's paths deliver zeros until it relocks; the loss is reported (R315). -/
def execLaneLockLoss (lane : Fin 18) (s : State) : Out :=
  .next (if !s.laneUsed lane.val || !s.dfe.locked.getLsbD lane.val then s
    else
      let s := s.modDfe fun d => { d with locked := d.locked &&& ~~~(1#18 <<< lane.val) }
      let s := allCarriers.foldl (fun (s : State) k => s.modCarrier k fun x => { x with laneLost := x.laneLost ||| (1#18 <<< lane.val) }) s
      let c := s.laneCarrier lane.val
      s.dfeEvent (if c < 4 then s.nowRef (Fin.ofNat 4 c) else 0#32) c 0xFF 0 lane.val 0#16 stJesdLink)

/-- LANE_RELOCK (R315). -/
def execLaneRelock (lane : Fin 18) (s : State) : Out :=
  .next (s.modDfe fun d => { d with locked := d.locked ||| (1#18 <<< lane.val) })

/-! ### 7.2x mode (R316 to R319) -/

/-- fh_scale; 0 stands for 32,768 (Table 16-9). -/
def fhScale (c : List Byte) : Word :=
  let v := BitVec.ofNat 32 (fieldAt c 0x94 4)
  if v = 0#32 then 0x47000000#32 else v

/-- A field in µs with its default, in ns. -/
def usField (c : List Byte) (off dflt : Nat) : Nat := (let v := fieldAt c off 2; if v = 0 then dflt else v) * 1000

/-- The lanes of received PRBs: x = m × 2^e / fh_scale (R317). -/
def fhLanes (scale : Word) (prbs : List (BitVec 4 × List Int)) : List Word :=
  prbs.flatMap fun q => ((q.2 ++ List.replicate 24 (0 : Int)).take 24).map fun m => fvDiv32 (.fin (m < 0) (m.natAbs * 2 ^ q.1.toNat) 0) (f32 scale)

/-- UPLANE_RX: a receive U-plane packet of a path, `at_ns` after T_s: used once when it arrives in its window, else dropped and counted
(R318, R320). -/
def execUplaneRx (car : CarrierId) (path : Fin 64) (sym : Fin 14) (at_ns : Int) (prbs : List (BitVec 4 × List Int)) (s : State) : Out :=
  .next (let x := s.carrier car
    let c := x.conf
    if !s.onAir car || !cfg72 c || !(cfgRx c).testBit path.val || !symUp c x.slotIx sym.val then s
    else if at_ns < (usField c 0x9E 20 : Nat) ∨ ((usField c 0xA0 43 : Nat) : Int) < at_ns then
      s.modCarrier car fun x => { x with upDropped := satInc32 x.upDropped }
    else if x.upLines.any fun l => l.path == path.val && l.sym == sym.val then s.modCarrier car fun x => { x with upDup := satInc32 x.upDup }
    else s.modCarrier car fun x => { x with upLines := x.upLines ++ [{ path := path.val, sym := sym.val, lanes := fhLanes (fhScale c) prbs }] })

/-- FP32 lanes re, im, re, im, … as values. -/
def pairCV : List Word → List CV
  | a :: b :: l => (f32 a, f32 b) :: pairCV l
  | _ => []

/-- UPLANE_RX_WINDOW_END: the grid of a received symbol is complete; what did not arrive is zero (R300, R317, R318). -/
def execUplaneRxWindowEnd (car : CarrierId) (sym : Fin 14) (s : State) : Out :=
  .next (let x := s.carrier car
    if !s.onAir car || !cfg72 x.conf || !symUp x.conf x.slotIx sym.val then s
    else
      let ls := x.rxPaths.map fun p => match x.upLines.find? fun l => l.path == p && l.sym == sym.val with | some l => pairCV l.lanes | none => []
      let s := s.modCarrier car fun x => { x with upLines := x.upLines.filter fun l => l.sym != sym.val }
      (s.writePlane car sym.val ls).resumeAll)

/-- RNE(v / 2^e) of a lane; none for a lane without a finite value. -/
def fhMantissa (e : Nat) (v : Word) : Option Int :=
  match f32 v with
  | .fin neg m x => some (rneInt neg m (x - e))
  | _ => none

def fhFits (w : Nat) (e : Nat) (vs : List Word) : Bool :=
  vs.all fun v => match fhMantissa e v with
    | some m => decide (-(2 ^ (w - 1) : Int) ≤ m ∧ m < (2 ^ (w - 1) : Int))
    | none => false

/-- A PRB's exponent and mantissas; none when no exponent holds its lanes. -/
def fhPrb (w : Nat) (vs : List Word) : Option (BitVec 4 × List Int) :=
  ((List.range 16).find? fun e => fhFits w e vs).map fun e => (BitVec.ofNat 4 e, vs.map fun v => (fhMantissa e v).getD 0)

/-- The PRBs of a path's symbol; a PRB that no exponent holds goes out with free values (log 2). -/
def State.fhCompress (s : State) (w : Nat) (scale : Word) : Nat → List CV → List (BitVec 4 × List Int) × State
  | 0, _ => ([], s)
  | n + 1, lanes =>
    let vs := ((lanes ++ List.replicate 12 cvZero).take 12).flatMap fun z => [rne32 (z.1.mul (f32 scale)), rne32 (z.2.mul (f32 scale))]
    let (p, s) : (BitVec 4 × List Int) × State := match fhPrb w vs with
      | some p => (p, s)
      | none => (let (ws, s) := s.drawMany 25; ((((ws.getD 24 0#64).setWidth 4), (ws.take 24).map fun v => signExt w v.toNat), s))
    let (ps, s) := s.fhCompress w scale n (lanes.drop 12)
    (p :: ps, s)

/-- The first symbol of a run of a direction, and its length; none elsewhere. -/
def runAt (f : Nat → Bool) (sym : Nat) : Option Nat :=
  if f sym && (sym == 0 || !f (sym - 1)) then some (((List.range 14).drop sym).takeWhile f).length else none

/-- C-plane of a symbol: section type 1 at the first symbol of a range in each direction, section type 3 for each PRACH occasion that
starts there (R319). -/
def fhControl (x : Carrier) (slot : Word) (sym : Nat) : List FhCtl :=
  let run := fun (up : Bool) (f : Nat → Bool) => match runAt f sym with
    | some n => [{ slot := slot, section3 := false, up := up, sym := sym, count := n : FhCtl }]
    | none => []
  run false (symDown x.conf x.slotIx ·) ++ run true (symUp x.conf x.slotIx ·)
    ++ (match findSched x.ul slot with
      | some q => (q.pdus.filter fun p => p.typ == 3 && !p.decided && p.nat 0x0A 1 == sym).map fun p =>
          { slot := slot, section3 := true, up := true, sym := sym, count := p.nat 3 1 }
      | none => [])

/-- UPLANE_TX: the U-plane of a downlink symbol, from its grid in the downlink ring or zeros when that is not complete, and the C-plane (R277, R317
to R319). -/
def execUplaneTx (car : CarrierId) (sym : Fin 14) (ready : Bool) (s : State) : Out :=
  .next (let x := s.carrier car
    let c := x.conf
    if !s.onAir car || !cfg72 c then s
    else
      let slot := s.nowRef car
      let s := s.modCarrier car fun x => { x with fhCtl := x.fhCtl ++ fhControl x slot sym.val }
      if !symDown c x.slotIx sym.val then s
      else
        let s := if ready then s.writeTx car sym.val else s
        let s := s.txRead car sym.val ready
        let lines := s.readTx car sym.val
        (x.txPaths.mapIdx fun i p => (i, p)).foldl (fun (s : State) q =>
          let (ps, s) := s.fhCompress (fieldAt c 0x98 1) (fhScale c) (cfgPrbs c) (lines.getD q.1 [])
          s.modCarrier car fun x => { x with fhSent := x.fhSent ++ [{ slot := slot, path := q.2, sym := sym.val, prbs := ps }] }) s)

end Sys2Proof.Machine
end

