-- ==== Sys2Proof/Machine/Calibration.lean ====
section
/-!
DEFINITION. The calibration beacon (R345 to R358): sequences, frames, guard periods, bursts and rounds, the samples sent and what is measured
of those captured, and cal.result.
-/
namespace Sys2Proof.Machine

/-! ### Sequences and frames -/

/-- The chips from registers A and B on (R347). -/
def beaconChips : Nat → Nat → Nat → List Bool
  | 0, _, _ => []
  | n + 1, a, b =>
    let fa := (a + a / 2 ^ 7) % 2
    let fb := (b + b / 2 + b / 2 ^ 5 + b / 2 ^ 8) % 2
    (((a + b) % 2) == 1) :: beaconChips n (a / 2 + fa * 2 ^ 9) (b / 2 + fb * 2 ^ 9)

/-- beacon_sequence (R347): 1,023 chips, true for chip value 1. -/
def beaconSequence (seqId : Nat) : List Bool := beaconChips 1023 0x3FF (seqId + 1)

/-- One bit into the CRC-24A register. -/
def crc24Bit (r : BitVec 24) (b : Bool) : BitVec 24 :=
  let t := r <<< 1
  if r.getLsbD 23 != b then t ^^^ 0x864CFB#24 else t

/-- CRC-24A of a header, most significant bit first (R349). -/
def crc24 (h : BitVec 24) : BitVec 24 := (List.range 24).foldl (fun r i => crc24Bit r (h.getLsbD (23 - i))) 0#24

/-- The frame header of Table 13-2. -/
def calHeader (tag : Nat) (rx : Bool) (car path round : Nat) : BitVec 24 :=
  BitVec.ofNat 24 (2 ^ 20 + tag % 16 * 2 ^ 16 + (if rx then 2 ^ 15 else 0) + car % 4 * 2 ^ 13 + path % 64 * 2 ^ 7 + round % 128)

def calFrame (h : BitVec 24) : BitVec 48 := h ++ crc24 h

/-! ### Guard periods (R351) -/

/-- Samples of a symbol at 122.88 MS/s (Table 11-6). -/
def symSamples (c : List Byte) (sym : Nat) : Nat :=
  if cfgMu c = 1 then 4096 + (if sym = 0 then 352 else 288) else 8192 + (if sym = 0 ∨ sym = 7 then 640 else 576)

/-- The samples of a run of guard symbols from a symbol on, when an uplink symbol ends it. -/
def guardRun (c : List Byte) : Nat → Nat → Nat → Option Nat
  | 0, _, _ => none
  | n + 1, ix, sym =>
    match symKind c ix sym with
    | 1 => some 0
    | 2 => (guardRun c n (if sym = 13 then ix + 1 else ix) (if sym = 13 then 0 else sym + 1)).map (· + symSamples c sym)
    | _ => none

/-- A symbol starts a guard period: it is a guard symbol, a downlink symbol precedes it, and an uplink symbol follows its run. -/
def guardLen (c : List Byte) (ix sym : Nat) : Option Nat :=
  let before := if sym = 0 then symKind c (ix + cfgPeriod c - 1) 13 else symKind c ix (sym - 1)
  if symKind c ix sym = 2 ∧ before = 0 then guardRun c 300 ix sym else none

def guardsIn (c : List Byte) (ix : Nat) : Nat := (List.range 14).countP fun sym => (guardLen c ix sym).isSome

/-- The number of a guard period, from 1 on, counted from the carrier's first slot. -/
def guardNumber (c : List Byte) (first ix sym : Nat) : Nat :=
  let n := ix - first
  let p := max 1 (cfgPeriod c)
  let sum := fun (m : Nat) => ((List.range m).map fun i => guardsIn c (first + i)).foldl (· + ·) 0
  n / p * sum p + sum (n % p) + ((List.range sym).countP fun y => (guardLen c ix y).isSome) + 1

/-- Samples per chip at 245.76 MS/s (Table 13-1). -/
def chipSamples (rate : Nat) : Nat := [3, 4, 6, 8, 12, 16].getD rate 16

/-- From E to W0, in units of which a sample at 245.76 MS/s has 100,000 and 1 ns has 24,576 (R351). -/
def burstOpen (c : List Byte) (ramp : Word) (lead : Nat) (rx : Bool) : Nat :=
  let ns := 24576
  let settle := (let v := fieldAt c 0x40 2; if v = 0 then 2000 else v)
  let q := if rx then lead * 8 * ns else settle * ns
  max (bitsOf ramp.toNat 22 8 * 100000 + bitsOf ramp.toNat 0 11 * ns) q + 1000 * ns

/-- Beacon symbols that the burst's window holds (R348, R351). -/
def burstRoom (c : List Byte) (ramp : Word) (lead : Nat) (rx : Bool) (rate guard : Nat) : Nat :=
  (guard * 200000 - 2000 * 24576 - burstOpen c ramp lead rx) / (1023 * 100000 * chipSamples rate)

/-! ### Samples (R348, R350) -/

/-- Symbol `j` of a burst whose first data symbol is `first` of its frame: symbol 0 is the sync symbol. The flag marks data symbols of QPSK. -/
def beaconSym (reg : Dword) (frame : BitVec 48) (first j : Nat) : Int × Int × Bool :=
  let bit := fun (i : Nat) => if frame.getLsbD (47 - i) then (-1 : Int) else 1
  if j = 0 then (1, 0, false)
  else if calQpsk reg then (bit (2 * (first + j - 1)), bit (2 * (first + j - 1) + 1), true)
  else (bit (first + j - 1), 0, false)

/-- The samples of a sync symbol and `count` data symbols of a sequence, at a number of samples per chip (log 114). -/
def beaconSamples (reg : Dword) (spc seqId : Nat) (frame : BitVec 48) (first count : Nat) : List (Int × Int) :=
  let chips := beaconSequence seqId
  let syms := (List.range (count + 1)).map (beaconSym reg frame first)
  let total := 1023 * (count + 1)
  (List.range (total * spc)).map fun n =>
    let near := (List.range 10).filterMap fun d => if n / spc + d < 4 ∨ total ≤ n / spc + d - 4 then none else some (n / spc + d - 4)
    let v := near.foldl (fun (v : Int × Int) i =>
      let (a, b, data) := syms.getD (i / 1023) (0, 0, false)
      let p := Config.beaconPulse (bitsOf reg.toNat 50 7) data spc ((n : Int) - (i * spc : Nat)) * (if chips.getD (i % 1023) false then -1 else 1)
      (v.1 + a * p, v.2 + b * p)) (0, 0)
    cvInt16 (cvScale (.fin false 1 (-16)) (cvOfInt v))

/-! ### Measurement (R355, R356) -/

/-- A capture against the reference from a sample on: Σ x conj(r). -/
def correlate (xs ref : List (Int × Int)) : Int × Int :=
  (List.zip xs ref).foldl (fun v q =>
    (v.1 + q.1.1 * q.2.1 + q.1.2 * q.2.2, v.2 + q.1.2 * q.2.1 - q.1.1 * q.2.2)) (0, 0)

def powerOf (z : Int × Int) : Nat := (z.1 * z.1 + z.2 * z.2).toNat
def energyOf (xs : List (Int × Int)) : Nat := xs.foldl (fun n z => n + powerOf z) 0

/-- One path of one burst, from a capture that begins 64 samples before its sync symbol: the peak over lags of ±64 samples, and the hard decisions of
`count` data symbols against its phase (R355). -/
def calMeasure (qpsk : Bool) (rate path count : Nat) (ref xs : List (Int × Int)) : CalGot :=
  let cs := (List.range 129).map fun i => correlate (xs.drop i) ref
  let p := fun (i : Nat) => powerOf (cs.getD i (0, 0))
  let peak := (List.range 129).foldl (fun best i => if p best < p i then i else best) 0
  let g := cs.getD peak (0, 0)
  let data := (List.range count).map fun j =>
    let z := correlate (xs.drop (peak + (j + 1) * ref.length)) ref
    (z.1 * g.1 + z.2 * g.2, z.2 * g.1 - z.1 * g.2)
  { path := path, delay := Config.calDelay ((peak : Int) - 64) rate (if peak = 0 then 0 else p (peak - 1), p peak, p (peak + 1)), re := g.1, im := g.2
    energy := energyOf ref, power := energyOf xs
    bits := data.flatMap fun z => if qpsk then [decide (z.1 < 0), decide (z.2 < 0)] else [decide (z.1 < 0)] }

/-- The sum of the relative gains g(b, p) / g(b, ref) of a path over a round's bursts, as an exact quotient; denominator 0 where a reference is 0. -/
def relGain (qs : List (CalGot × CalGot)) : Int × Int × Nat :=
  qs.foldl (fun (v : Int × Int × Nat) q =>
    let (p, r) := q
    let re := (p.re * r.re + p.im * r.im) * (r.energy : Int)
    let im := (p.im * r.re - p.re * r.im) * (r.energy : Int)
    let den := powerOf (r.re, r.im) * p.energy
    (v.1 * den + re * v.2.2, v.2.1 * den + im * v.2.2, v.2.2 * den)) (0, 0, 1)

/-! ### Rounds (R346) -/

/-- The round that starts next, and the covered paths after it. -/
def nextRound (x : Carrier) (k : CarrierId) (reg : Dword) : CalRound × List Nat :=
  let dir := calDir reg
  let ref := calRef reg
  let all := x.txPaths
  let full := all.all x.cal.covered.contains
  let rx := dir == 2 || (dir == 3 && full)
  let covered := if full then [] else x.cal.covered
  let group := ref :: (all.filter fun p => p != ref && !covered.contains p).take (calGroup reg)
  let round := x.cal.round + 1#16
  let paths := if rx then [calInj reg] else group
  let base := bitsOf reg.toNat 40 10
  ({ round := round, rx := rx, reg := reg, paths := paths
     frames := paths.map fun p => (p, (base + (if rx then 64 else p)) % 1023, calFrame (calHeader (calTag reg) rx k.val p round.toNat)) },
   if rx then [] else covered ++ group)

def CalRound.symbols (r : CalRound) : Nat := if calQpsk r.reg then 24 else 48

/-- The lanes that a round listens on have lock: observation channel 0, or those of the carrier's RX paths. -/
def State.calLanes (s : State) (k : CarrierId) (rx : Bool) : Bool :=
  if rx then (s.carrier k).rxPaths.all fun p => s.dfe.locked.getLsbD (laneOf p) else s.dfe.locked.getLsbD 16

/-- Data symbols of a round's next burst (R351). -/
def CalRound.take (r : CalRound) (room : Nat) : Nat := min 8 (min (room - 1) (r.symbols - r.sentSym))

/-- Samples per chip and sample rate of a capture: observation channel 0 runs at 983.04 MS/s, an RX path at the RX link's rate (R313). -/
def capRate (d : Dfe) (r : CalRound) : Nat × Nat :=
  let n := chipSamples (calRate r.reg)
  if !r.rx then (4 * n, 983040000) else if linkFast (rxOpt d.jsCfg) then (n, 245760000) else (n / 2, 122880000)

/-- What a burst's captures give: in a TX round the transmitting paths in observation channel 0, in an RX round the RX paths (R355). -/
def CalRound.measure (r : CalRound) (d : Dfe) (rxPaths : List Nat) (count : Nat) (caps : List (List (Int × Int))) : List CalGot :=
  let (spc, rate) := capRate d r
  let one := fun (path seqId : Nat) (xs : List (Int × Int)) => calMeasure (calQpsk r.reg) rate path count (beaconSamples r.reg spc seqId 0#48 0 0) xs
  if r.rx then rxPaths.mapIdx fun i p => one p ((r.frames.headD (0, 0, 0#48)).2.1) (caps.getD i [])
  else r.frames.map fun f => one f.1 f.2.1 (caps.headD [])

/-- A burst of a round: up to eight data symbols, or the round's end when a lane has no lock (R351, R358). -/
def Cal.burst (q : Cal) (r : CalRound) (slot : Word) (sym n start : Nat) (wave : List (Nat × List (Int × Int))) (got : List CalGot) (lanes : Bool) : Cal :=
  let r' := { r with sentSym := r.sentSym + n, bursts := r.bursts + 1, last := slot, got := r.got ++ [got] }
  let b : CalBurst := { slot := slot, sym := sym, round := r.round, first := r.sentSym, count := n, start := start, wave := wave }
  let q : Cal := { q with sent := q.sent ++ [b] }
  let go : Cal := { q with cur := some r' }
  if !lanes then go.abort
  else if r.symbols ≤ r'.sentSym then { q with cur := none, done := q.done ++ [r'] }
  else go

/-- CAL_BURST: the guard period that starts at a symbol of the running slot; every every-th one with room holds a burst (R351, R353). In
an RX round the RX paths are driven to cal_gain and back, two gain loads. `caps` are the samples that arrive: of observation channel 0 in a TX round,
of each RX path in an RX round. -/
def execCalBurst (car : CarrierId) (sym : Fin 14) (caps : List (List (Int × Int))) (s : State) : Out :=
  .next (let x := s.carrier car
    let reg := s.dfe.calOf car.val
    let c := x.conf
    if s.idle || !s.onAir car || cfgMode c != 1 || !calEn reg then s
    else match guardLen c x.slotIx sym.val with
      | none => s
      | some g =>
        if guardNumber c x.firstIx x.slotIx sym.val % max 1 (bitsOf reg.toNat 20 4) != 0 then s
        else
          let (r, cov, num) := match x.cal.cur with
            | some r => (r, x.cal.covered, x.cal.round)
            | none => (let (r, cov) := nextRound x car reg; (r, cov, r.round))
          let lead := bitsOf (s.dfe.agcOf car.val).toNat 0 8
          let room := burstRoom c (s.dfe.rampOf car.val) lead r.rx (calRate r.reg) g
          if room < 2 then s
          else
            let lanes := s.calLanes car r.rx
            let n := r.take room
            let unit := if linkFast (txOpt s.dfe.jsCfg) then 100000 else 200000
            let start := linkStart s.dfe c x.slotIx sym.val + (burstOpen c (s.dfe.rampOf car.val) lead r.rx + unit - 1) / unit
            let wave := r.frames.map fun f => (f.1, beaconSamples r.reg (chipSamples (calRate r.reg) * 100000 / unit) f.2.1 f.2.2 r.sentSym n)
            let got := r.measure s.dfe x.rxPaths n caps
            let s := s.modCarrier car fun x =>
              { x with cal := ({ x.cal with round := num, covered := cov } : Cal).burst r (slotRef car c x.slotIx) sym.val n start wave got lanes }
            if r.rx then s.gainLoad.gainLoad else s)

/-! ### Results (R355 to R357) -/

/-- What a round's bursts gave of a path. -/
def CalRound.of (r : CalRound) (p : Nat) : List CalGot := r.got.filterMap fun b => b.find? fun g => g.path == p
/-- What the kernel forms SNR and level from (log 114). -/
def calParts (gs : List CalGot) : List (Int × Int × Nat × Nat) := gs.map fun g => (g.re, g.im, g.energy, g.power)

/-- A path's means over a round (R356): relative gain (1/256 dB), phase (2⁻¹⁶ turns), relative delay in ps, SNR (1/16 dB), the assembled frame header, and
whether its CRC holds. -/
structure CalMeas where
  path   : Nat
  gain   : Half
  phase  : Half
  delay  : Int
  snr    : Half
  header : BitVec 24
  crcOk  : Bool
deriving DecidableEq, Repr

def CalRound.means (r : CalRound) (p : Nat) : CalMeas :=
  let mine := r.of p
  let pairs := List.zip mine (r.of (calRef r.reg))
  let (re, im, den) := relGain pairs
  let n := pairs.length
  let bits := mine.flatMap (·.bits)
  let word := fun (from_ : Nat) => (List.range 24).foldl (fun (w : BitVec 24) i => (w <<< 1) ||| (if bits.getD (from_ + i) false then 1#24 else 0#24)) 0#24
  { path := p, gain := Config.calDb re im (den * n), phase := Config.calTurn re im
    delay := Config.calMean ((pairs.map fun q => q.1.delay - q.2.delay).foldl (· + ·) 0) n, snr := Config.calSnr (calParts mine)
    header := word 0, crcOk := crc24 (word 0) == word 24 }

/-- One entry of cal.result: the reference path reports gain 0, phase 0 and delay 0 (R356). A delay that its 16 bits do not hold is a free value
(log 2). -/
def State.calEntry (s : State) (k : CarrierId) (r : CalRound) (m : CalMeas) : List Byte × State :=
  let p := m.path
  let want := calHeader (calTag r.reg) r.rx k.val (if r.rx then calInj r.reg else p) r.round.toNat
  let isRef := p == calRef r.reg
  let delay : Int := if isRef then 0 else m.delay
  let far := decide (30000 < delay.natAbs)
  let mixed := m.crcOk && (bitsOf m.header.toNat 16 4 != calTag r.reg || bitsOf m.header.toNat 13 2 != k.val)
  let valid := m.crcOk && m.header == want && !far
  let flags := (if m.snr.toInt < 160 then 16 else 0) + (if far then 8 else 0) + (if mixed then 4 else 0) + (if m.crcOk then 0 else 2) + (if valid then 1 else 0)
  let (v, s) : Nat × State := if decide (32767 < delay.natAbs) then (let (w, s) := s.draw; (w.toNat, s)) else ((BitVec.ofInt 16 delay).toNat, s)
  (leBytes 1 p ++ leBytes 1 flags ++ leBytes 2 (if isRef then 0 else m.gain.toNat) ++ leBytes 2 (if isRef then 0 else m.phase.toNat) ++ leBytes 2 v
    ++ leBytes 2 m.snr.toNat ++ [0#8, 0#8], s)

/-- CAL_RESULT: the oldest round that has ended is reported; an aborted one carries no entries (R357, Table 13-4). -/
def execCalResult (car : CarrierId) (s : State) : Out :=
  .next (let x := s.carrier car
    match x.cal.done with
    | [] => s
    | r :: rest =>
      let paths := if r.rx then x.rxPaths else (List.range 64).filter r.paths.contains
      let ms := if r.aborted then [] else paths.map r.means
      let st := if r.aborted then stCalAborted else stOk
      let s := s.modCarrier car fun x => { x with cal := { x.cal with done := rest } }
      let (es, s) := ms.foldl (fun (p : List Byte × State) m => (let (b, s) := p.2.calEntry car r m; (p.1 ++ b, s))) (([] : List Byte), s)
      s.notifyT1 0x0A09 st (leBytes 4 r.last.toNat ++ leBytes 2 r.round.toNat ++ leBytes 1 (if r.rx then 1 else 0) ++ leBytes 1 ms.length
        ++ leBytes 2 st.toNat ++ leBytes 1 (calRef r.reg) ++ leBytes 1 r.bursts ++ leBytes 2 (Config.calLevel (calParts (r.of (calRef r.reg)))).toNat
        ++ [0#8, 0#8] ++ es))

end Sys2Proof.Machine
end

