-- ==== Sys2Proof/Machine/Learning.lean ====
section
/-!
DEFINITION. Learning on site (R359 to R376): capture records and rings, the training job, validation, model load, swap and policy.
-/
namespace Sys2Proof.Machine

/-! ### Policy (Table 14-3) -/

def polNat (p : List Byte) (off n : Nat) : Nat := fieldAt p off n

/-- An FP32 field that is not negative, NaN or infinite. -/
def polFloat (v : Nat) (zero : Bool) : Bool := decide (v < 0x7F800000) && (zero || v != 0)

/-- A policy block keeps the ranges of Table 14-3. -/
def policyOk (p : List Byte) : Bool :=
  let f := polNat p
  p.length == 64 && f 0 1 < 4 && f 1 1 < 16 && decide (1 ≤ f 4 1 ∧ f 4 1 ≤ 8) && decide (2 ≤ f 5 1 ∧ f 5 1 ≤ 64) && f 6 2 == 0
    && decide (4096 ≤ f 0x10 4 ∧ f 0x10 4 ≤ 262144) && decide (1024 ≤ f 0x14 4 ∧ f 0x14 4 ≤ 65536) && decide (256 ≤ f 0x18 4 ∧ f 0x18 4 ≤ 65536)
    && f 0x1C 2 < 1024 && f 0x1E 2 < 1024 && decide (256 ≤ f 0x20 4 ∧ f 0x20 4 ≤ 65536) && f 0x24 2 < 1440 && f 0x26 2 ≤ 1440
    && decide (2 ≤ f 0x28 1 ∧ f 0x28 1 ≤ 9) && decide (1 ≤ f 0x29 1 ∧ f 0x29 1 ≤ 16) && decide (64 ≤ f 0x2A 2 ∧ f 0x2A 2 ≤ 4096) && f 0x2A 2 % 64 == 0
    && polFloat (f 0x2C 4) false && polFloat (f 0x30 4) true && decide (-720 ≤ signExt 16 (f 0x34 2) ∧ signExt 16 (f 0x34 2) ≤ 840) && f 0x36 2 == 0

/-! ### Capture (R359 to R364) -/

/-- 4-PRB groups that overlap a PDU, and its grid tiles (R360). -/
def pduGroups (p : Pdu) : Nat := (p.nat 6 2 + p.nat 8 2 - 1) / 4 - p.nat 6 2 / 4 + 1
def pduTiles (p : Pdu) : Nat := p.nat 0x0B 1 * pduGroups p

/-- A capture candidate (R359). -/
def captured (pol : List Byte) (slot : Word) (p : Pdu) : Bool :=
  polFlag pol 0 && p.typ == 1 && p.nat 0x1C 1 == 0 && p.nat 0x1E 4 == 0
    && decide (ember (BitVec.ofNat 64 (polNat pol 8 8)) (BitVec.ofNat 32 (refIndex slot)) (BitVec.ofNat 64 p.drawIx) < polNat pol 2 2)

/-- The tiles that a candidate's capture takes (R360). -/
def captureTiles (pol : List Byte) (slot : Word) (p : Pdu) : List Nat :=
  let t := pduTiles p
  let h := ember (BitVec.ofNat 64 (polNat pol 8 8)) (BitVec.ofNat 32 (refIndex slot)) (BitVec.ofNat 64 (p.drawIx + 2 ^ 32)) % t
  (List.range (min (polNat pol 4 1) t)).map fun j => (h + j) % t

/-- The 4-PRB group and the layer of a tile. -/
def tileGroup (p : Pdu) (tile : Nat) : Nat := p.prb0 / 4 + tile % pduGroups p
def tileLayer (p : Pdu) (tile : Nat) : Nat := tile / pduGroups p

/-- The constellation index of each symbol that the UE sent, in order of data elements and layers: the delivered bits encoded, scrambled and cut
into symbols (R361). -/
def Pdu.sentIndices (p : Pdu) (res : Nat) : List Nat :=
  let g := res * p.ulLayers * p.ulQm
  let bits := encodeBlock p.code (bitsOfBytes p.data) (p.nat 5 1 % 4) p.ulLayers p.ulQm g
  (chunks p.ulQm (bits.length + 1) (xorBits bits (gold (dataInit p.rnti (p.nat 0x18 2)) bits.length))).map natOfBits

/-- The data elements of a block, in order of symbol and subcarrier. -/
def RxView.dataRes (v : RxView) : List (Nat × Nat) :=
  v.p.syms.flatMap fun sym => ((List.range (12 * v.prbs)).filter fun k => v.p.inPrbs (k / 12) && v.p.ulData sym k).map fun k => (sym, k)

/-- The labels of a tile (R361): byte 48 s + k, 0xFF where no data element lies. -/
def RxView.labels (v : RxView) (tile : Nat) : List Byte :=
  let res := v.dataRes
  let ixs := v.p.sentIndices res.length
  (List.range 14).flatMap fun sym => (List.range 48).map fun k =>
    match res.findIdx? (· == (sym, 48 * tileGroup v.p tile + k)) with
    | some n => BitVec.ofNat 8 (ixs.getD (n * v.p.ulLayers + tileLayer v.p tile) 0xFF)
    | none => 0xFF#8

/-- Data elements in a tile. -/
def RxView.tileRes (v : RxView) (tile : Nat) : Nat := (v.dataRes.filter fun q => q.2 / 48 == tileGroup v.p tile).length

/-- The step-1 tensor of a tile with its three scale blocks (R90, R362). -/
def RxView.featureBytes (v : RxView) (tile : Nat) : List Byte :=
  let lines := v.tileFeatures (tileLayer v.p tile) (tileGroup v.p tile)
  lines.flatMap (fun l => l.flatMap fun g => g.2.map (BitVec.ofNat 8)) ++ (List.range 192).flatMap fun l => leBytes 2 ((lines.getD l []).map (·.1)).sum

/-- The features of a slot's candidates are kept (R359): those of the tiles that their capture takes. -/
def State.keepFeatures (s : State) (k : CarrierId) (slot : Word) : State :=
  s.modUl k slot fun q => { q with pdus := q.pdus.map fun p =>
    if q.ready && !p.decided && captured q.pol slot p then
      (let v := s.rxView k slot p; { p with feat := (captureTiles q.pol slot p).map fun t => (t, v.featureBytes t) })
    else p }

/-- The capture record of a tile (Table 14-1). -/
def captureBytes (c : Nat) (slot : Word) (i : Nat) (v : RxView) (tile : Nat) (model : Word) : List Byte :=
  let p := v.p
  let kept := match p.feat.find? fun f => f.1 == tile with | some f => f.2 | none => []
  let okL := p.path.getLsbD 4
  let okC := p.path.getLsbD 3
  leBytes 8 c ++ leBytes 4 slot.toNat ++ leBytes 2 i ++ leBytes 2 p.rnti ++ leBytes 1 (tileLayer p tile) ++ leBytes 1 (tileGroup p tile)
    ++ leBytes 1 (p.nat 0x0E 1) ++ leBytes 1 ((if okL then 2 else 0) + (if okC then 1 else 0)) ++ leBytes 2 p.sinr.toNat ++ leBytes 2 (v.tileRes tile)
    ++ leBytes 4 (if p.path.getLsbD 6 then model.toNat else 0) ++ leBytes 4 Config.featurePanel.toNat ++ leBytes 32 0
    ++ kept ++ v.labels tile ++ leBytes 32 0

/-- Put a record into a ring, or drop it where the position it would overwrite is protected (R363, R364). -/
def Ring.put (r : Ring) (b : List Byte) : Ring :=
  let blocked := match r.lock with
    | some (lo, hi) => decide (lo + r.cap ≤ r.nextK) && decide (r.nextK ≤ hi + r.cap)
    | none => false
  if blocked then { r with dropped := satInc64 r.dropped }
  else { r with recs := r.recs.filter (fun q => q.1 + r.cap != r.nextK) ++ [(r.nextK, b)], nextK := r.nextK + 1, firstK := max r.firstK (r.nextK + 1 - r.cap) }

/-- The ring that takes the record with the carrier's next capture number (R363). -/
def Carrier.toHold (x : Carrier) : Bool := (let d := polNat x.policy 5 1; x.capCount.toNat % d == d - 1)

def Carrier.modRing (x : Carrier) (f : Ring → Ring) : Carrier := if x.toHold then { x with hold := f x.hold } else { x with train := f x.train }

/-- The block of a capture: an accepted slot's PUSCH PDU, delivered with ST_OK, that the draw chose. -/
def Sched.capturePdu (q : Sched) (i : Nat) : Option Pdu :=
  if !q.ready || q.late then none
  else match q.pdus[i]? with
    | some p => if p.decided && p.status == stOk && captured q.pol q.slot p then some p else none
    | none => none

/-- CAPTURE_RECORD: one tile of a captured block is written to its ring (R360 to R363). -/
def execCaptureRecord (car : CarrierId) (slot : Word) (pdu : Half) (tile : Nat) (s : State) : Out :=
  .next (let x := s.carrier car
    match findSched x.ul slot with
    | none => s
    | some q =>
      match q.capturePdu pdu.toNat with
      | none => s
      | some p =>
        if !(captureTiles q.pol slot p).contains tile || q.tiles.contains (pdu.toNat, tile) then s
        else
          let b := captureBytes x.capCount.toNat slot pdu.toNat { p := p, prbs := cfgPrbs x.conf, slot := 0, gmin := [], beams := [] } tile q.model
          s.modRings car fun x =>
            let x := x.modRing fun r => r.put b
            { x with capCount := x.capCount + 1#64, ul := modSched x.ul slot fun q => { q with tiles := q.tiles ++ [(pdu.toNat, tile)] } })

/-- CAPTURE_DROP: records of a block that are not written in time are dropped and counted, in the ring that the next record goes to (R361;
log 50). -/
def execCaptureDrop (car : CarrierId) (slot : Word) (pdu : Half) (s : State) : Out :=
  .next (match findSched (s.carrier car).ul slot with
    | none => s
    | some q =>
      match q.capturePdu pdu.toNat with
      | none => s
      | some p =>
        let left := (captureTiles q.pol slot p).filter fun t => !q.tiles.contains (pdu.toNat, t)
        if !q.closed then s
        else s.modRings car fun x =>
          let x := x.modRing fun r => { r with dropped := left.foldl (fun d _ => satInc64 d) r.dropped }
          { x with ul := modSched x.ul slot fun q => { q with tiles := q.tiles ++ left.map fun t => (pdu.toNat, t) } })

/-! ### The training job (R365, R366) -/

/-- train.result (Table 16-11). -/
def State.trainResult (s : State) (k : CarrierId) (st : Half) (cand : Nat) (rest : List Byte) : State :=
  s.notifyT1 0x0A0D st (leBytes 1 k.val ++ [0#8] ++ leBytes 2 st.toNat ++ leBytes 4 cand ++ rest)

def resultRest (base trained evaluated eBase eCand : Nat) : List Byte :=
  leBytes 4 base ++ leBytes 4 trained ++ leBytes 4 evaluated ++ leBytes 4 eBase ++ leBytes 4 eCand ++ leBytes 4 0

/-- Records of a ring that a job may use: those not marked bad (R364). -/
def Ring.valid (r : Ring) : Nat := r.recs.countP fun q => decide (r.firstK ≤ q.1) && fieldAt q.2 0 8 != 2 ^ 64 - 1

def Ring.protect (r : Ring) : Ring := { r with lock := if r.firstK < r.nextK then some (r.firstK, r.nextK - 1) else none }

/-- The training job of a carrier that has not ended. -/
def State.trainingJob (s : State) (k : CarrierId) : Option Job :=
  match (s.carrier k).job with
  | some t => (s.job t.job).bind fun j => if j.phase == .ended then none else some j
  | none => none

/-- A training job that ended ST_OK and whose candidate is not validated yet. -/
def State.toValidate (s : State) (k : CarrierId) : Option Training :=
  match (s.carrier k).job with
  | some t => (match s.job t.job with | some j => if j.phase == .ended && j.status == stOk then some t else none | none => none)
  | none => none

/-- TRAIN_SUBMIT: the day minute win_start of a carrier that trains: its suspended job goes on, or a job is submitted (R365). Neither
package of a pair trains (R435). -/
def execTrainSubmit (car : CarrierId) (s : State) : Out :=
  .next (let x := s.carrier car
    let pol := x.policy
    match x.cfg, x.live with
    | some _, some base =>
      match s.trainingJob car with
      | some j => (s.allowJob j.id false).resumeAll
      | none =>
        if s.twin.formed || !polFlag pol 1 || polNat pol 0x26 2 == 0 || (s.toValidate car).isSome then s
        else if x.train.valid < polNat pol 0x2A 2 then s.trainResult car stTrainData 0 (resultRest base.id.toNat 0 0 0 0)
        else
          let j : Job := { id := s.nextJob, mailbox := BitVec.ofNat 4 (polNat pol 0x28 1), phase := .queued, deterministic := true,
                           ranks := List.replicate 8 { entry := 0, footprint := 0x300000, affinity := 2#8 },
                           seed := BitVec.ofNat 64 (polNat pol 0x38 8), faultLimit := 0#32, bundle := 0#32, queues := [], binds := [], carrier := some car }
          let t : Training := { job := j.id, base := base.id, image := base.image, policy := pol, train := (x.train.firstK, x.train.nextK), hold := (x.hold.firstK, x.hold.nextK) }
          let s := { s with jobs := s.jobs ++ [j], nextJob := s.nextJob + 1#32 }
          s.modRings car fun x => { x with job := some t, train := x.train.protect, hold := x.hold.protect }
    | _, _ => s)

/-- TRAIN_SUSPEND: win_start + win_len of a carrier's job (R365). -/
def execTrainSuspend (car : CarrierId) (s : State) : Out :=
  .next (match s.trainingJob car with
    | some j => s.suspendJob j.id false
    | none => s)

/-! ### Validation (R367 to R371) -/

/-- Table 20-6. -/
def trainingRecord (id base signer : Nat) (train hold : Nat × Nat) (seed : Nat) (polDigest : List Byte) (eBase eCand : Nat) : List Byte :=
  leBytes 4 id ++ leBytes 4 base ++ leBytes 8 signer ++ leBytes 8 train.1 ++ leBytes 8 train.2 ++ leBytes 8 hold.1 ++ leBytes 8 hold.2
    ++ leBytes 8 seed ++ polDigest ++ leBytes 4 eBase ++ leBytes 4 eCand ++ leBytes 80 0

/-- A model that model.load or the firmware brings (R501, R514). -/
def hostModel (id : Word) (image : List Byte) (digest : BitVec 384) (signer : Nat) (pol : List Byte) : Model :=
  { id := id, image := image, digest := digest, trec := trainingRecord id.toNat 0 signer (0, 0) (0, 0) 0 (Sha.sha384 pol) 0 0 }

/-- The candidate of a job (R367, R373). -/
def candidateModel (s : State) (t : Training) (id : Word) (image : List Byte) (rest : List Byte) (eBase eCand : Nat) : Model :=
  { id := id, image := image, digest := Sha.digest image, candidate := true, base := t.base, auto := polFlag t.policy 2, report := rest
    trec := trainingRecord id.toNat t.base.toNat (keyIdOf s.hubKey).toNat t.train t.hold (polNat t.policy 0x38 8) (Sha.sha384 t.policy) eBase eCand }

/-- R370: enough held-out records, and few enough errors. -/
def candidatePasses (pol : List Byte) (evaluated eBase eCand : Nat) : Bool :=
  decide (polNat pol 0x18 4 ≤ evaluated) && decide (eCand * 1024 ≤ eBase * (1024 - polNat pol 0x1C 2))

/-- The valid records of a ring at the positions of a protected range, in seq order (R364, R366, R369). -/
def Ring.within (r : Ring) (range : Nat × Nat) : List (List Byte) :=
  (r.recs.filter fun q => decide (range.1 ≤ q.1 ∧ q.1 < range.2) && fieldAt q.2 0 8 != 2 ^ 64 - 1).map (·.2)

/-- The step-1 tensor that a record holds: lines of one group of 32, with their scales (R362). -/
def recordFeatures (b : List Byte) : List QLine :=
  (List.range 168).map fun t => [(fieldAt b (0x1540 + 2 * t) 2, ((b.drop (0x40 + 32 * t)).take 32).map (·.toNat))]

/-- Decided bits of a record under a model that differ from its label bits (R369). A token whose features were not formed is masked (log 115). -/
def recordErrors (img : List Byte) (b : List Byte) : Nat :=
  let fs := recordFeatures b
  let mask := fs.map fun l => l.all fun g => g.2.all (· == 0)
  let qm := fieldAt b 0x12 1 % 16
  let out := learnedTile img mask fs
  ((List.range 672).map fun i =>
    let label := fieldAt b (0x16C0 + i) 1
    let (z, f) := ((out.getD (12 * (i / 48) + i % 48 / 4) []).getD (i % 4) ((0, 0), 0#32))
    if label = 0xFF then 0
    else
      let before := (List.range (i % 48)).countP fun j => fieldAt b (0x16C0 + 48 * (i / 48) + j) 1 != 0xFF
      let z := if qm = 1 then derotate before z else z
      (List.zipWith (fun (l : Int) n => if (decide (l < 0)) != (label.testBit (qm - 1 - n)) then 1 else 0) (demap qm z f) (List.range qm)).sum).sum

/-- Records that whole batches take (R366). -/
def trainedRecords (pol : List Byte) (n : Nat) : Nat := n / max 1 (polNat pol 0x2A 2) * polNat pol 0x2A 2

/-- A candidate's image as a signed object of kind 7, under the hub die's key (R373, R490, R491); it names no counter and this package (log 115). -/
def State.signCandidate (s : State) (image : List Byte) : List Byte × State :=
  let body := padTo16 image
  let msg := body ++ leBytes 4 0x4E474953 ++ [1#8, 7#8, 0xFF#8, 0#8] ++ leBytes 4 0 ++ leBytes 4 body.length ++ leBytes 8 (keyIdOf s.hubKey).toNat
    ++ leBytes 8 s.bindOf
  let (k, s) := s.drawScalar
  (msg ++ ecdsaSign s.part.hubPriv.toNat k msg, s)

/-- CANDIDATE_VALIDATION: a carrier's training job has ended; its candidate is formed, run beside its base over the held-out records, compared and
reported (R366 to R371). -/
def execCandidateValidation (car : CarrierId) (s : State) : Out :=
  .next (match s.toValidate car with
    | none => s
    | some t =>
      let x := s.carrier car
      let recs := x.train.within t.train
      let held := x.hold.within t.hold
      let base := modelBody t.image
      let image := Config.trainImage recs base t.policy
      let trained := trainedRecords t.policy recs.length
      let eBase := (held.map (recordErrors base)).sum
      let eCand := (held.map (recordErrors image)).sum
      let s := s.modCarrier car fun x => { x with job := none }
      if Config.trainNan recs base t.policy then s.trainResult car stValidationFail 0 (resultRest t.base.toNat trained 0 0 0)
      else
        let s := { s with models := s.models + 1#32 }
        let id := 0x80000000#32 ||| s.models
        let rest := resultRest t.base.toNat trained held.length eBase eCand
        if !candidatePasses t.policy held.length eBase eCand then s.trainResult car stValidationFail id.toNat rest
        else if ((s.carrier car).live.map (·.id)) != some t.base then s.trainResult car stModelStale id.toNat rest
        else
          let (image, s) := s.signCandidate image
          let m := candidateModel s t id image rest eBase eCand
          let s := s.trainResult car stOk id.toNat rest
          let x := s.carrier car
          if m.auto && x.rx != .fallback && x.swap.isNone then (s.modCarrier car fun x => { x with cand := none }).startSwap car m
          else s.modCarrier car fun x => { x with cand := some m })

/-! ### Models from the host (R371, R372, R375) -/

/-- A sealed object and its bytes. -/
def State.sealedBytes (s : State) (id : Word) : Option (List Byte) :=
  match s.object id with
  | some o => if o.isSealed then some (s.readPhys o.base o.size) else none
  | none => none

/-- MODEL_LOAD: an image under an operator's signature waits for model.swap (R371, R493). -/
def loadModel : Handler := fun _ f s =>
  let k : CarrierId := Fin.ofNat 4 (f.nat 0 1)
  .need (f.len 8 && f.nat 0 1 < 4 && f.zero 1 3) stMsgInvalid s <|
  .need (s.carrier k).cfg.isSome stCellInvalid s <|
  match s.sealedBytes (BitVec.ofNat 32 (f.nat 4 4)) with
  | none => .deny stObjectUnknown s
  | some b =>
    .need (s.checkSigned 3 b == stOk) stModelInvalid s <|
      let id := s.nextMod
      let key := match sigOf b with | some q => q.keyId.toNat | none => 0
      let m := hostModel id b (Sha.digest b) key (s.carrier k).policy
      let s := { s.acceptSigned b with nextMod := s.nextMod + 1#32 }
      { payload := leBytes 4 id.toNat, state := s.modCarrier k fun x => { x with loaded := some m } }

def execModelLoad (f : Frame) (s : State) : Out := .next (s.row f 0x0A0A loadModel)

/-- MODEL_SWAP: the swap of a waiting model (R371). -/
def swapModel : Handler := fun _ f s =>
  let k : CarrierId := Fin.ofNat 4 (f.nat 0 1)
  let id := BitVec.ofNat 32 (f.nat 4 4)
  let x := s.carrier k
  .need (f.len 8 && f.nat 0 1 < 4 && f.zero 1 3) stMsgInvalid s <|
  .need x.cfg.isSome stCellInvalid s <|
  match x.cand, x.loaded with
  | some m, other =>
    if m.id = id then .ok ((s.modCarrier k fun x => { x with cand := none }).startSwap k m)
    else (match other with
      | some l => if l.id = id then .ok ((s.modCarrier k fun x => { x with loaded := none }).startSwap k l) else .deny stMsgInvalid s
      | none => .deny stMsgInvalid s)
  | none, some l => if l.id = id then .ok ((s.modCarrier k fun x => { x with loaded := none }).startSwap k l) else .deny stMsgInvalid s
  | none, none => .deny stMsgInvalid s

def execModelSwap (f : Frame) (s : State) : Out := .next (s.row f 0x0A0B swapModel)

/-- MODEL_POLICY: a signed policy block, for the next slot boundary (R375). -/
def setPolicy : Handler := fun _ f s =>
  let p := f.payload.take 64
  let k : CarrierId := Fin.ofNat 4 (f.nat 0 1)
  let st := s.checkSigned 4 f.payload
  .need (f.len 192 && policyOk p) stMsgInvalid s <|
  .need (s.carrier k).cfg.isSome stCellInvalid s <|
  .need (st == stOk) st s <|
    let s := (s.acceptSigned f.payload).extend 5 0x06 k.val (Sha.sha384 f.payload)
    .ok (s.modCarrier k fun x => { x with policyNew := some p })

def execModelPolicy (f : Frame) (s : State) : Out := .next (s.row f 0x0A0C setPolicy)

/-- Measure a model into its carrier's register (R500). -/
def State.measureModel (s : State) (k : CarrierId) (m : Model) : State :=
  let ix := m.id.toNat % 2 ^ 16
  (s.extend (6 + k.val) 0x07 ix (beBytes 48 m.digest.toNat)).extend (6 + k.val) 0x08 ix (Sha.sha384 m.trec)

/-- The first slot boundary at or after a device time, and after the running slot. -/
def Carrier.boundaryFrom (x : Carrier) (t : Nat) : Nat :=
  let ix := slotAt x.conf t
  max (x.slotIx + 1) (if slotStart x.conf ix < (t : Int) then ix + 1 else ix)

/-- MODEL_LOAD_COMPLETE: the unused slot holds the model; the boundary is fixed and the model measured (R372). -/
def execModelLoadComplete (car : CarrierId) (s : State) : Out :=
  .next (let x := s.carrier car
    match x.swap with
    | none => s
    | some m =>
      if x.swapIx.isSome || x.guardSlot.isSome then s
      else (s.measureModel car m).modCarrier car fun x => { x with swapIx := some (x.boundaryFrom (s.nowNs + 1000000)) })

end Sys2Proof.Machine
end

