-- ==== Sys2Proof/Machine/Dsp.lean ====
section
/-!
DEFINITION. The radio DSP cores (R321 to R344): bundles with their exposed latencies, addressing, loops and branches, interrupts, faults,
DMA, and integrator kernels. A row of an instruction issues the bundle that holds it: `w` its own slot, `other` the other slot.
-/
namespace Sys2Proof.Machine

/-! ### Registers -/

def Dsp.dr (x : Dsp) (i : Nat) : Word := x.d[i % 16]'(Nat.mod_lt _ (by decide))
def Dsp.ar (x : Dsp) (i : Nat) : BitVec 17 := x.a[i % 8]'(Nat.mod_lt _ (by decide))
def Dsp.or (x : Dsp) (i : Nat) : BitVec 17 := x.o[i % 8]'(Nat.mod_lt _ (by decide))
def Dsp.acc (x : Dsp) (i : Nat) : BitVec 40 := x.ac[i % 4]'(Nat.mod_lt _ (by decide))
def Dsp.ctlReg (x : Dsp) (i : Nat) : Word := x.cr[i % 32]'(Nat.mod_lt _ (by decide))
def Dsp.setCtl (x : Dsp) (i : Nat) (v : Word) : Dsp := { x with cr := x.cr.set (i % 32) v (Nat.mod_lt _ (by decide)) }
def Dsp.setAcc (x : Dsp) (i : Nat) (v : BitVec 40) : Dsp := { x with ac := x.ac.set (i % 4) v (Nat.mod_lt _ (by decide)) }

/-- Bits of a control register that hold (Tables 12-3 and 12-4). -/
def crMask (i : Nat) : Word :=
  if i = 0 then 0x3F#32
  else if i = 26 then 0x1FE00#32
  else if i = 27 then 7#32
  else if i = 1 ∨ i = 4 ∨ i = 25 then 0xFFFFFFFF#32
  else 0x1FFFF#32

/-- ACG: the guard bits of ac0 to ac3 (Table 12-3). -/
def Dsp.acg (x : Dsp) : Word :=
  (x.acc 3).extractLsb' 32 8 ++ (x.acc 2).extractLsb' 32 8 ++ (x.acc 1).extractLsb' 32 8 ++ (x.acc 0).extractLsb' 32 8

def withGuard (a : BitVec 40) (g : Byte) : BitVec 40 := g ++ a.setWidth 32

/-- A write lands. -/
def Dsp.land (x : Dsp) (w : DspPend) : Dsp :=
  match w.dest with
  | .d i => { x with d := x.d.set (i % 16) (w.val.setWidth 32) (Nat.mod_lt _ (by decide)) }
  | .a i => { x with a := x.a.set (i % 8) (w.val.setWidth 17) (Nat.mod_lt _ (by decide)) }
  | .o i => { x with o := x.o.set (i % 8) (w.val.setWidth 17) (Nat.mod_lt _ (by decide)) }
  | .ac i => x.setAcc i (w.val.setWidth 40)
  | .acLow i => x.setAcc i ((x.acc i).extractLsb' 32 8 ++ w.val.setWidth 32)
  | .flags => x.setCtl 0 ((x.ctlReg 0 &&& 0xFFFFFFF0#32) ||| (w.val.setWidth 32 &&& 0xF#32))
  | .cr i =>
    if i = 7 then
      (List.range 4).foldl (fun (x : Dsp) k => x.setAcc k (withGuard (x.acc k) (w.val.extractLsb' (8 * k) 8))) x
    else x.setCtl i (w.val.setWidth 32 &&& crMask i)

/-- One issue cycle passes: writes whose latency ends land, the later-issued one last (R326, R327). -/
def Dsp.cycle (x : Dsp) : Dsp :=
  let ps := x.pend.map fun p => { p with left := p.left - 1 }
  ((ps.filter fun p => p.left == 0).foldl Dsp.land { x with pend := ps.filter fun p => p.left != 0 })

/-- Every pending write completes (R337, R339). -/
def Dsp.drain (x : Dsp) : Dsp :=
  (List.range 4).foldl (fun (x : Dsp) n => (x.pend.filter fun p => p.left == n + 1).foldl Dsp.land x) x |> fun y => { y with pend := [] }

def Dsp.fl (x : Dsp) : Word := x.ctlReg 0
def Dsp.setSat (x : Dsp) (b : Bool) : Dsp := if b then x.setCtl 0 (x.fl ||| 0x10#32) else x
def Dsp.push (x : Dsp) (l : Nat) (dest : DspDest) (v : BitVec 64) (mac : Bool := false) : Dsp :=
  { x with pend := x.pend ++ [{ left := l, dest := dest, val := v, mac := mac }] }
def Dsp.pushInt (x : Dsp) (l : Nat) (dest : DspDest) (v : Int) (mac : Bool := false) : Dsp := x.push l dest (BitVec.ofInt 64 v) mac

/-! ### Encodings (R335) -/

def fOf (w : Word) (lo n : Nat) : Nat := bitsOf w.toNat lo n
def opOf (w : Word) : Nat := fOf w 26 6

/-- A slot A word with a listed opcode whose reserved fields and field values hold (Table 12-7). -/
def legalA (w : Word) : Bool :=
  match opOf w with
  | 0x00 | 0x07 | 0x08 => fOf w 0 26 == 0
  | 0x01 | 0x02 => fOf w 14 2 != 3 && (fOf w 12 2 == 2 || fOf w 0 12 == 0)
  | 0x03 => fOf w 17 4 == 0
  | 0x04 => fOf w 0 8 != 0
  | 0x05 => decide (fOf w 22 4 ≤ 9)
  | 0x06 => fOf w 22 4 == 0
  | 0x09 => fOf w 22 2 == 0 && fOf w 0 19 == 0
  | 0x0A => fOf w 20 6 == 0 && fOf w 0 16 == 0
  | 0x0B => fOf w 16 10 == 0
  | _ => false

/-- A slot B word (Table 12-8, R324, R329, R330). -/
def legalB (w : Word) : Bool :=
  let op := opOf w
  if op = 0 then fOf w 0 26 == 0
  else if 0x10 ≤ op ∧ op ≤ 0x19 then fOf w 0 13 == 0
  else if op = 0x1A then fOf w 0 13 == 0 && fOf w 22 4 == 0
  else if op = 0x1B then fOf w 0 13 == 0 && fOf w 13 1 == 1
  else if op = 0x1D then fOf w 16 2 == 0
  else if op = 0x1E then fOf w 17 5 == 0
  else if op = 0x20 then fOf w 0 14 == 0
  else if op = 0x21 then fOf w 0 14 == 0 && fOf w 16 1 == 0
  else if op = 0x22 then fOf w 0 12 == 0 && decide (fOf w 14 6 ≤ 39) && (fOf w 12 1 == 0 || fOf w 14 6 == 0) && (fOf w 13 1 == 0 || fOf w 20 2 % 2 == 0)
  else if op = 0x23 then fOf w 13 1 == 0 && fOf w 0 12 == 0 && (fOf w 12 1 == 1 || decide (fOf w 14 6 ≤ 8))
  else if op = 0x3F then fOf w 0 16 == 0 && (fOf w 16 1 == 0 || !(fOf w 17 5 == 28 || fOf w 17 5 == 29 || fOf w 17 5 == 30))
  else false

def isBranch (w : Word) : Bool := decide (5 ≤ opOf w ∧ opOf w ≤ 8)

/-- Registers that a word writes (R326). -/
def destsA (w : Word) : List DspDest :=
  let j := fOf w 19 3
  let upd := if fOf w 12 2 = 2 then [] else [DspDest.a j]
  match opOf w with
  | 0x01 => (if fOf w 14 2 = 2 then [DspDest.d (fOf w 22 4 / 2 * 2), .d (fOf w 22 4 / 2 * 2 + 1)] else [.d (fOf w 22 4)]) ++ upd
  | 0x02 => upd
  | 0x03 => if fOf w 25 1 = 0 then [.a (fOf w 22 3)] else [.o (fOf w 22 3)]
  | 0x04 => (List.range 3).map fun i => .cr (3 * fOf w 25 1 + 1 + i)
  | 0x06 => [.cr 31]
  | _ => []

def destsB (w : Word) : List DspDest :=
  let op := opOf w
  if (0x10 ≤ op ∧ op ≤ 0x19) ∨ op = 0x1B ∨ op = 0x1D ∨ op = 0x1E ∨ op = 0x22 then [.d (fOf w 22 4)]
  else if op = 0x1A then [.flags]
  else if op = 0x20 ∨ op = 0x21 then [.ac (2 * fOf w 25 1), .ac (2 * fOf w 25 1 + 1)]
  else if op = 0x23 then [.ac (fOf w 20 2)]
  else if op = 0x3F then (if fOf w 16 1 = 0 then [.d (fOf w 22 4)] else [.cr (fOf w 17 5)])
  else []

/-- A branch stands at the last bundle of a running loop, or in one of the two before it (R333). -/
def Dsp.nearLoopEnd (x : Dsp) : Bool :=
  [1, 4].any fun b => x.ctlReg b != 0#32 &&
    (List.range 3).any fun i => x.pc.toNat + 8 * i == (x.ctlReg (b + 2)).toNat

/-- The bundle is legal (R326, R333 to R335). -/
def Dsp.legal (x : Dsp) (a b : Word) : Bool :=
  legalA a && legalB b && !(destsA a).any (destsB b).contains && (!isBranch a || (x.branch.isNone && !x.nearLoopEnd))

/-! ### Addressing (R331) -/

def accSize (w : Word) : Nat := 2 ^ (fOf w 14 2 + 1)

def Dsp.circBase (x : Dsp) (j : Nat) : Nat := (x.ctlReg (8 + j)).toNat % 2 ^ 17
def Dsp.circLen (x : Dsp) (j : Nat) : Nat := (x.ctlReg (16 + j)).toNat % 2 ^ 17

/-- A modify by Δ. -/
def Dsp.modify (x : Dsp) (j : Nat) (delta : Int) : Int :=
  let a : Int := ((x.ar j).toNat : Nat)
  let b : Int := (x.circBase j : Nat)
  let c := x.circLen j
  if c = 0 then a + delta else b + (a - b + delta) % (c : Int)

/-- Reverse the low n bits. -/
def revBits (n v : Nat) : Nat := (List.range n).foldl (fun r i => r + v / 2 ^ i % 2 * 2 ^ (n - 1 - i)) 0

/-- The bit-reversed update; none when C is not a power of two from 8 to 65,536. -/
def Dsp.bitRev (x : Dsp) (j : Nat) : Option Int :=
  let c := x.circLen j
  let n := c.log2
  if 8 ≤ c ∧ c ≤ 65536 ∧ c = 2 ^ n then
    let off := (((x.ar j).toNat + 2 ^ 17 - x.circBase j) % 2 ^ 17) % c
    let step := ((x.or j).toInt % (c : Int)).toNat
    some (x.circBase j + revBits n ((revBits n off + step) % c) : Nat)
  else none

/-- The effective address of a load or store, and the update of aj; a bit-reversed update that Table 12-6 rules out is a free value. -/
def Dsp.address (x : Dsp) (w : Word) (free : Dword) : Nat × Option Int :=
  let j := fOf w 19 3
  let sz := accSize w
  match fOf w 12 2 with
  | 0 => ((x.ar j).toNat, some (x.modify j (x.or j).toInt))
  | 1 => ((x.ar j).toNat, some (x.modify j (sz : Nat)))
  | 2 => (((((x.ar j).toNat : Nat) : Int) + signExt 12 (fOf w 0 12) * (sz : Nat)) % (2 ^ 17 : Int) |>.toNat, none)
  | _ => ((x.ar j).toNat, some ((x.bitRev j).getD (free.toNat : Nat)))

/-! ### Arithmetic (R328 to R330) -/

def satInt (n : Nat) (v : Int) : Int × Bool :=
  let lo : Int := -(2 ^ (n - 1) : Int)
  let hi : Int := 2 ^ (n - 1) - 1
  if v < lo then (lo, true) else if hi < v then (hi, true) else (v, false)

/-- One ALU operation on n-bit lanes: opcodes 0x10 to 0x19. -/
def aluLane (op n : Nat) (lanes : Bool) (a b : Nat) : Nat × Bool :=
  let sa := signExt n a
  let sb := signExt n b
  let count := b % n
  let out := fun (v : Int) => (v % (2 ^ n : Int)).toNat
  match op with
  | 0x10 => if lanes then (let (v, f) := satInt n (sa + sb); (out v, f)) else (out (sa + sb), false)
  | 0x11 => if lanes then (let (v, f) := satInt n (sa - sb); (out v, f)) else (out (sa - sb), false)
  | 0x12 => (a &&& b, false)
  | 0x13 => (a ||| b, false)
  | 0x14 => (a ^^^ b, false)
  | 0x15 => (a * 2 ^ count % 2 ^ n, false)
  | 0x16 => (a / 2 ^ count, false)
  | 0x17 => (out (sa / (2 ^ count : Int)), false)
  | 0x18 => (out (min sa sb), false)
  | 0x19 => (out (max sa sb), false)
  | _ => (a, false)

/-- The polar f-function of a lane. -/
def pfLane (a b : Nat) : Nat :=
  let sa := signExt 16 a
  let sb := signExt 16 b
  let m := min (min sa.natAbs 32767) (min sb.natAbs 32767)
  let v : Int := if (sa < 0) != (sb < 0) then -(m : Int) else m
  (v % (2 ^ 16 : Int)).toNat

/-- Both lanes of a word. -/
def onLanes (f : Nat → Nat → Nat × Bool) (a b : Word) : Word × Bool :=
  let (l, s) := f (a.toNat % 2 ^ 16) (b.toNat % 2 ^ 16)
  let (h, t) := f (a.toNat / 2 ^ 16) (b.toNat / 2 ^ 16)
  (BitVec.ofNat 32 (h * 2 ^ 16 + l), s || t)

/-- CMP: v, c, n, z (Table 12-4). -/
def cmpFlags (a b : Word) : Nat :=
  let d := a - b
  let v := (a.toInt - b.toInt) != d.toInt
  (if v then 8 else 0) + (if b.toNat ≤ a.toNat then 4 else 0) + (if d.toInt < 0 then 2 else 0) + (if a = b then 1 else 0)

/-- An accumulator as the accumulation chain sees it: the complete result of an earlier CMAC or RMAC2 (R328). -/
def Dsp.chain (x : Dsp) (i : Nat) : Int :=
  match (x.pend.filter fun p => p.mac && p.dest == .ac i).getLast? with
  | some p => (p.val.setWidth 40).toInt
  | none => (x.acc i).toInt

def Dsp.macAdd (x : Dsp) (w : Word) (i : Nat) (v : Int) : Dsp :=
  let start := if fOf w 14 1 = 1 then 0 else x.chain i
  let (r, f) := satInt 40 (if fOf w 15 1 = 1 then start - v else start + v)
  (x.pushInt 3 (.ac i) r true).setSat f

/-- ac shifted right, rounded to nearest even, saturated to n bits. -/
def accShift (a : BitVec 40) (sh n : Nat) : Int × Bool :=
  let v := a.toInt
  let q : Int := (rneDiv v.natAbs (2 ^ sh) : Nat)
  satInt n (if v < 0 then -q else q)

/-- Slot B. `free`: the cycle counter (log 51), and the result of ACCRD with raw and cplx both set, which R329 does not give. -/
def Dsp.slotB (x : Dsp) (core : Nat) (w : Word) (free free2 : Dword) : Dsp :=
  let op := opOf w
  let dd := fOf w 22 4
  let s1 := x.dr (fOf w 18 4)
  let s2 := x.dr (fOf w 14 4)
  let put := fun (x : Dsp) (l : Nat) (v : Word) => x.push l (.d dd) (v.setWidth 64)
  if 0x10 ≤ op ∧ op ≤ 0x19 then
    (if fOf w 13 1 = 1 then (let (v, f) := onLanes (aluLane op 16 true) s1 s2; (put x 1 v).setSat f)
     else put x 1 (BitVec.ofNat 32 (aluLane op 32 false s1.toNat s2.toNat).1))
  else if op = 0x1A then x.push 1 .flags (BitVec.ofNat 64 (cmpFlags s1 s2))
  else if op = 0x1B then put x 1 (onLanes (fun a b => (pfLane a b, false)) s1 s2).1
  else if op = 0x1D then put x 1 (s1 + BitVec.ofInt 32 (signExt 16 (fOf w 0 16)))
  else if op = 0x1E then
    put x 1 (if fOf w 16 1 = 0 then BitVec.ofInt 32 (signExt 16 (fOf w 0 16)) else BitVec.ofNat 32 (fOf w 0 16 * 2 ^ 16 + (x.dr dd).toNat % 2 ^ 16))
  else if op = 0x20 ∨ op = 0x21 then
    let dx := x.dr (fOf w 21 4)
    let dy := x.dr (fOf w 17 4)
    let p := fOf w 25 1
    let x := { x with x := dx, y := dy }
    let xr := signExt 16 dx.toNat
    let xi := signExt 16 (dx.toNat / 2 ^ 16)
    let yr := signExt 16 dy.toNat
    let yi := signExt 16 (dy.toNat / 2 ^ 16)
    let yi := if op = 0x20 ∧ fOf w 16 1 = 1 then -yi else yi
    (if op = 0x20 then (x.macAdd w (2 * p) (xr * yr - xi * yi)).macAdd w (2 * p + 1) (xr * yi + xi * yr)
     else (x.macAdd w (2 * p) (xr * yr)).macAdd w (2 * p + 1) (xi * yi))
  else if op = 0x22 then
    let ac := fOf w 20 2
    let sh := fOf w 14 6
    (match fOf w 12 1, fOf w 13 1 with
      | 1, 1 => put x 2 (free2.setWidth 32)
      | 1, _ => put x 2 ((x.acc ac).setWidth 32)
      | _, 0 => (let (v, f) := accShift (x.acc ac) sh 32; (put x 2 (BitVec.ofInt 32 v)).setSat f)
      | _, _ =>
        let (re, f) := accShift (x.acc ac) sh 16
        let (im, g) := accShift (x.acc (ac + 1)) sh 16
        (put x 2 (BitVec.ofInt 16 im ++ BitVec.ofInt 16 re)).setSat (f || g))
  else if op = 0x23 then
    let s := x.dr (fOf w 22 4)
    let ac := fOf w 20 2
    (if fOf w 12 1 = 1 then x.push 2 (.acLow ac) (s.setWidth 64) else x.pushInt 2 (.ac ac) (s.toInt * 2 ^ fOf w 14 6))
  else if op = 0x3F then
    let n := fOf w 17 5
    (if fOf w 16 1 = 1 then (let y := x.push 2 (.cr n) ((x.dr dd).setWidth 64); if n = 0 then { y with shadow := 3 } else y)
     else
      let v : Word := if n = 7 then x.acg else if n = 28 then x.ipend.setWidth 32 else if n = 29 then free.setWidth 32
        else if n = 30 then BitVec.ofNat 32 core else x.ctlReg n
      let x := if n = 29 then { x with cyc := v } else x
      put x 1 v)
  else x

/-! ### Slot A -/

def condHolds (c : Nat) (fl : Word) : Bool :=
  let z := fl.getLsbD 0
  let n := fl.getLsbD 1
  let cy := fl.getLsbD 2
  match c with
  | 0 => true | 1 => z | 2 => !z | 3 => n | 4 => !n | 5 => cy | 6 => !cy | 7 => fl.getLsbD 3 | 8 => z || n | _ => !z && !n

/-- What a bundle comes to: a fault with its cause, a hold at issue, or the core after it, the address that follows it, a code that SIG
posts, and a DMA channel to start. -/
inductive DspOut where
  | fault (cause : Nat)
  | hold
  | go (x : Dsp) (sig : Option Half)

/-- The descriptor of a DMA instruction keeps Table 12-12. -/
def dspDescOk (b : List Byte) : Bool :=
  let l := fieldAt b 0 4
  let c := fieldAt b 4 1
  let n := fieldAt b 5 3
  l < 2 ^ 17 && l % 8 == 0 && c / 32 == 0 && !c.testBit 3 && n % 8 == 0 && n ≤ 131072 && decide (l + n ≤ 2 ^ 17) && fieldAt b 8 8 % 8 == 0

def descWindow (b : List Byte) : Nat := fieldAt b 4 1 % 8
def descOut (b : List Byte) : Bool := (fieldAt b 4 1).testBit 4
def descBytes (b : List Byte) : Nat := fieldAt b 5 3
def descOffset (b : List Byte) : Nat := fieldAt b 8 8

def Dsp.chan (x : Dsp) (h : Nat) : DspChan := x.chans[h % 4]'(Nat.mod_lt _ (by decide))
def Dsp.setChan (x : Dsp) (h : Nat) (c : DspChan) : Dsp := { x with chans := x.chans.set (h % 4) c (Nat.mod_lt _ (by decide)) }

/-- Slot A after the checks; `upper`: a free value for the bits that a 2-byte load does not define. -/
def Dsp.slotA (x : Dsp) (w : Word) (upper free : Dword) : Dsp :=
  let dd := fOf w 22 4
  let off := signExt 22 (fOf w 0 22)
  let target : BitVec 17 := BitVec.ofInt 17 ((x.pc.toNat : Int) + 8 * off)
  match opOf w with
  | 0x01 =>
    let (ea, up) := x.address w free
    let sz := accSize w
    let v := leNat (x.mem.slice ea sz)
    let y := if sz = 8 then (x.push 4 (.d (dd / 2 * 2)) (BitVec.ofNat 64 (v % 2 ^ 32))).push 4 (.d (dd / 2 * 2 + 1)) (BitVec.ofNat 64 (v / 2 ^ 32))
      else if sz = 4 then x.push 4 (.d dd) (BitVec.ofNat 64 v)
      else x.push 4 (.d dd) (BitVec.ofNat 64 (upper.toNat % 2 ^ 16 * 2 ^ 16 + v))
    match up with
    | some a => y.pushInt 1 (.a (fOf w 19 3)) a
    | none => y
  | 0x02 =>
    let (ea, up) := x.address w free
    let sz := accSize w
    let v := if sz = 8 then (x.dr (dd / 2 * 2)).toNat + (x.dr (dd / 2 * 2 + 1)).toNat * 2 ^ 32 else (x.dr dd).toNat
    let y := { x with mem := x.mem.splice ea (leBytes sz v) }
    match up with
    | some a => y.pushInt 1 (.a (fOf w 19 3)) a
    | none => y
  | 0x03 =>
    let j := fOf w 22 3
    let isO := fOf w 25 1 = 1
    let old : Int := if isO then (x.or j).toInt else ((x.ar j).toNat : Nat)
    let v : Int := if fOf w 21 1 = 1 then old + signExt 17 (fOf w 0 17) else (fOf w 0 17 : Nat)
    x.pushInt 1 (if isO then .o j else .a j) v
  | 0x04 =>
    let b := 3 * fOf w 25 1 + 1
    let count := if fOf w 24 1 = 1 then x.dr (fOf w 20 4) else BitVec.ofNat 32 (fOf w 8 12)
    let ls := x.pc + 8#17
    ((x.setCtl b count).setCtl (b + 1) (ls.setWidth 32)).setCtl (b + 2) ((ls + BitVec.ofNat 17 (8 * (fOf w 0 8 - 1))).setWidth 32)
  | 0x05 => { x with branch := some { left := 3, target := target, taken := condHolds (fOf w 22 4) x.fl, rti := false } }
  | 0x06 => { x.setCtl 31 ((x.pc + 24#17).setWidth 32) with branch := some { left := 3, target := target, taken := true, rti := false } }
  | 0x07 => { x with branch := some { left := 3, target := (x.ctlReg 31).setWidth 17, taken := true, rti := false } }
  | 0x08 => { x with branch := some { left := 3, target := 0#17, taken := true, rti := true } }
  | 0x09 =>
    let h := fOf w 24 2
    let b := x.mem.slice (x.ar (fOf w 19 3)).toNat 16
    if descBytes b = 0 then { x.setChan h { run := none, done := true } with ipend := x.ipend ||| 2#3 }
    else x.setChan h { x.chan h with run := some b }
  | 0x0A => { x with chans := vmapIdx x.chans fun i c => if (fOf w 16 4).testBit i then { c with done := false } else c }
  | _ => x

/-- Slot A's own faults: a misaligned access, a DMA outside its window (R331, R341). -/
def Dsp.faultA (x : Dsp) (winOk : List Byte → Bool) (w : Word) : Option Nat :=
  match opOf w with
  | 0x01 | 0x02 => if (x.address w 0#64).1 % accSize w = 0 then none else some 2
  | 0x09 =>
    let b := x.mem.slice (x.ar (fOf w 19 3)).toNat 16
    if (x.chan (fOf w 24 2)).run.isSome then none
    else if dspDescOk b && (descBytes b = 0 || winOk b) then none else some 3
  | _ => none

/-- Slot A holds the bundle at issue: a DMA on a busy channel, a WAIT for an event that has not come (R335, R341). -/
def Dsp.holdA (x : Dsp) (w : Word) : Bool :=
  match opOf w with
  | 0x09 => (x.chan (fOf w 24 2)).run.isSome
  | 0x0A => (List.range 4).any fun i => (fOf w 16 4).testBit i && !(x.chan i).done
  | _ => false

/-- The end of a loop body: back to LS while LC is above 1 (R333). -/
def Dsp.loopBack (x : Dsp) (b : Nat) : Option Dsp :=
  if (x.ctlReg (b + 2)).toNat = x.pc.toNat ∧ 1 < (x.ctlReg b).toNat then
    some { x.setCtl b (x.ctlReg b - 1#32) with pc := (x.ctlReg (b + 1)).setWidth 17 }
  else none

/-- The next bundle's address without a branch: loops, the skip of an empty body, the next bundle. -/
def Dsp.seqNext (x : Dsp) (a : Word) : Dsp :=
  if opOf a = 0x04 ∧ x.ctlReg (3 * fOf a 25 1 + 1) = 0#32 then { x with pc := (x.ctlReg (3 * fOf a 25 1 + 3)).setWidth 17 + 8#17 }
  else match x.loopBack 4 with
    | some y => y
    | none => match x.loopBack 1 with
      | some y => y
      | none => { x with pc := x.pc + 8#17 }

/-- Step the program counter past an issued bundle (R334). -/
def Dsp.advance (x : Dsp) (a : Word) : Dsp :=
  let x := { x with shadow := x.shadow - 1 }
  match x.branch with
  | none => x.seqNext a
  | some b =>
    if b.left ≤ 1 then
      let x := { x with branch := none }
      if b.rti then { x.setCtl 0 (x.ctlReg 25 &&& crMask 0) with pc := (x.ctlReg 24).setWidth 17 }
      else if b.taken then { x with pc := b.target }
      else x.seqNext a
    else ({ x with branch := some { b with left := b.left - 1 } } : Dsp).seqNext a

/-- Issue a bundle (R325, R326). -/
def Dsp.issue (x : Dsp) (core : Nat) (winOk : List Byte → Bool) (a b : Word) (f0 f1 f2 f3 : Dword) : DspOut :=
  let y := x.cycle
  if !y.legal a b then .fault 1
  else match y.faultA winOk a with
    | some c => .fault c
    | none =>
      if y.holdA a then .hold
      else
        -- both slots read in the issue cycle: slot B reads registers that slot A's immediate effects do not touch
        let z := (y.slotB core b f0 f3)
        .go ((z.slotA a f1 f2).advance a) (if opOf a = 0x0B then some (BitVec.ofNat 16 (fOf a 0 16)) else none)

/-! ### Cores of the block -/

def State.dsp (s : State) (d : DspId) : Dsp := s.dsps.get d
def State.setDsp (s : State) (d : DspId) (x : Dsp) : State := { s with dsps := s.dsps.set d x }
def State.modDsp (s : State) (d : DspId) (f : Dsp → Dsp) : State := s.setDsp d (f (s.dsp d))

def isOpenDsp (d : DspId) : Bool := decide (12 ≤ d.val)
def State.kernelOf (s : State) (d : DspId) : Option Kernel := s.kernels.find? fun k => k.cores.contains d
def Dsp.runs (x : Dsp) : Bool := x.ctl.getLsbD 31 && !x.halted && !x.stopping

/-- Bytes of a grid ring window: both ring slots (R248, R343; their layout: log 52). -/
def State.ringBytes (s : State) (k : CarrierId) : Nat := 2 * ringSlot (s.carrier k).conf

def State.windowBytes (s : State) (w : Window) : Nat :=
  match w with
  | .scratch n _ => n
  | .ring k => s.ringBytes k

/-- A transfer stays inside a window that the core is granted, and writes no ring; radio cores' windows are the firmware's own. -/
def State.winOk (s : State) (d : DspId) (b : List Byte) : Bool :=
  if !isOpenDsp d then true
  else match (s.kernelOf d).bind fun k => k.windows[descWindow b]? with
    | none => false
    | some w => decide (descOffset b + descBytes b ≤ s.windowBytes w) && (match w with | .ring _ => !descOut b | _ => true)

/-- dsp.event. -/
def State.dspEvent (s : State) (d : DspId) (cause : Nat) (st : Half) (pc code : Nat) : State :=
  let id := match s.kernelOf d with | some k => k.id.toNat | none => 0
  s.notifyT1 0x0A13 st (leBytes 4 id ++ leBytes 1 d.val ++ leBytes 1 cause ++ leBytes 2 st.toNat ++ leBytes 4 pc ++ leBytes 2 code ++ [0#8, 0#8])

/-- PDUs of a carrier that a reloaded core may have held: each is hit or not by a free bit (log 2). -/
def hitPdus (kinds : List Nat) (bits : List Dword) (ps : List Pdu) : List Pdu :=
  ps.mapIdx fun i p => if kinds.contains p.typ && !p.decided && (bits.getD i 0#64).getLsbD 0 then p.settle stDeadlineMiss else p

/-- The PDUs whose work a reloaded radio core held are reported with ST_DEADLINE_MISS (R339). -/
def State.dropDspWork (s : State) (k : CarrierId) : State :=
  let hit := fun (s : State) (up : Bool) (q : Sched) =>
    let (bits, s) := s.drawMany q.pdus.length
    let ps := hitPdus (if up then [2, 3, 4] else [2, 3]) bits q.pdus
    let n := ps.countP (fun p => p.status == stDeadlineMiss) - q.pdus.countP fun p => p.status == stDeadlineMiss
    let s : State := s.modCarrier k fun x => { x with health := (List.range n).foldl (fun h _ => h.miss) x.health }
    if up then (s.modUl k q.slot fun q => { q with pdus := ps }).flushUl k q.slot else s.modDl k q.slot fun q => { q with pdus := ps }
  let s := ((s.carrier k).ul.filter fun q => q.ready && !q.late && !q.closed).foldl (fun (s : State) q => hit s true q) s
  ((s.carrier k).dl.filter fun q => q.ready && !q.late && !q.done && !q.ended).foldl (fun (s : State) q => hit s false q) s

/-- Registers as a core starts (R323, R340). -/
def Dsp.start (x : Dsp) : Dsp := { mem := x.mem, ctl := x.ctl, halted := false }

/-- A fault (R339): the core halts with its pending writes complete; a radio core is reloaded and its work is lost, an open core stays
halted. The kind byte of the health event is free, since Table 19-7 names none (log 2). -/
def State.dspFault (s : State) (d : DspId) (cause : Nat) : State :=
  let y := (s.dsp d).cycle.drain
  let y := { y with halted := true, cause := BitVec.ofNat 4 cause, fault := y.pc, held := none, branch := none }
  let s := s.setDsp d y
  if isOpenDsp d then s.dspEvent d cause stDspFault y.pc.toNat 0
  else
    let k : CarrierId := Fin.ofNat 4 (d.val / 3)
    let (v, s) := s.draw
    let s := s.healthEvent (v.toNat % 256) stDspFault (leBytes 1 d.val)
    let s := s.modCarrier k fun x => { x with health := { x.health with dspReloads := satInc32 x.health.dspReloads } }
    (s.modDsp d Dsp.start).dropDspWork k

/-- A bundle comes to issue on a running core. -/
def State.dspBundle (s : State) (d : DspId) (a b : Word) : State :=
  let x := s.dsp d
  let f := fun i => Config.freeWord (s.freeCtr + i)
  match x.issue d.val (s.winOk d) a b (f 0) (f 1) (f 2) (f 3) with
  | .fault c => s.dspFault d c
  | .hold => s.setDsp d { x with held := some (a, b) }
  | .go y sig =>
    let s := { s.setDsp d { y with held := none } with freeCtr := s.freeCtr + 4 }
    match sig with
    | some c => if isOpenDsp d then s.dspEvent d 0 stOk x.pc.toNat c.toNat else s
    | none => s

/-- An instruction row: the word carries the row's opcode, or one that no row has (log 41). -/
def dspRowA (op : Nat) (w : Word) : Bool := opOf w == op || decide (0x0C ≤ opOf w)
def knownB (op : Nat) : Bool := op == 0 || decide (0x10 ≤ op ∧ op ≤ 0x1B) || op == 0x1D || op == 0x1E || decide (0x20 ≤ op ∧ op ≤ 0x23) || op == 0x3F
def dspRowB (op : Nat) (w : Word) : Bool := opOf w == op || !knownB (opOf w)

def State.dspA (s : State) (d : DspId) (op : Nat) (w other : Word) : State :=
  if (s.dsp d).runs && (s.dsp d).held.isNone && dspRowA op w then s.dspBundle d w other else s
def State.dspB (s : State) (d : DspId) (op : Nat) (w other : Word) : State :=
  if (s.dsp d).runs && (s.dsp d).held.isNone && dspRowB op w then s.dspBundle d other w else s

def execDspNop (d : DspId) (w other : Word) (s : State) : Out := .next (s.dspA d 0x00 w other)
def execDspLd (d : DspId) (w other : Word) (s : State) : Out := .next (s.dspA d 0x01 w other)
def execDspSt (d : DspId) (w other : Word) (s : State) : Out := .next (s.dspA d 0x02 w other)
def execDspAmov (d : DspId) (w other : Word) (s : State) : Out := .next (s.dspA d 0x03 w other)
def execDspLoop (d : DspId) (w other : Word) (s : State) : Out := .next (s.dspA d 0x04 w other)
def execDspBr (d : DspId) (w other : Word) (s : State) : Out := .next (s.dspA d 0x05 w other)
def execDspCall (d : DspId) (w other : Word) (s : State) : Out := .next (s.dspA d 0x06 w other)
def execDspRet (d : DspId) (w other : Word) (s : State) : Out := .next (s.dspA d 0x07 w other)
def execDspRti (d : DspId) (w other : Word) (s : State) : Out := .next (s.dspA d 0x08 w other)
def execDspDma (d : DspId) (w other : Word) (s : State) : Out := .next (s.dspA d 0x09 w other)
def execDspWait (d : DspId) (w other : Word) (s : State) : Out := .next (s.dspA d 0x0A w other)
def execDspSig (d : DspId) (w other : Word) (s : State) : Out := .next (s.dspA d 0x0B w other)
def execDspAdd (d : DspId) (w other : Word) (s : State) : Out := .next (s.dspB d 0x10 w other)
def execDspSub (d : DspId) (w other : Word) (s : State) : Out := .next (s.dspB d 0x11 w other)
def execDspAnd (d : DspId) (w other : Word) (s : State) : Out := .next (s.dspB d 0x12 w other)
def execDspOr (d : DspId) (w other : Word) (s : State) : Out := .next (s.dspB d 0x13 w other)
def execDspXor (d : DspId) (w other : Word) (s : State) : Out := .next (s.dspB d 0x14 w other)
def execDspShl (d : DspId) (w other : Word) (s : State) : Out := .next (s.dspB d 0x15 w other)
def execDspShr (d : DspId) (w other : Word) (s : State) : Out := .next (s.dspB d 0x16 w other)
def execDspSra (d : DspId) (w other : Word) (s : State) : Out := .next (s.dspB d 0x17 w other)
def execDspMin (d : DspId) (w other : Word) (s : State) : Out := .next (s.dspB d 0x18 w other)
def execDspMax (d : DspId) (w other : Word) (s : State) : Out := .next (s.dspB d 0x19 w other)
def execDspCmp (d : DspId) (w other : Word) (s : State) : Out := .next (s.dspB d 0x1A w other)
def execDspPf (d : DspId) (w other : Word) (s : State) : Out := .next (s.dspB d 0x1B w other)
def execDspAddi (d : DspId) (w other : Word) (s : State) : Out := .next (s.dspB d 0x1D w other)
def execDspMovi (d : DspId) (w other : Word) (s : State) : Out := .next (s.dspB d 0x1E w other)
def execDspCmac (d : DspId) (w other : Word) (s : State) : Out := .next (s.dspB d 0x20 w other)
def execDspRmac2 (d : DspId) (w other : Word) (s : State) : Out := .next (s.dspB d 0x21 w other)
def execDspAccrd (d : DspId) (w other : Word) (s : State) : Out := .next (s.dspB d 0x22 w other)
def execDspAccwr (d : DspId) (w other : Word) (s : State) : Out := .next (s.dspB d 0x23 w other)
def execDspMovc (d : DspId) (w other : Word) (s : State) : Out := .next (s.dspB d 0x3F w other)

/-! ### Interrupts, faults, DMA, control -/

/-- The cause that a core takes now: the lowest pending and enabled one, at a boundary where R336 allows it. -/
def Dsp.takes (x : Dsp) : Option Nat :=
  if x.fl.getLsbD 5 && x.branch.isNone && x.shadow == 0 then (List.range 3).find? fun i => x.ipend.getLsbD i && (x.ctlReg 27).getLsbD i else none

/-- Interrupt entry (R337); the pending bit is taken with the cause (DEDUCED, log 53). -/
def Dsp.enter (x : Dsp) (cause : Nat) : Dsp :=
  let x := x.drain
  let x := (x.setCtl 24 (x.pc.setWidth 32)).setCtl 25 x.fl
  let x := x.setCtl 0 (x.fl &&& 0xFFFFFFDF#32)
  { x with ipend := x.ipend &&& ~~~(1#3 <<< cause), held := none, pc := (x.ctlReg 26).setWidth 17 + BitVec.ofNat 17 (64 * cause) }

/-- INTERRUPT_ENTRY: a mailbox message or a symbol tick is raised with the entry that takes it, a DMA completion stays pending from
DSP_DMA_COMPLETE (R336, R337). -/
def execInterruptEntry (d : DspId) (cause : Fin 3) (s : State) : Out :=
  .next (let x := s.dsp d
    let x := if cause.val = 1 then x else { x with ipend := x.ipend ||| (1#3 <<< cause.val) }
    -- the writes that land before the boundary are those of the bundles that have issued
    if x.runs && x.cycle.takes == some cause.val then s.setDsp d (x.enter cause.val) else s)

/-- DSP_FAULT: a bundle that faults comes to issue (R339). -/
def execDspFault (d : DspId) (slotA slotB : Word) (s : State) : Out :=
  .next (let x := s.dsp d
    if !x.runs || x.held.isSome then s
    else match x.issue d.val (s.winOk d) slotA slotB 0#64 0#64 0#64 0#64 with
      | .fault c => s.dspFault d c
      | _ => s)

/-- WATCHDOG: the span passes without SIG (R338). -/
def execWatchdog (d : DspId) (s : State) : Out :=
  .next (let x := s.dsp d
    if x.runs && bitsOf x.ctl.toNat 0 24 != 0 then s.dspFault d 4 else s)

def State.setWindow (s : State) (id : Word) (n : Nat) (w : Window) : State :=
  { s with kernels := s.kernels.map fun k => if k.id == id then { k with windows := k.windows.mapIdx fun i v => if i = n then w else v } else k }

/-- Bytes of a window; those of a radio core's windows are free (log 52). -/
def State.windowRead (s : State) (d : DspId) (b : List Byte) : List Byte × State :=
  match (s.kernelOf d).bind fun k => k.windows[descWindow b]? with
  | some (.scratch _ m) => (m.slice (descOffset b) (descBytes b), s)
  | some (.ring k) => (s.readPhys ((s.ringAt k 0).base + descOffset b) (descBytes b), s)
  | none => s.drawBytes (descBytes b)

def State.windowWrite (s : State) (d : DspId) (b : List Byte) (v : List Byte) : State :=
  match s.kernelOf d with
  | some k => (match k.windows[descWindow b]? with
    | some (.scratch n m) => s.setWindow k.id (descWindow b) (.scratch n (m.splice (descOffset b) v))
    | _ => s)
  | none => s

/-- Zero a core's local memory (R344). -/
def Dsp.scrub (x : Dsp) : Dsp := { x with mem := [] }

/-- A core that stops once its transfers have ended (Table 12-14). -/
def Dsp.settleStop (x : Dsp) : Dsp :=
  if x.stopping && x.chans.toList.all (fun c => c.run.isNone) then
    let y := x.drain.scrub
    { y with halted := true, stopping := false, held := none, branch := none }
  else x

/-- Zero the scratch windows of a kernel (R344). -/
def State.scrubKernel (s : State) (k : Kernel) : State :=
  { s with kernels := s.kernels.map fun q => if q.id == k.id then
      { q with windows := q.windows.map fun w => match w with | .scratch n _ => .scratch n [] | w => w } else q }

/-- DSP_DMA_COMPLETE: the transfer's bytes move, the event is set, cause 1 raised, and a bundle that waited issues (R341). What a core that
is stopping still moves into scratch is scrubbed too (R344, Table 12-14). -/
def execDspDmaComplete (d : DspId) (ch : Fin 4) (s : State) : Out :=
  .next (let x := s.dsp d
    match (x.chan ch.val).run with
    | none => s
    | some b =>
      let l := fieldAt b 0 4 % 2 ^ 17
      let s := if descOut b then s.windowWrite d b (x.mem.slice l (descBytes b))
        else (let (v, s) := s.windowRead d b; s.modDsp d fun x => { x with mem := x.mem.splice l v })
      let s := s.modDsp d fun x => ({ x.setChan ch.val { run := none, done := true } with ipend := x.ipend ||| 2#3 } : Dsp).settleStop
      let s := if x.stopping then (match s.kernelOf d with | some k => s.scrubKernel k | none => s) else s
      let x := s.dsp d
      match x.held with
      | some (a, c) => if x.runs then s.dspBundle d a c else s
      | none => s)

/-- DS_CTL is written (R338, R340). -/
def Dsp.writeCtl (x : Dsp) (v : Word) : Dsp :=
  let v := v &&& 0xE0FFFFFF#32
  if v.getLsbD 31 && !x.ctl.getLsbD 31 then { x with ctl := v }.start
  else if !v.getLsbD 31 && x.ctl.getLsbD 31 then { x.drain with ctl := v, halted := true, held := none, branch := none }
  else { x with ctl := v }

def execDsCtl (d : DspId) (v : Word) (s : State) : Out := .next (s.modDsp d fun x => x.writeCtl v)

/-- DS_STAT (Table 12-11). -/
def Dsp.stat (x : Dsp) : Word := BitVec.ofNat 32 ((if x.halted then 2 ^ 31 else 0) + x.cause.toNat * 2 ^ 27 + x.fault.toNat)

/-- A symbol tick of a carrier raises cause 2 on the cores that name it (R336). -/
def State.dspTick (s : State) (k : CarrierId) : State :=
  { s with dsps := vmap s.dsps fun (x : Dsp) => if x.runs && bitsOf x.ctl.toNat 29 2 == k.val then { x with ipend := x.ipend ||| 4#3 } else x }

/-! ### Kernels (R342 to R344) -/

/-- A window descriptor of an image. -/
def windowOf (b : List Byte) : Option Window :=
  let kind := fieldAt b 0 1
  let res := fieldAt b 1 3
  let n := fieldAt b 4 4
  if fieldAt b 8 8 ≠ 0 then none
  else if kind = 0 ∧ res = 0 then some (.scratch n [])
  else if kind = 1 ∧ res < 4 ∧ n = 0 then some (.ring (Fin.ofNat 4 res))
  else none

def scratchTotal (ws : List Window) : Nat := ws.foldl (fun n w => match w with | .scratch m _ => n + m | _ => n) 0

def imageWindows (b : List Byte) : List (Option Window) := (List.range (fieldAt b 7 1)).map fun i => windowOf ((b.drop (0x20 + 16 * i)).take 16)

def roundUp16 (n : Nat) : Nat := (n + 15) / 16 * 16

/-- The header of an image of `n` bytes before its block keeps Table 12-13 and R342. -/
def kernelOk (b : List Byte) (n freeCores : Nat) : Bool :=
  let f := fieldAt b
  let text := f 8 4
  let da := f 0x0C 4
  let dn := f 0x10 4
  f 0 4 == 0x5053444B && f 4 2 == 1 && decide (1 ≤ f 6 1 ∧ f 6 1 ≤ min 4 freeCores) && f 7 1 ≤ 8 && text % 8 == 0 && da % 8 == 0 && f 0x18 8 == 0
    && (imageWindows b).all (·.isSome) && n == roundUp16 (0x20 + 16 * f 7 1 + text + dn) && decide (text ≤ 2 ^ 17) && decide (da + dn ≤ 2 ^ 17)
    && (dn == 0 || decide (text ≤ da)) && decide (scratchTotal ((imageWindows b).filterMap id) ≤ 0x400000)

def State.freeDsps (s : State) : List DspId := (List.finRange 16).filter fun d => isOpenDsp d && (s.kernelOf d).isNone

/-- DSP_LOAD (R342). -/
def loadKernel : Handler := fun _ f s =>
  .need (f.len 4) stMsgInvalid s <|
  match s.sealedBytes (BitVec.ofNat 32 (f.nat 0 4)) with
  | none => .deny stObjectUnknown s
  | some b =>
    let st := s.checkSigned 5 b
    let ws := (imageWindows b).filterMap id
    let used := s.kernels.foldl (fun n k => n + scratchTotal k.windows) 0
    let ctr := match sigOf b with | some q => (if q.counter < 64 then s.security.counter q.counter else 0) | none => 0
    .need (st == stOk) st s <|
    .need (kernelOk b (b.length - 128) s.freeDsps.length) stKernelInvalid s <|
    .need (decide (ctr ≤ fieldAt b 0x14 4)) stRollback s <|
    .need (decide (used + scratchTotal ws ≤ 0x400000)) stCfgBusy s <|
      let cores := s.freeDsps.take (fieldAt b 6 1)
      let base := 0x20 + 16 * fieldAt b 7 1
      let text := (b.drop base).take (fieldAt b 8 4)
      let data := (b.drop (base + fieldAt b 8 4)).take (fieldAt b 0x10 4)
      let mem := (Cells.ofList 0 text).splice (fieldAt b 0x0C 4) data
      let id := s.nextKern
      let s := (s.acceptSigned b).extend 10 0x09 (id.toNat % 2 ^ 16) (Sha.sha384 b)
      let s := cores.foldl (fun (s : State) d => s.setDsp d { mem := mem, ctl := (s.dsp d).ctl &&& 0x7FFFFFFF#32 }) s
      let s := { s with kernels := s.kernels ++ [{ id := id, cores := cores, windows := ws }], nextKern := id + 1#32 }
      { payload := leBytes 4 id.toNat ++ leBytes 2 (cores.foldl (fun m d => m + 2 ^ d.val) 0), state := s }

def execDspLoad (f : Frame) (s : State) : Out := .next (s.row f 0x0A0E loadKernel)

/-- The kernel that a request names. -/
def withKernel (g : Kernel → State → State) : Handler := fun _ f s =>
  .need (f.len 4) stMsgInvalid s <|
  match s.kernels.find? fun k => k.id.toNat == f.nat 0 4 with
  | none => .deny stMsgInvalid s
  | some k => .ok (g k s)

/-- Set run: a halted core starts from its entry (R339, R340, R342). -/
def startKernel (k : Kernel) (s : State) : State :=
  k.cores.foldl (fun (s : State) d => s.modDsp d fun x => if x.runs then x else { x with ctl := x.ctl ||| 0x80000000#32 }.start) s

/-- Clear run and scrub; a running transfer completes first (R344, Table 12-14). -/
def stopKernel (k : Kernel) (s : State) : State :=
  (k.cores.foldl (fun (s : State) d => s.modDsp d fun x =>
    ({ x with ctl := x.ctl &&& 0x7FFFFFFF#32, stopping := true } : Dsp).settleStop) s).scrubKernel k

def unloadKernel (k : Kernel) (s : State) : State :=
  let s := k.cores.foldl (fun (s : State) d => s.setDsp d {}) s
  { s with kernels := s.kernels.filter fun q => q.id != k.id }

def execDspStart (f : Frame) (s : State) : Out := .next (s.row f 0x0A0F (withKernel startKernel))
def execDspStop (f : Frame) (s : State) : Out := .next (s.row f 0x0A10 (withKernel stopKernel))
def execDspUnload (f : Frame) (s : State) : Out := .next (s.row f 0x0A11 (withKernel unloadKernel))

/-- Ranges written of an object, merged (R410). -/
def Obj.mark (o : Obj) (a n : Nat) : Obj := { o with written := o.written ++ [(a, n)] }

/-- DSP_READ: scratch bytes go to the start of an unsealed object (R343). -/
def readKernel : Handler := fun _ f s =>
  let off := f.nat 8 8
  let n := f.nat 0x10 4
  .need (f.len 24 && f.zero 5 3) stMsgInvalid s <|
  match s.kernels.find? fun k => k.id.toNat == f.nat 0 4 with
  | none => .deny stMsgInvalid s
  | some k =>
    match k.windows[f.nat 4 1]? with
    | some (.scratch size m) =>
      .need (decide (off + n ≤ size)) stMsgInvalid s <|
      (match s.object (BitVec.ofNat 32 (f.nat 0x14 4)) with
        | none => .deny stObjectUnknown s
        | some o =>
          .need (!o.isSealed) stObjectUnknown s <|
          .need (decide (n ≤ o.size)) stMsgInvalid s <|
            let s := s.writePhys o.base (m.slice off n)
            .ok { s with host := { s.host with objects := s.host.objects.map fun q => if q.id == o.id then q.mark 0 n else q } })
    | _ => .deny stMsgInvalid s

def execDspRead (f : Frame) (s : State) : Out := .next (s.row f 0x0A12 readKernel)

end Sys2Proof.Machine
end

