-- ==== Sys2Proof/Machine/Slots.lean ====
section
/-!
DEFINITION. The slot boundary of a carrier (R291) and what waits for it: lift cores (R34, R35, R247), removal (R415, R475), registers and
configuration (R308, R415), policy and rings (R375), retired slots (R472), swaps (R372, R514), DPD sets and mutes (R305, R307).
-/
namespace Sys2Proof.Machine

/-! ### Load and lift cores (R247) -/

/-- The load of a slot: PRB count × layers over its PUSCH PDUs that are processed. -/
def slotLoad (q : Option Sched) : Nat :=
  match q with
  | some q => if q.ready && !q.late then (q.pdus.filter fun p => p.typ == 1 && p.status != stPduInvalid).foldl (fun n p => n + p.nat 8 2 * p.nat 0x0B 1) 0 else 0
  | none => 0

/-- A core that a carrier leaves. -/
def State.leaveCore (s : State) (k : CarrierId) (c : CoreId) : State :=
  if (s.core c).owner == .carrier k then s.setCore c { s.core c with owner := .none, ctx := {}, stopped := false } else s

/-- Claim both lift cores, or release both (R34, R247). -/
def State.setLift (s : State) (k : CarrierId) (want : Bool) : State :=
  let s := s.modCarrier k fun x => { x with held := want }
  if want then (s.carrier k).lift.foldl (fun s c => s.claimCore c) s
  else (s.carrier k).lift.foldl (fun s c => s.leaveCore k c) s

/-! ### Removal (R415, R475, Table 14-4) -/

/-- A carrier ends: cores, paths, sets, rings, slots and candidates are released, its frames retired, its training job struck. -/
def State.endCarrier (s : State) (k : CarrierId) : State :=
  let x := s.carrier k
  let s := match s.trainingJob k with
    | some j => s.strikeJob j.id stJobKilled
    | none => s
  let s := (x.floor ++ x.lift).foldl (fun s c => s.leaveCore k c) s
  let s := x.retire.foldl (fun s f => s.retireFrame f) s
  let s := s.paSymbol k false
  let s := s.modDfe fun d => { d with
    queued := d.queued.filter fun e => e.1 != k.val
    muteDue := d.muteDue &&& ~~~(BitVec.ofNat 64 (cfgTx x.conf)) }
  s.setCarrier k { home := x.home, health := x.health }

/-! ### Deferred changes -/

/-- Ring capacities follow the policy while no training job runs; a change empties both rings (R375). -/
def State.sizeRings (s : State) (k : CarrierId) : State :=
  if (s.trainingJob k).isSome then s
  else s.modRings k fun x =>
    let a := polNat x.policy 0x10 4
    let b := polNat x.policy 0x14 4
    if x.policy.isEmpty || (x.train.cap == a && x.hold.cap == b) then x else { x with train := { cap := a }, hold := { cap := b } }

/-- Configuration and policy that wait for the boundary (R358, R375, R415). -/
def State.applyChanges (s : State) (k : CarrierId) : State :=
  let s := s.applyQueued k
  let s := s.modCarrier k fun x => match x.change with
    | some c => { x with cfg := some c, change := none, cal := { x.cal with cur := none } }
    | none => x
  let s := s.modCarrier k fun x => match x.policyNew with
    | some p => { x with policy := p, policyNew := none }
    | none => x
  s.sizeRings k

/-- Slots of the carrier's cores whose retirement waited (R472). -/
def State.retireDueSlots (s : State) (k : CarrierId) : State :=
  (List.finRange 144).foldl (fun (s : State) i =>
    if (s.slot i).retireDue && i.val / 18 == (s.carrier k).home.val then s.dropSlot i .retired else s) s

/-- The waiting candidate is discarded when the live model is no longer its base (R371). -/
def State.dropStale (s : State) (k : CarrierId) : State :=
  let x := s.carrier k
  match x.cand, x.live with
  | some m, some l =>
    if m.base = l.id then s
    else (s.modCarrier k fun x => { x with cand := none }).trainResult k stModelStale m.id.toNat m.report
  | _, _ => s

/-- A model becomes live: PROBATION, whatever the state was (Table 10-5, R267, R372). -/
def State.goLive (s : State) (k : CarrierId) (m : Model) (ended : Option Word) : State :=
  let s := s.modCarrier k fun x =>
    { x with prev := x.live, live := some m, swap := x.swapq.head?, swapq := x.swapq.drop 1, swapIx := none, guardSlot := ended }
  (s.setRx k .probation 1 (s.nowRef k) (0, 0, 0)).dropStale k

/-- A waiting candidate of a policy with auto_swap goes in once the carrier is out of FALLBACK (R371, R374). -/
def State.autoSwap (s : State) (k : CarrierId) : State :=
  let x := s.carrier k
  match x.cand with
  | some m => if m.auto && x.rx != .fallback && x.swap.isNone then (s.modCarrier k fun x => { x with cand := none }).startSwap k m else s
  | none => s

/-- DPD sets and mutes of the carrier's TX paths (R305, R307); a set that meets a mute is kept for later (R320). -/
def State.pathChanges (s : State) (k : CarrierId) : State :=
  let m := BitVec.ofNat 64 (cfgTx (s.carrier k).conf)
  let s := s.modDfe fun d =>
    let due := d.muteDue &&& m
    let d := (s.carrier k).txPaths.foldl (fun (d : Dfe) p => if due.getLsbD p then d else d.setDpd p (d.dpdSet p).swap) d
    { d with muted := d.muted ||| due, muteDue := d.muteDue &&& ~~~m }
  s.paOff

/-- The slot that has just ended: its state and model are fixed for its processing (R264). -/
def State.endSlot (s : State) (k : CarrierId) : State :=
  let ref := s.nowRef k
  (s.keepFeatures k ref).modCarrier k fun x =>
    let model := match x.live with | some m => m.id | none => 0#32
    { x with
      ul := modSched x.ul ref fun q => { q with ended := true, rx := x.rx.code, model := model }
      dl := modSched x.dl ref fun q => { q with ended := true } }

/-- A carrier whose model is withdrawn has the classical receiver alone (Table 10-5). The spec names no event that withdraws a model (log 111). -/
def State.withdraw (s : State) (k : CarrierId) : State :=
  let x := s.carrier k
  if x.live.isNone && x.rx != .cOnly then s.setRx k .cOnly 3 (s.nowRef k) (0, 0, 0) else s

/-- A slot of the carrier starts, with number `ix`. -/
def State.startSlot (s : State) (k : CarrierId) (ix : Nat) : State :=
  let x := s.carrier k
  let ended := if x.started then some (s.nowRef k) else none
  let load := slotLoad (findSched x.ul (s.nowRef k))
  let s := if x.started then (s.endSlot k).setLift k (s.liftWanted k load) else s
  let s := (s.applyChanges k).retireDueSlots k
  let s := s.pathChanges k
  let s := s.modCarrier k fun x => { x with slotIx := ix, txZero := 0#14, fhCtl := x.fhCtl }
  let s := if x.started then s
    else (s.modCarrier k fun x => { x with started := true }).setRx k .probation 1 (s.nowRef k) (0, 0, 0)
  let s := match (s.carrier k).swap, (s.carrier k).swapIx with
    | some m, some b => if b ≤ ix then s.goLive k m ended else s
    | _, _ => s
  let s := s.withdraw k
  let s := s.modCarrier k fun x => { x with ul := keepScheds (if s.twin.role == .standby then 4 else 64) x x.ul, dl := keepScheds 64 x x.dl }
  ((s.autoSwap k).dspTick k).resumeAll

/-- SLOT_BOUNDARY: the carrier's next slot starts (R291). Before its first slot (R514) only the count of slots advances. -/
def execSlotBoundary (car : CarrierId) (s : State) : Out :=
  .next (let x := s.carrier car
    if x.cfg.isNone then s
    else
      let ix := max (slotAt x.conf s.nowNs) (x.slotIx + 1)
      if x.removing then
        let s := if x.started then s.endSlot car else s
        (s.endCarrier car).resumeAll
      else if ix < x.firstIx then s.modCarrier car fun x => { x with slotIx := ix }
      else s.startSlot car ix)

end Sys2Proof.Machine
end

