-- ==== Sys2Proof/Machine/MemErr.lean ====
section
/-!
DEFINITION. Engine faults (R56, R468, R469) and uncorrectable memory errors (R473, R475, Table 19-4) with what they do to carrier data (R246,
R288, R364).
-/
namespace Sys2Proof.Machine

/-- One more uncorrectable error in a carrier's data. -/
def State.carrierEcc (s : State) (k : CarrierId) : State :=
  s.modCarrier k fun x => { x with health := { x.health with eccUncorr := satInc32 x.health.eccUncorr } }

/-- A record of a capture ring is marked: its seq is set to all ones (R364). -/
def Ring.spoil (r : Ring) (k : Nat) : Ring :=
  { r with recs := r.recs.map fun q => if q.1 = k then (q.1, leBytes 8 (2 ^ 64 - 1) ++ q.2.drop 8) else q }

/-- An uplink block whose data or soft buffer is lost: reported, and its soft buffer zero (R246). -/
def State.ulEcc (s : State) (k : CarrierId) (slot : Word) (i : Nat) : State :=
  match findSched (s.carrier k).ul slot with
  | none => s
  | some q =>
    match q.pdus[i]? with
    | none => s
    | some p =>
      if p.typ != 1 then s
      else
        let s := s.modUl k slot fun q => { q with pdus := modPdu q.pdus i fun p => p.settle stEccUncorr }
        (s.modCarrier k fun x => { x with soft := x.soft.filter fun b => !sameProc p.rnti p.harq b }).flushUl k slot

/-- What an uncorrectable error does to carrier data (R246, R288, R364). -/
def State.eccData (s : State) (d : EccData) : State :=
  match d with
  | .other => s
  | .ulBlock k slot i => (s.carrierEcc k).ulEcc k slot i.toNat
  | .dlPdu k slot i => (s.carrierEcc k).modDl k slot fun q => { q with pdus := modPdu q.pdus i.toNat fun p => p.settle stEccUncorr }
  | .capture k held n byJob =>
    let s := (s.carrierEcc k).modRings k fun x => if held then { x with hold := x.hold.spoil n } else { x with train := x.train.spoil n }
    match s.trainingJob k with
    | some j => if byJob && j.phase == .running then (s.strikeJob j.id stEccUncorr).resumeAll else s
    | none => s

def EccData.carrier : EccData → Option CarrierId
  | .other => none
  | .ulBlock k _ _ => some k
  | .dlPdu k _ _ => some k
  | .capture k _ _ _ => some k

/-- Count an uncorrectable error and report it (Table 19-7, kind 0x08). -/
def State.eccEvent (s : State) (mem addr : Nat) (job : Word) : State :=
  s.healthEvent 0x08 stEccUncorr (leBytes 1 mem ++ [0#8] ++ leBytes 6 addr ++ leBytes 4 job.toNat)

def State.countEcc (s : State) : State := { s with health := { s.health with eccUncorr := satInc32 s.health.eccUncorr } }

/-! ### Engine faults (R468, R469) -/

/-- A replay, or the repair, needs a fly store that cannot be read: the job is struck; carrier data acts by its own rule (R468). -/
def State.flyLost (s : State) (c : CoreId) (d : EccData) : State :=
  let s := s.countEcc.eccEvent 4 0 (s.ownerJob c)
  match (s.core c).owner with
  | .rank id _ => (s.strikeJob id stEccUncorr).resumeAll
  | .carrier _ => s.eccData d
  | .none => s

/-- The slot that the next tile of an engine or half runs on. -/
def State.faultSlot (s : State) (c : CoreId) (le : Nat) (upper : Bool) : Option (EngCmd × SlotId) :=
  if !s.unitsRun c then none else
  match s.nextOn c le upper with
  | none => none
  | some q =>
    if opcodeOf q.w != 0x12 || decide (18 ≤ q.slot) then none else some (q, slotId (Fin.ofNat 8 (c.val / 4)) q.slot)

/-- The fault of a slot in its events: a replay in place at the first one in 24 h, the slot failed at a later one (R468, R469). `tile` is the
ordinal of the tile in its operation, 0 for an engine command, as in Table 9-4 (log 80); `fly` is what an unreadable fly store held. -/
def State.slotFault (s : State) (c : CoreId) (le : Nat) (half : BitVec 2) (i : SlotId) (tile : Nat) (fly : Option EccData) : State :=
  let n := (s.slot i).faults24h s.nowNs
  let t := s.countFault i
  match fly with
  | some d => if n = 0 then t.flyLost c d else ((t.flyLost c d).dropSlot i .failed).resumeAll
  | none =>
    if n = 0 then
      let t := t.event (srcWord 1 (locSlot i.val)) 0x01 stEngineFault
        (leBytes 2 (locEngine (c.val * 4 + le) half.toNat) ++ leBytes 4 (s.ownerJob c).toNat ++ leBytes 4 tile)
      match (s.core c).owner with
      | .carrier p => t.modCarrier p fun x => { x with health := { x.health with replays := satInc64 x.health.replays } }
      | _ => t
    else (t.dropSlot i .failed).resumeAll

/-- The next tile of an engine or half aborts with ST_ENGINE_FAULT: replayed in place at a slot's first fault in 24 h, its slot failed
at a later one; it stays issued and completes after the repair (R468, R469). `fly` is what an unreadable fly store held. -/
def State.tileFault (s : State) (c : CoreId) (le : Nat) (upper : Bool) (fly : Option EccData) : State :=
  match s.faultSlot c le upper with
  | none => s
  | some (q, i) =>
    let s := s.modCtx c fun x => x.modEngine le fun g =>
      { g with queue := g.queue.map fun k => if k.serial = q.serial then { k with faulted := true } else k }
    s.slotFault c le q.half i 0 fly

/-- A PV tile of the attention block in flight aborts with ST_ENGINE_FAULT: the operation ends with that status before the block commits
(R147, R151). -/
def State.pvFault (s : State) (c : CoreId) (le : Nat) (fly : Option EccData) : State :=
  match (s.ctx c).vec with
  | [] => s
  | v :: _ =>
    let ch := chainOf v.blk
    let slot := s.cmdSlot c le ((s.ctx c).run + 1)
    if s.unitsRun c && opcodeOf v.w == 0x30 && isAttn ch.code && decide (ch.ns ≤ le) && chainGoes (s.ctx c) v ch && decide (slot < 18) then
      let s := ((s.dropVec c v.serial).vecRecord c v.w v.next true stEngineFault 0#8 0#8)
      (s.slotFault c le 0#2 (slotId (Fin.ofNat 8 (c.val / 4)) slot) v.next fly).after c
    else s

/-- A tile of an engine or half, or of the attention block in flight, meets an engine fault. -/
def State.anyFault (s : State) (c : CoreId) (le : Nat) (upper : Bool) (fly : Option EccData) : State :=
  if (s.faultSlot c le upper).isSome then s.tileFault c le upper fly else s.pvFault c le fly

/-- ENGINE_FAULT: a tile aborts with ST_ENGINE_FAULT (R56, R151, R468). -/
def execEngineFault (c : CoreId) (le : Fin 4) (upper : Bool) (fly : Option EccData) (s : State) : Out := .next (s.anyFault c le.val upper fly)

/-! ### Uncorrectable errors (Table 19-4) -/

/-- A fly-store error that no replay needs is a fault of the slot (R468). -/
def State.flyError (s : State) (i : SlotId) : State :=
  let n := (s.slot i).faults24h s.nowNs
  let t := ((s.countEcc.eccEvent 4 0 0#32)).countFault i
  if n = 0 then t else if (s.slot i).state == .active || (s.slot i).state == .spare then (t.dropSlot i .failed).resumeAll else t

/-- Memory codes of kind 0x08. -/
def MemKind.code : MemKind → Nat
  | .core => 0
  | .die => 1
  | .ddr => 2
  | _ => 3

/-- The frame of an error leaves allocation; one that a carrier maps leaves it at cell.remove (R475). -/
def State.eccFrame (s : State) (a : Nat) (d : EccData) : State :=
  match EccData.carrier d with
  | some k =>
    if isDdr a && (s.carrier k).cfg.isSome then
      s.modCarrier k fun x => if x.retire.contains (a / 65536) then x else { x with retire := x.retire ++ [a / 65536] }
    else s.frameOut a
  | none => s.frameOut a

/-- An error in core memory, die memory, DDR5 or hub memory: counted; the owner's rule applies; memory with no owner is only counted and
its frame retired (R473 to R475). -/
def State.memError (s : State) (mem : MemKind) (a : Nat) (d : EccData) : State :=
  let hub := mem == .hubCode || mem == .hubRadio
  let owner := if hub || (EccData.carrier d).isSome then none else s.jobs.find? fun j => s.jobMaps j a
  let s := s.countEcc
  let s := if mem == .ddr then s.eccFrame a d else s
  match owner with
  | some j => ((s.eccEvent (MemKind.code mem) a j.id).strikeJob j.id stEccUncorr).resumeAll
  | none => if hub || (EccData.carrier d).isSome then (s.eccEvent (MemKind.code mem) a 0#32).eccData d else s

/-- UNCORRECTABLE_ERROR: an error that the code cannot correct is handled by the memory's owner (R473). -/
def execUncorrectableError (site : EccAt) (s : State) : Out :=
  .next (match site with
    | .engine _ c le upper => s.countEcc.anyFault c le.val upper none
    | .fly i => s.flyError i
    | .memory mem a d => s.memError mem a.toNat d)

end Sys2Proof.Machine
end

