-- ==== Sys2Proof/Machine/Trail.lean ====
section
/-!
DEFINITION. Trail events (R420 to R429): flits received, messages forwarded, delivered and acknowledged, ports that go down and come up;
and twin.event (Table 17-11).
-/
namespace Sys2Proof.Machine

/-! ### Reports -/

def TwinRole.code : TwinRole → Nat
  | .unpaired => 0
  | .active => 1
  | .standby => 2
  | .isolated => 3

/-- The configured carriers as a mask. -/
def State.carrierMask (s : State) : Nat := (allCarriers.filter fun k => (s.carrier k).cfg.isSome).foldl (fun m k => m + 2 ^ k.val) 0

/-- twin.event (R443, Table 17-11). -/
def State.twinEvent (s : State) (kind carriers : Nat) (resets : List Nat) (boundary : Nat) (st : Half) : State :=
  s.notifyT1 0x0C04 st (leBytes 1 kind ++ leBytes 1 s.twin.role.code ++ leBytes 1 carriers ++ [0#8] ++ leBytes 4 s.twin.peerBeat.toNat ++ s.fullTime
    ++ allCarriers.flatMap (fun k => leBytes 4 (s.carrier k).lastCkpt.toNat) ++ (List.range 4).flatMap (fun i => leBytes 2 (resets.getD i 0))
    ++ leBytes 8 boundary)

/-- ST_TRAIL_DOWN of a trail port: source class 0x6; the spec gives the record no kind and no payload, which are free (R424, log 2). -/
def State.trailDown (s : State) (p : Nat) : State :=
  let (b, s) := s.drawBytes 13
  s.event (srcWord 6 (4 + p)) (b.headD 0#8).toNat stTrailDown (b.drop 1)

/-! ### Messages that arrive (R192, R423, R428) -/

/-- Write bytes at a virtual address of a job, line by line: none while a page is not present (R161) or while a line waits at port 7 of a core
(R169, R180); the status of a translation error (Table 8-8). -/
def State.arrive (s : State) (root : Nat) : Nat → Nat → List Byte → Option (State × Half)
  | 0, _, _ => some (s, stOk)
  | k + 1, va, bs =>
    if bs.isEmpty then some (s, stOk)
    else
      let n := 64 - va % 64
      match s.walk (va % 2 ^ 48) true 4 0 root with
      | .fault => none
      | .err st => some (s, st)
      | .ok pa =>
        if s.physKind pa = .forbidden then some (s, stPhysHole)
        else if s.portHeld (fun _ _ => false) true pa (min n bs.length) then none
        else (s.writePhys pa (bs.take n)).arrive root k (va + n) (bs.drop n)

/-- A lead asks this package to run ranks of its job, as job package `ix` (R425, R426). -/
def State.takeAsk (s : State) (r : JobRef) (ix : Nat) (a : JobAsk) : State :=
  if r.node = s.node || (s.jobOf r).isSome then s
  else
    let j : Job := { id := s.nextJob, mailbox := 0#4, phase := .queued, deterministic := a.deterministic, seed := a.seed, faultLimit := a.faultLimit,
                     ranks := a.ranks.map fun p => { entry := p.1, footprint := p.2.1, affinity := p.2.2 }, bundle := 0#32, queues := [], binds := [],
                     pkgs := a.nodes.length, nodes := a.nodes, ix := ix, lead := some r }
    { s with jobs := s.jobs ++ [j], nextJob := s.nextJob + 1#32 }

/-- What a completed message asks of this package; none while it must wait for a page or a peg. -/
def State.takeBody (s : State) (body : TrailBody) : Option State :=
  let onJob := fun (r : JobRef) (f : Job → State) => match s.jobOf r with | some j => f j | none => s
  match body with
  | .bump r rank stake add => some (onJob r fun j => (s.bumpRank j.id rank stake.toNat add).resumeAll)
  | .bytes r va data =>
    match s.jobOf r with
    | none => some s
    | some j =>
      if j.phase != .running then some s
      else (s.arrive j.root.toNat (data.length + 1) va.toNat data).map fun r => if r.2 = stOk then r.1 else (r.1.strikeJob j.id r.2).resumeAll
  | .ask r ix a => some (s.takeAsk r ix a)
  | .ready r ix => some (onJob r fun j => s.modJob j.id fun j => if j.ready.contains ix then j else { j with ready := j.ready ++ [ix] })
  | .start r => some (onJob r fun j => (s.modJob j.id fun j => { j with go := true }).resumeAll)
  | .finished r ix => some (onJob r fun j => ((s.modJob j.id fun j => if j.doneBy.contains ix then j else { j with doneBy := j.doneBy ++ [ix] }).ranksDone j.id).resumeAll)
  | .over r st => some (onJob r fun j =>
      if j.phase == .ended then s else if st = stOk then (s.endJob j.id stOk).resumeAll else (s.strikeHere j.id st).resumeAll)
  | .other => some s
  | .ack _ => some s

/-- Sends whose last message the destination has accepted are complete (R160, R423). -/
def State.sendsGo (s : State) : State :=
  allCores.foldl (fun s c => if (s.ctx c).vec.all (fun v => v.sends.isEmpty) || !s.unitsRun c then s else (s.sendAll c).after c) s

/-- A message is complete: a number that was accepted before is only acknowledged again (R423). -/
def State.finishMessage (s : State) (f : TrailFlit) (num : Nat) (bytes : List Byte) (body : TrailBody) : Option State :=
  let acked := s.modTrail fun t => { t with acks := t.acks ++ [(f.src, num)] }
  if s.trail.taken.contains (f.src, num) then some acked
  else (acked.modTrail fun t => { t with taken := t.taken ++ [(f.src, num)], inbox := t.inbox ++ [(f.src, f.cls, bytes)] }).takeBody body

/-- A data flit for this node joins its message, of at most 4 KiB. -/
def State.joinFlit (s : State) (p : Nat) (f : TrailFlit) (num : Nat) (body : TrailBody) : Option State :=
  let x := s.trail.port p
  let mine := fun (q : BitVec 3 × BitVec 2 × List Byte) => q.1 == f.src && q.2.1 == f.cls
  let before := if f.msg.getLsbD 7 then some [] else (x.part.find? mine).map fun q => q.2.2
  let rest := x.part.filter fun q => !mine q
  match before with
  | none => some s
  | some b =>
    let b := b ++ f.payload
    let s := s.modTrail fun t => t.setPort p { x with part := if f.msg.getLsbD 6 || 4096 < b.length then rest else rest ++ [(f.src, f.cls, b)] }
    if f.msg.getLsbD 6 && b.length ≤ 4096 then s.finishMessage f num b body else some s

/-- A flit that the link accepted: forwarded along its route, or for this node (R423). -/
def State.deliver (s : State) (p : Nat) (f : TrailFlit) (num : Nat) (body : TrailBody) : Option State :=
  if f.dst != s.node then
    match s.trailRoute f.dst f.cls with
    | none => some s
    | some q => some (s.modTrail fun t => let y := t.port q; t.setPort q ({ y with queue := y.queue ++ [f] }.pump 512))
  else
    let s := match body with
      | .ack n => (s.modTrail fun t => { t with unacked := t.unacked.filter fun m => !(m.num == n && m.node == f.src.toNat) }).sendsGo
      | _ => s
    if f.typ = 1#8 then s.joinFlit p f num body else some s

/-- TRAIL_FLIT: a flit arrives at a port. One that fails its CRC or its number is answered with a nak; an accepted one is acknowledged and
acts; a flit that uses reserved codes is dropped (R422, log 55). -/
def execTrailFlit (port : Fin 4) (flit : List Byte) (num : Nat) (body : TrailBody) (s : State) : Out :=
  .next (let x := s.trail.port port.val
    let set := fun (y : TrailPort) => s.modTrail fun t => t.setPort port.val y
    if !x.up || flit.length != 256 then s
    else if !flitCrcOk flit then set { x with crcErrs := satInc16 x.crcErrs, answer := some (true, x.rxSeq) }
    else
      let y := { x.acked (flitAck flit) with replays := if flitNak flit then satInc16 x.replays else x.replays }.pump 512
      if fieldAt flit 0 1 = 0 || !flitFieldsOk flit then set y
      else if flitSeq flit ≠ x.rxSeq then set { y with answer := some (true, x.rxSeq) }
      else ((set { y with rxSeq := x.rxSeq + 1#12, answer := some (false, x.rxSeq + 1#12) }).deliver port.val (flitOf flit) num body).getD s)

/-! ### Ports (R420, R424, R429) -/

/-- Every message without its end-to-end acknowledgement goes out over the present routes. -/
def State.resendTrail (s : State) : State := s.trail.unacked.foldl (fun (s : State) m => s.trailQueue m) s

/-- Jobs that lost a package are struck (R429). -/
def State.strikeUnreachable (s : State) : State :=
  let live := s.reachable
  let lost := s.jobs.filter fun j => j.phase != .ended && decide (1 < j.pkgs) && j.nodes.any fun n => n != s.node.toNat && !live.contains n
  (lost.foldl (fun (s : State) j => s.strikeJob j.id stPkgCount) s).resumeAll

/-- TRAIL_PORT_DOWN, with the links that remain between other nodes (R424). -/
def execTrailPortDown (port : Fin 4) (links : List (BitVec 3 × BitVec 3)) (s : State) : Out :=
  .next (let x := s.trail.port port.val
    if !x.up then s
    else
      let ck := s.ckptPort == some port.val
      let s := s.modTrail fun t =>
        { t.setPort port.val { x with up := false, lock := false, replay := [], queue := [], part := [], answer := none } with links := links }
      let s := s.trailDown port.val
      let s := if ck && s.twin.formed then s.twinEvent 5 s.carrierMask [] 0 stTrailDown else s
      s.resendTrail.strikeUnreachable)

/-- A gap in the checkpoints: the active sends every live soft buffer again, ahead of new ones (R437). -/
def State.startResync (s : State) : State :=
  if s.twin.role == .active && s.twin.formed then
    allCarriers.foldl (fun (s : State) k => if (s.carrier k).cfg.isSome then s.modCarrier k fun x => { x with carry := x.soft.map softSection, resync := true } else s) s
  else s

/-- TRAIL_PORT_UP: a port has trained and exchanged node and port numbers; a neighbour with this node's number leaves it down (R420). -/
def execTrailPortUp (port : Fin 4) (nbrNode : BitVec 3) (nbrPort : BitVec 2) (links : List (BitVec 3 × BitVec 3)) (s : State) : Out :=
  .next (let x := s.trail.port port.val
    if x.up || !(s.boot.phase == .running || s.boot.phase == .hold) then s
    else if nbrNode = s.node then s.trailDown port.val
    else
      let s := s.modTrail fun t =>
        { t.setPort port.val { x with nbrNode := nbrNode, nbrPort := nbrPort, lock := true, up := true, txSeq := 0#12, rxSeq := 0#12, replay := [], queue := [] } with links := links }
      let s := if s.ckptPort == some port.val then s.startResync else s
      s.resendTrail)

end Sys2Proof.Machine
end

