-- ==== Sys2Proof/Machine/Twin.lean ====
section
/-!
DEFINITION. The twin (R432 to R444): pairing and heartbeats, checkpoints applied by the standby, a missed peer, takeover and the planned
switch.
-/
namespace Sys2Proof.Machine

def State.modTwin (s : State) (f : Twin → Twin) : State := { s with twin := f s.twin }
def State.setXp (s : State) (b : Bool) : State := { s with pins := { s.pins with xpOwn := b } }

/-! ### Status (Table 17-5) -/

/-- cfg_digest of a carrier; 0 while it is not configured. -/
def State.cfgDigest (s : State) (k : CarrierId) : Nat :=
  match (s.carrier k).cfg with
  | some c => leNat ((Sha.sha384 c).take 8)
  | none => 0

/-- A carrier whose configuration the peer shares (R434). -/
def State.digestAgrees (s : State) (k : CarrierId) : Bool := fieldAt s.twin.peer (0x20 + 8 * k.val) 8 == s.cfgDigest k

/-- In step (R437). -/
def State.inStep (s : State) (k : CarrierId) : Bool :=
  let x := s.carrier k
  s.twin.formed && s.digestAgrees k && !x.resync && x.soft.all fun b => !b.owed

/-- Every paired carrier is in step. -/
def State.twinReady (s : State) : Bool := s.twin.formed && allCarriers.all fun k => !(s.carrier k).cfg.isSome || s.inStep k

def State.statusBytes (s : State) (lost : Bool) : List Byte :=
  leBytes 1 s.twin.role.code ++ leBytes 1 ((if s.twinReady then 4 else 0) + (if s.pins.xpOwn then 2 else 0) + (if lost then 1 else 0))
    ++ leBytes 1 s.carrierMask ++ [0#8] ++ leBytes 4 s.twin.beat.toNat ++ leBytes 8 s.shortTime
    ++ allCarriers.flatMap (fun k => leBytes 4 (s.carrier k).lastCkpt.toNat) ++ allCarriers.flatMap fun k => leBytes 8 (s.cfgDigest k)

/-- The guy-line keys: static ECDH of the two hub-die keys, the lower serial number first in the salt. The package with the lower serial number takes
the host's direction (R432, log 112). -/
def State.guyKeys (s : State) (peerSerial : Nat) (peer : EccPt) : List Byte :=
  let own := s.part.serial.toNat
  let salt := leBytes 16 (min own peerSerial) ++ leBytes 16 (max own peerSerial)
  let m := hkdf salt (ecdh s.part.hubPriv.toNat peer) (ascii "PLSK1 twin") 72
  if own < peerSerial then (m.drop 32).take 32 ++ m.take 32 ++ (m.drop 68) ++ (m.drop 64).take 4 else m

/-- Send a frame on the guy line, under its own keys and counter (R432, R396). -/
def State.guySend (s : State) (typ : Nat) (payload : List Byte) : State :=
  let m : Msg := { port := .guy, session := 0#16, typ := BitVec.ofNat 16 typ, prot := true, resp := false, unsol := true, seq := s.twin.guy.txSeq,
                   token := 0#16, status := stOk, payload := payload }
  ({ s with host := { s.host with txq := s.host.txq ++ [m.protect s.twin.guy.keyOut s.twin.guy.saltOut] } }).modTwin fun t => { t with guy := { t.guy with txSeq := t.guy.txSeq + 1#32 } }

/-- One heartbeat (R433). -/
def State.heartbeat (s : State) (lost : Bool) : State :=
  let s := s.modTwin fun t => { t with beat := t.beat + 1#32 }
  s.guySend 0x0C02 (s.statusBytes lost)

/-- TWIN_HEARTBEAT: every 100 µs while paired (R433). -/
def execTwinHeartbeat (s : State) : Out :=
  .next (if s.twin.role == .unpaired || s.boot.phase != .running then s else s.heartbeat false)

/-! ### Pairing (R432) -/

/-- TWIN_PAIR: takes the role of its payload; the counters of the heartbeat survive (Table 18-8). A peer key that is no point of the curve breaks the
payload of a pairing (log 112). -/
def pairTwin : Handler := fun _ f s =>
  let role := f.nat 0 1
  let t : Twin := { beat := s.twin.beat }
  .need (f.len 120 && role ≤ 2 && f.nat 1 1 < 4 && f.zero 2 2 && f.zero 0x75 3) stMsgInvalid s <|
  if role = 0 then .ok (({ s with twin := t }).setXp false)
  else match eccDecode ((f.payload.drop 0x14).take 97) with
    | none => .deny stMsgInvalid s
    | some q =>
      let t := { t with pairing := f.payload, guy := { t.guy with keys := s.guyKeys (f.nat 4 16) q } }
      .ok (if role = 1 then ({ s with twin := { t with role := .active } }).setXp true else ({ s with twin := { t with role := .standby } }).setXp false)

def execTwinPair (f : Frame) (s : State) : Out := .next (s.row f 0x0C01 pairTwin)

/-- TWIN_PAIR_TIMEOUT: the peer was not paired within 10 s (R432). -/
def execTwinPairTimeout (s : State) : Out :=
  .next (if (s.twin.role == .active || s.twin.role == .standby) && !s.twin.formed then s.twinEvent 6 s.carrierMask [] 0 stTwinLost else s)

/-! ### Loss of the peer (R439, R463) -/

/-- An active gives way: XP_OWN low, no transmission, its carriers end (R439). -/
def State.isolate (s : State) : State :=
  let m := s.carrierMask
  let s := (s.modTwin fun t => { t with role := .isolated, formed := false, planAt := none, takeAt := none }).setXp false
  let s := allCarriers.foldl (fun (s : State) k => if (s.carrier k).cfg.isSome then s.endCarrier k else s) s
  (({ s with pins := { s.pins with paEn := 0#16 } }).twinEvent 1 m [] 0 stTwinLost).resumeAll

/-- The first time at or after `t` at which every configured carrier has reached a slot boundary (R440, log 56). -/
def State.firstBoundary (s : State) (t : Nat) : Nat :=
  allCarriers.foldl (fun n k =>
    let c := (s.carrier k).conf
    if (s.carrier k).cfg.isNone then n
    else
      let ix := slotAt c t
      max n (slotStart c (if slotStart c ix < (t : Int) then ix + 1 else ix)).toNat) t

/-- A standby declares loss: XP_OWN high, and the takeover boundary is fixed; a planned switch is void (R439, R440, Table 17-9). -/
def State.declareLoss (s : State) : State :=
  if s.twin.takeAt.isSome then s
  else
    let b := s.firstBoundary (s.nowNs + 600000)
    ((s.modTwin fun t => { t with takeAt := some b, planAt := none }).setXp true).twinEvent 1 s.carrierMask [] 0 stTwinLost

/-- PEER_MISS: the loss time passed without a heartbeat and without a valid flit (R439). -/
def execPeerMiss (s : State) : Out :=
  .next (if !s.twin.formed then s
    else match s.twin.role with
      | .active => s.isolate
      | .standby => s.declareLoss
      | _ => s)

/-! ### Heartbeats received (R432 to R434, R439) -/

/-- Carriers that came out of step, and those that are in step again. -/
def State.checkDigests (s : State) : State :=
  let out := allCarriers.filter fun k => ((s.carrier k).cfg.isSome || (fieldAt s.twin.peer 2 1).testBit k.val) && !s.digestAgrees k
  let new := out.filter fun k => !s.twin.told.getLsbD k.val
  let s := s.modTwin fun t => { t with told := BitVec.ofNat 4 (out.foldl (fun m k => m + 2 ^ k.val) 0) }
  if new.isEmpty then s else s.twinEvent 4 (new.foldl (fun m k => m + 2 ^ k.val) 0) [] 0 stCellInvalid

/-- The first authentic heartbeat of the opposite role forms the pair (log 57); M12 takes the pairing (Table 20-5). -/
def State.formPair (s : State) (peerRole : Nat) : State :=
  if s.twin.formed then s
  else if (s.twin.role == .active && peerRole == 2) || (s.twin.role == .standby && peerRole == 1) then
    let s := (s.modTwin fun t => { t with formed := true }).extend 12 0x0B s.twin.role.code (Sha.sha384 s.twin.pairing)
    s.twinEvent 0 s.carrierMask [] 0 stOk
  else s

/-- Reserved bits of a guy-line frame's header are 0 (R11). -/
def guyClean (f : Frame) : Bool := f.vflags.toNat % 4 == 0 && f.mailbox.toNat < 16 && f.length.toNat < 2048

/-- Reserved fields of a heartbeat are 0, and its role is one of Table 17-5 (R11). -/
def beatClean (f : Frame) : Bool :=
  guyClean f && decide (1 ≤ f.nat 0 1 ∧ f.nat 0 1 ≤ 3) && f.nat 1 1 < 8 && f.nat 2 1 < 16 && f.nat 3 1 == 0

/-- A frame of the paired twin on the guy line: authentic and new (R392, R396, R402). -/
def State.guyOk (s : State) (f : Frame) : Bool :=
  s.boot.phase == .running && f.wellFormed && f.prot && s.twin.guy.tagOk f && (s.twin.role == .active || s.twin.role == .standby) && s.twin.guy.fresh f.seq

def State.guyTake (s : State) (f : Frame) : State := s.modTwin fun t => { t with guy := t.guy.take f.seq }

/-- A heartbeat of the peer. -/
def State.takeHeartbeat (s : State) (f : Frame) : State :=
  let s := (s.guyTake f).modTwin fun t => { t with peer := f.payload, peerBeat := BitVec.ofNat 32 (f.nat 4 4) }
  let s := (s.formPair (f.nat 0 1)).checkDigests
  if (f.nat 1 1).testBit 0 && s.twin.role == .standby && s.twin.formed then s.declareLoss else s

def sendTwinStatus : Handler := fun _ f s => .need (f.len 0) stMsgInvalid s { payload := s.statusBytes false, state := s }

/-- TWIN_STATUS: a heartbeat on the guy line, or the host's request (R433). A heartbeat with a reserved field set has no effect (R11, log 112). -/
def execTwinStatus (f : Frame) (s : State) : Out :=
  .next (if f.port == .guy then
      (if f.typ != 0x0C02#16 then s
       else if s.guyOk f && f.len 64 then (if beatClean f then s.takeHeartbeat f else s)
       else if s.boot.phase == .running then s.discard else s)
    else s.row f 0x0C02 sendTwinStatus)

/-! ### Checkpoints applied (R436, R437, R442) -/

/-- The sections of a record; none when they do not fill it exactly. -/
def ckptSections : Nat → List Byte → Option (List (Nat × Nat × Nat × List Byte))
  | 0, b => if b.isEmpty then some [] else none
  | n + 1, b =>
    let len := fieldAt b 8 4
    let pad := (len + 15) / 16 * 16
    if b.length < 16 + pad || fieldAt b 1 1 != 0 || fieldAt b 5 3 != 0 || fieldAt b 0x0C 4 != 0 || fieldAt b 0 1 == 0 || decide (5 < fieldAt b 0 1)
        || decide (32 ≤ fieldAt b 4 1) then none
    else (ckptSections n (b.drop (16 + pad))).map fun q => (fieldAt b 0 1, fieldAt b 2 2, fieldAt b 4 1, (b.drop 16).take len) :: q

/-- Slots from one reference to another, both of one numerology. -/
def refDistance (a b : Word) : Nat :=
  let n := 1024 * (if bitsOf b.toNat 28 2 = 0 then 10 else 20)
  (refIndex b + n - refIndex a % n) % n

/-- The receiver state of a code. -/
def rxOfCode (n : Nat) : RxState :=
  match n with
  | 1 => .probation
  | 2 => .learned
  | 3 => .fallback
  | _ => .cOnly

def wordsOf : Nat → List Byte → List Dword
  | 0, _ => []
  | n + 1, b => if b.length < 8 then [] else BitVec.ofNat 64 (leNat (b.take 8)) :: wordsOf n (b.drop 8)

/-- One section takes effect (Table 17-7). -/
def State.applySection (s : State) (k : CarrierId) (model : Word) (q : Nat × Nat × Nat × List Byte) : State :=
  let (kind, id, aux, b) := q
  match kind with
  | 1 => s.modCarrier k fun x => { x with soft := setSoft x.soft id (aux % 16) (aux.testBit 4) b }
  | 2 => s.modCarrier k fun x => { x with soft := x.soft.filter fun y => !sameProc id (aux % 16) y }
  | 3 => s.modCarrier k fun x => x.setWeights id s.nowNs b
  | 4 =>
    let m := hostModel model b (Sha.digest b) 0 (s.carrier k).policy
    (s.measureModel k m).modCarrier k fun x => { x with prev := x.live, live := some m }
  | _ => s.modDfe fun d => d.setDpd id { d.dpdSet id with prev := some (d.dpdSet id).cur, cur := wordsOf 64 b, wait := none, fresh := true }

/-- Processes of a slot's blocks that a truncated record leaves outstanding (R436). -/
def Carrier.markOwed (x : Carrier) (slot : Word) (got : List (Nat × Nat × Nat × List Byte)) : Carrier :=
  match findSched x.ul slot with
  | none => x
  | some q =>
    (q.pdus.filter fun p => p.typ == 1 && !got.any fun g => g.1 ≤ 2 && g.2.1 == p.rnti && g.2.2.1 % 16 == p.harq).foldl (fun x p =>
      let old := (x.soft.find? (sameProc p.rnti p.harq)).getD { rnti := BitVec.ofNat 16 p.rnti, harq := BitVec.ofNat 4 p.harq, ndi := p.ndi, soft := [] }
      { x with soft := x.soft.filter (fun b => !sameProc p.rnti p.harq b) ++ [{ old with owed := true }] }) x

/-- A record keeps Table 17-6 and is later than the last one applied. -/
def Carrier.ckptOk (x : Carrier) (k : CarrierId) (b : List Byte) : Bool :=
  let slot := BitVec.ofNat 32 (fieldAt b 0 4)
  decide (96 ≤ b.length) && fieldAt b 4 4 == b.length && b.length % 16 == 0 && refOk x.conf slot && refCarrier slot == k && decide (fieldAt b 0x0A 1 < 4)
    && decide (fieldAt b 0x0B 1 < 4) && fieldAt b 0x1C 4 == 0
    && (let d := refDistance x.lastCkpt slot; decide (0 < d ∧ d < 1024 * slotsPerFrame x.conf / 2) || x.lastCkpt == 0#32)

/-- CHECKPOINT_APPLY: the standby applies a record whole, in slot order (R437); a record that is not complete is discarded. -/
def execCheckpointApply (car : CarrierId) (record : List Byte) (s : State) : Out :=
  .next (let x := s.carrier car
    if s.twin.role != .standby || !s.twin.formed || x.cfg.isNone || !x.ckptOk car record then s
    else match ckptSections (fieldAt record 8 2) (record.drop 96) with
      | none => s
      | some secs =>
        let slot := BitVec.ofNat 32 (fieldAt record 0 4)
        let cut := (fieldAt record 0x0B 1).testBit 0
        let again := (fieldAt record 0x0B 1).testBit 1
        let gap := x.lastCkpt != 0#32 && refDistance x.lastCkpt slot != 1
        let s := secs.foldl (fun (s : State) q => s.applySection car (BitVec.ofNat 32 (fieldAt record 0x0C 4)) q) s
        s.modCarrier car fun x =>
          let x := if cut then x.markOwed slot secs else x
          { x with
            rx := rxOfCode (fieldAt record 0x0A 1), pairs := fieldAt record 0x10 4, failL := fieldAt record 0x14 4, failC := fieldAt record 0x18 4
            gains := x.rxPaths.foldl (fun g p => g.set p (BitVec.ofNat 5 (fieldAt record (0x20 + p) 1))) x.gains
            resync := (x.resync || gap) && !(again && !cut), lastCkpt := slot })

/-! ### Takeover (R440, R442) -/

/-- Slots of the schedule after the last checkpoint and before a slot reference. -/
def Carrier.lostSlots (x : Carrier) (upto : Word) : List Sched :=
  x.ul.filter fun q => let d := refDistance x.lastCkpt q.slot; decide (0 < d) && decide (d < refDistance x.lastCkpt upto)

/-- HARQ processes that start again from zero: those outstanding, and those of the lost slots' blocks. -/
def Carrier.lostProcs (x : Carrier) (upto : Word) : List (Nat × Nat) :=
  let owed := (x.soft.filter (·.owed)).map fun b => (b.rnti.toNat, b.harq.toNat)
  let named := (x.lostSlots upto).flatMap fun q => (q.got.flatMap fun g => g.2.2).filterMap fun p => if p.typ = 1 then some (p.rnti, p.harq) else none
  (owed ++ named).eraseDups

/-- Reset the processes, and close the slots before the boundary: no report of theirs is sent here. -/
def State.takeOver (s : State) (k : CarrierId) (upto : Word) : State :=
  s.modCarrier k fun x =>
    let lost := x.lostProcs upto
    let before := fun (r : Word) => decide (refDistance r upto ≤ 64) && r != upto
    { x with
      soft := x.soft.filter fun b => !lost.contains (b.rnti.toNat, b.harq.toNat)
      resync := false
      ul := x.ul.map fun q => if before q.slot then { q with closed := true, pdus := q.pdus.map fun p => { p with decided := true, reported := true } } else q
      dl := x.dl.map fun q => if before q.slot then { q with done := true } else q }

/-- The reference of the slot that starts at a time. -/
def State.refAt (s : State) (k : CarrierId) (t : Nat) : Word := slotRef k (s.carrier k).conf (slotAt (s.carrier k).conf t)

/-- TAKEOVER_BOUNDARY: at B_t the standby takes on every role of the active (R440); a carrier whose configuration differs stays
unconfigured (R434). -/
def execTakeoverBoundary (s : State) : Out :=
  .next (match s.twin.role, s.twin.takeAt with
    | .standby, some b =>
      if s.nowNs < b then s
      else
        let s := allCarriers.foldl (fun (s : State) k => if (s.carrier k).cfg.isSome && !s.digestAgrees k then s.endCarrier k else s) s
        let cs := allCarriers.filter fun k => (s.carrier k).cfg.isSome
        let resets := allCarriers.map fun k => if (s.carrier k).cfg.isSome then ((s.carrier k).lostProcs (s.refAt k b)).length else 0
        let s := cs.foldl (fun (s : State) k => s.takeOver k (s.refAt k b)) s
        let s := s.modTwin fun t => { t with role := .active, formed := false, takeAt := none, planAt := none }
        (s.twinEvent 2 s.carrierMask resets b stTwinTakeover).resumeAll
    | _, _ => s)

/-! ### The planned switch (R441, R443) -/

/-- A time is a slot boundary of every configured carrier. -/
def State.allBoundary (s : State) (b : Nat) : Bool :=
  allCarriers.all fun k => let c := (s.carrier k).conf; (s.carrier k).cfg.isNone || slotStart c (slotAt c b) == (b : Int)

def switchTwin : Handler := fun _ f s =>
  let b := f.nat 0 8
  .need (f.len 16 && f.zero 8 8) stMsgInvalid s <|
  .need (s.twin.role == .active && s.twin.formed && (fieldAt s.twin.peer 1 1).testBit 2) stCfgBusy s <|
  .need (s.allBoundary b && decide (s.nowNs + 2000000 ≤ b)) stMsgInvalid s <|
  .ok ((s.modTwin fun t => { t with planAt := some b }).guySend 0x0C03 f.payload)

/-- TWIN_SWITCH: the host plans a switch on the active, which forwards the boundary; the standby takes it from the guy line. -/
def execTwinSwitch (f : Frame) (s : State) : Out :=
  .next (if f.port == .guy then
      (if f.typ != 0x0C03#16 then s
       else if s.guyOk f && f.len 16 then
         (if guyClean f && f.zero 8 8 then
            (s.guyTake f).modTwin fun t => if t.role == .standby && t.formed && t.takeAt.isNone then { t with planAt := some (f.nat 0 8) } else t
          else s)
       else if s.boot.phase == .running then s.discard else s)
    else s.row f 0x0C03 switchTwin)

/-- PDUs of slots that overlap the 600 µs before the boundary miss their deadline (R441). -/
def State.missBefore (s : State) (k : CarrierId) (b : Nat) : State :=
  let c := (s.carrier k).conf
  let passed := fun (r : Word) => (List.range 3).any fun i => decide (i + 1 ≤ slotAt c b) &&
    slotRef k c (slotAt c b - (i + 1)) == r && decide ((b : Int) - 600000 < slotStart c (slotAt c b - i))
  let miss := fun (q : Sched) => if passed q.slot then { q with pdus := q.pdus.map fun p => p.settle stDeadlineMiss } else q
  let n := ((s.carrier k).ul ++ (s.carrier k).dl).foldl (fun n q => if passed q.slot then n + q.pdus.countP fun p => !p.decided else n) 0
  let s := s.modCarrier k fun x => { x with ul := x.ul.map miss, dl := x.dl.map miss, health := (List.range n).foldl (fun h _ => h.miss) x.health }
  ((s.carrier k).ul.filter fun q => passed q.slot).foldl (fun (s : State) q => s.flushUl k q.slot) s

/-- PLANNED_SWITCH: 600 µs before the boundary the crosspoint changes; at the boundary the roles swap (R441). -/
def execPlannedSwitch (s : State) : Out :=
  .next (match s.twin.planAt with
    | none => s
    | some b =>
      if s.nowNs + 600000 < b then s
      else
        let cs := allCarriers.filter fun k => (s.carrier k).cfg.isSome
        match s.twin.role with
        | .active =>
          let s := (cs.foldl (fun (s : State) k => s.missBefore k b) s).setXp false
          if s.nowNs < b then s
          else ((s.modTwin fun t => { t with role := .standby, planAt := none }).twinEvent 3 s.carrierMask [] b stOk)
        | .standby =>
          let s := s.setXp true
          if s.nowNs < b then s
          else
            let s := cs.foldl (fun (s : State) k => s.takeOver k (s.refAt k b)) s
            (s.modTwin fun t => { t with role := .active, planAt := none }).twinEvent 3 s.carrierMask [] b stOk
        | _ => s)

end Sys2Proof.Machine
end

