-- ==== Sys2Proof/Machine/Power.lean ====
section
/-!
DEFINITION. Power (18): steps and VID (R446, R447), power states (R449 to R452), waking clusters (R454, R455), the cap loop and the thermal
limits (R457 to R459), the Lantern supplies and wake events (R453, R461, R463), and what a reset of the hub die loses.
-/
namespace Sys2Proof.Machine

def State.modPower (s : State) (f : Power → Power) : State := { s with power := f s.power }
def State.modLantern (s : State) (f : Lantern → Lantern) : State := { s with lantern := f s.lantern }

def PowerState.code : PowerState → Nat
  | .active => 0
  | .standby => 1
  | .bivouac => 2

/-! ### power.status (Table 18-11) -/

def State.powerBytes (s : State) : List Byte :=
  let l := s.lantern
  leBytes 1 s.power.state.code ++ leBytes 1 s.power.step.toNat ++ leBytes 2 s.power.capW.toNat ++ leBytes 4 s.power.avgMw.toNat ++ leBytes 4 s.power.peakMw.toNat
    ++ leBytes 1 s.power.duty ++ leBytes 1 ((if l.cold then 8 else 0) + (if l.onBkp then 4 else 0) + (if l.mainOk then 2 else 0) + (if l.bkpOk then 1 else 0))
    ++ leBytes 2 s.power.tj.toNat ++ leBytes 1 s.power.vid.toNat ++ leBytes 1 s.part.trim.toNat ++ [l.wakeCause] ++ leBytes 13 0

/-- After a report the peak starts again and `switched` reads 0 (Tables 18-9, 18-11). -/
def State.powerReported (s : State) : State := (s.modPower fun p => { p with peakMw := 0#32 }).modLantern fun l => { l with switched := false }

/-- power.status unsolicited (R464). -/
def State.sendPower (s : State) (st : Half) : State := (s.notifyT1 0x0008 st s.powerBytes).powerReported

def readPower : Handler := fun _ f s => .need (f.len 0) stMsgInvalid s { payload := s.powerBytes, state := s.powerReported }

/-- POWER_STATUS: the host's request (R464). -/
def execPowerStatus (f : Frame) (s : State) : Out := .next (s.row f 0x0008 readPower)

/-! ### Steps (R446, R447) -/

/-- The VID code of a step with the fused trim (Table 18-2). -/
def State.vidOf (s : State) (step : BitVec 2) : BitVec 7 :=
  BitVec.ofNat 7 ((match step.toNat with | 0 => 10 | 1 => 20 | 2 => 40 | _ => 60) + s.part.trim.toNat)

/-- Lower the step: the divider first, then the VID; the change is reported. -/
def State.lowerStep (s : State) (step : BitVec 2) : State :=
  (s.modPower fun p => { p with step := step, vid := s.vidOf step, rising := none }).sendPower stOk

/-- Begin to raise the step: the VID first; the divider switches after its wait. -/
def State.raiseStep (s : State) (step : BitVec 2) : State := s.modPower fun p => { p with vid := s.vidOf step, rising := some step }

/-- DIVIDER_SWITCH: the divider of both dies switches after the VID wait of a raise (R447). -/
def execDividerSwitch (step : BitVec 2) (s : State) : Out :=
  .next (if s.power.rising = some step then (s.modPower fun p => { p with step := step, rising := none }).sendPower stOk else s)

/-- The lowest step that the firmware selects (R448, R457). -/
def State.floorStep (s : State) : BitVec 2 := if s.anyCarrier then 1#2 else 0#2

/-! ### The cap loop (R457, R458) -/

/-- Evaluations over the cap at the floor step with no duty: ST_CAP_UNMET after 100 ms and each second from then on (R458). -/
def State.capUnmet (s : State) : State :=
  let n := s.power.overCap + 1
  let s := s.modPower fun p => { p with overCap := n }
  if 100 ≤ n ∧ (n - 100) % 1000 = 0 then s.sendPower stCapUnmet else s

/-- Raise the duty, then the step, once 50 evaluations in a row were below 0.95 × cap. -/
def State.easeCap (s : State) : State :=
  if s.power.below < 50 then s
  else if s.power.duty < 16 then s.modPower fun p => { p with duty := p.duty + 1 }
  else if s.power.step.toNat < s.power.ceiling.toNat then s.raiseStep (s.power.step + 1#2)
  else s

/-- CAP_EVALUATION: the 10 ms average and the largest 1 ms average, each 1 ms. Without a cap the average stays below it; from 105 °C on the
loop acts as though it exceeded it (R457, R459). While a raise waits for its VID no other change begins (Table 18-12). -/
def execCapEvaluation (avgMw peakMw : Word) (s : State) : Out :=
  .next (if s.boot.phase != .running then s
    else
      let cap := s.power.capW.toNat * 1000
      let above := decide (cap ≠ 0 ∧ cap < avgMw.toNat)
      let below := decide (cap = 0 ∨ avgMw.toNat * 100 < cap * 95) && !s.power.hot
      let s := s.modPower fun p =>
        { p with avgMw := avgMw, peakMw := if p.peakMw.toNat < peakMw.toNat then peakMw else p.peakMw, below := if below then min 50 (p.below + 1) else 0 }
      let atFloor := decide (s.power.step.toNat ≤ s.floorStep.toNat)
      let s := if above && atFloor && s.power.duty == 0 then s.capUnmet else s.modPower fun p => { p with overCap := 0 }
      if s.power.rising.isSome then s
      else if above || s.power.hot then
        (if atFloor then s.modPower fun p => { p with duty := p.duty - 2 } else s.lowerStep (s.power.step - 1#2))
      else s.easeCap)

/-- THERMAL_LIMIT: the hottest junction in 1/16 °C; an excursion to 105 °C is reported once (R459). -/
def execThermalLimit (tj : Half) (s : State) : Out :=
  .next (let hot := decide ((105 * 16 : Int) ≤ tj.toInt)
    let old := s.power.hot
    let s := s.modPower fun p => { p with tj := tj, hot := hot }
    if hot && !old then s.sendPower stThermal else s)

/-- THERMTRIP: at 125 °C the hardware gates every cluster, zeroes the TX lanes, drives THERMTRIP_N low and logs the event (R459, R525); the
spec gives the log record no kind, source or payload, which are free but for class 0x7 (log 2). -/
def execThermtrip (s : State) : Out :=
  .next (if s.power.tripped || s.boot.phase == .bivouac || s.boot.phase == .reset then s
    else
      let s := s.modPower fun p => { p with tripped := true }
      let s := { s with clusters := vmap s.clusters fun (c : Cluster) => { c with power := .gated } }
      let s := { s with pins := { s.pins with tripN := false, paEn := 0#16, xpOwn := false, orx0 := 0#6, orx1 := 0#6, rg := Vector.replicate 64 0#5 } }
      let (b, s) := s.drawBytes 13
      s.event (srcWord 7 0) (b.headD 0#8).toNat stThermal (b.drop 1))

/-! ### Clusters (R454, R455) -/

/-- A cluster that neither a carrier, a rank, a saved rank's memory nor a scrub needs. -/
def State.clusterIdle (s : State) (k : ClusterId) : Bool :=
  (s.homeCarrier k).isNone && (coresOf k).all fun c => (s.core c).owner == .none && !(s.core c).scrubbing && !s.resident c

/-- CLUSTER_GATE: a cluster idle for 1 ms in Active is gated (R455). -/
def execClusterGate (k : ClusterId) (s : State) : Out :=
  .next (let c := s.clusters.get k
    if s.power.state == .active && c.power == .up && s.clusterIdle k then { s with clusters := s.clusters.set k { c with power := .gated } } else s)

/-- Active engine slots of a cluster. -/
def State.activeSlots (s : State) (k : ClusterId) : Nat := (List.range 18).countP fun i => (s.slot (slotId k i)).state == .active

/-- CLUSTER_READY: 4 µs after it began to wake a cluster starts its slots (R454). -/
def execClusterReady (k : ClusterId) (s : State) : Out :=
  .next (let c := s.clusters.get k
    if c.power == .waking then
      let p : ClusterPower := if s.activeSlots k = 0 then .up else .starting 0
      ({ s with clusters := s.clusters.set k { c with power := p } }).resumeAll
    else s)

/-- ENGINE_SLOT_START: the next active slot starts; after the last the cluster accepts work (R454). -/
def execEngineSlotStart (k : ClusterId) (s : State) : Out :=
  .next (let c := s.clusters.get k
    match c.power with
    | .starting n =>
      let p : ClusterPower := if s.activeSlots k ≤ n + 1 then .up else .starting (n + 1)
      ({ s with clusters := s.clusters.set k { c with power := p } }).resumeAll
    | _ => s)

/-- Every gated cluster begins to wake (R454). -/
def State.wakeAll (s : State) : State :=
  { s with clusters := vmap s.clusters fun (c : Cluster) => if c.power == .gated then { c with power := .waking } else c }

/-! ### Reset of the hub die (R452, R462, R509) -/

/-- What survives a loss of everything outside the Lantern domain: the part and its fuses, keys and counters, the flash, device time, the event
log, the twin state, the repair record, and (with `ddr`) DDR5. -/
def State.hubReset (s : State) (ddr : Bool) : State :=
  let r := State.reset
  { r with
    pending := s.pending, freeCtr := s.freeCtr, part := s.part, events := s.events
    mem := if ddr then s.mem.filter fun p => isDdr p.1 else []
    slots := vmap s.slots fun q => { state := q.state }
    dies := vmap s.dies fun d => { retired := d.retired, corrAt := if ddr then d.corrAt else [] }
    seqs := if ddr then s.seqs else []
    health := if ddr then s.health else {}
    host := { sent := s.host.sent ++ s.host.txq, discards := if ddr then s.host.discards else 0#32 }
    time := { r.time with acc := s.time.acc }
    twin := { role := s.twin.role, pairing := s.twin.pairing, beat := s.twin.beat, guy := { id := 0#16, port := .guy, isOpen := true, keys := s.twin.guy.keys } }
    lantern := s.lantern
    security := { counters := s.security.counters, owners := s.security.owners }
    boot := s.boot
    pins := { pwrEn := s.pins.pwrEn, pps := s.pins.pps, tuOut0 := s.pins.tuOut0, tuOut1 := s.pins.tuOut1, rgLoads := s.pins.rgLoads } }

/-! ### power.set (R450 to R452, R464) -/

/-- Enter Standby: the clusters are gated and lose their core memories (Table 18-3). -/
def State.enterStandby (s : State) : State :=
  let s := s.erasePhys Config.coreMemBase (32 * Config.coreMemStep)
  let s := { s with clusters := vmap s.clusters fun (c : Cluster) => { c with power := .gated } }
  (s.modPower fun p => { p with state := .standby }).sendPower stOk

def State.enterActive (s : State) : State := (s.wakeAll.modPower fun p => { p with state := .active }).sendPower stOk

/-- The 16 MiB at the top of die 0's populated DDR5, which take the firmware image and the training values (R452). -/
def State.retention (s : State) : Nat × Nat := (Config.ddrBase 0 + s.ddrBytes - 0x1000000, 0x1000000)

/-- Enter Bivouac: sessions end, the image digest goes to the Lantern domain, DDR5 outside the retention region keeps its bytes, PWR_EN falls
(R452). The bytes of the region are the boot ROM's alone: what listed cells held there is gone (log 63). -/
def State.enterBivouac (s : State) : State :=
  let s := s.sendPower stOk
  let s := s.erasePhys s.retention.1 s.retention.2
  let s := s.modLantern fun l => { l with digest := s.boot.finding.map (·.fwDigest) }
  let s := s.hubReset true
  let s := s.modPower fun p => { p with state := .bivouac }
  { s with boot := { s.boot with phase := .bivouac }, pins := { s.pins with pwrEn := false } }

/-- No rank of a job runs, and none may run by itself. -/
def State.noJobRuns (s : State) : Bool := s.jobs.all fun j => j.phase != .running || (j.suspended && j.ranks.all fun r => r.core.isNone)

def State.mayBivouac (s : State) : Bool :=
  !s.anyCarrier && s.jobs.all (fun j => j.phase == .ended) && s.kernels.isEmpty && s.host.objects.isEmpty && s.twin.role != .active

/-- POWER_SET: a request for the present state only sets the values beside it (log 59). -/
def setPower : Handler := fun _ f s =>
  let want := f.nat 0 1
  let ceil := f.nat 1 1
  let cap := f.nat 2 2
  let ok := f.len 16 && want ≤ 2 && ceil ≤ 4 && !(ceil == 0 && s.anyCarrier) && (cap == 0 || decide (60 ≤ cap ∧ cap ≤ 150)) && f.nat 4 1 < 8 && f.zero 5 3
  let now := s.power.state.code
  let may := want == now || (match now, want with
    | 0, 1 => !s.anyCarrier && s.noJobRuns
    | 1, 0 => !s.power.tripped
    | _, 2 => s.mayBivouac
    | _, _ => false)
  .need ok stMsgInvalid s <|
  .need may stPowerState s <|
    let top := BitVec.ofNat 2 (min ceil 3)
    let s := s.modPower fun p => { p with ceiling := top, capW := BitVec.ofNat 8 cap }
    let s := s.modLantern fun l => { l with wakeMask := BitVec.ofNat 3 (f.nat 4 1), wakeTime := BitVec.ofNat 64 (f.nat 8 8) }
    { state := s
      post := fun (s : State) =>
        let s := if top.toNat < s.power.step.toNat then s.lowerStep top else s
        if want == now then s
        else match want with
          | 0 => s.enterActive
          | 1 => s.enterStandby
          | _ => s.enterBivouac }

def execPowerSet (f : Frame) (s : State) : Out := .next (s.row f 0x0007 setPower)

/-! ### The Lantern domain (R453, R461, R463) -/

/-- WAKE_EVENT: an enabled event in Bivouac raises PWR_EN (R453). -/
def execWakeEvent (cause : WakeCause) (s : State) : Out :=
  .next (let bit := match cause with | .wakeN => 0 | .alarm => 1 | .link => 2
    let due := cause != .alarm || (s.lantern.wakeTime != 0#64 && decide (s.lantern.wakeTime.toNat ≤ s.nowNs))
    if s.boot.phase == .bivouac && s.lantern.wakeMask.getLsbD bit && due then
      let s := s.modLantern fun l => { l with wakeCause := BitVec.ofNat 8 (bit + 1) }
      { s with boot := { s.boot with phase := .enabled, warm := true }, pins := { s.pins with pwrEn := true } }
    else s)

/-- BACKUP_SWITCH: the heartbeat with main_lost, the log record (free kind and payload, log 2), power.status while the firmware runs; an
active becomes isolated (R433, R461, R463). -/
def execBackupSwitch (bkpOk : Bool) (s : State) : Out :=
  .next (if !s.lantern.powered || s.lantern.onBkp then s
    else
      let s := s.modLantern fun l => { l with onBkp := true, switched := true, mainOk := false, bkpOk := bkpOk }
      let s := if s.twin.role == .unpaired then s else s.heartbeat true
      let (b, s) := s.drawBytes 13
      let s := s.event (srcWord 7 0) (b.headD 0#8).toNat stMainLost (b.drop 1)
      let s := if s.boot.phase == .running || s.boot.phase == .hold then s.sendPower stMainLost else s
      if s.twin.role == .active then s.isolate else s)

/-- MAIN_RETURN: after 10 ms of good main supply (R461). -/
def execMainReturn (bkpOk : Bool) (s : State) : Out :=
  .next (if s.lantern.powered && s.lantern.onBkp then s.modLantern fun l => { l with onBkp := false, mainOk := true, bkpOk := bkpOk } else s)

end Sys2Proof.Machine
end

