-- ==== Sys2Proof/Machine/Boot.lean ====
section
/-!
DEFINITION. Reset and boot (R461, R504 to R512), the repair record at boot (R466, R467), dev.reset, fw.update, and key.owner (R496 to R499,
R513). What the boot ROM finds is an operand (log 7).
-/
namespace Sys2Proof.Machine

def State.modBoot (s : State) (f : Boot → Boot) : State := { s with boot := f s.boot }

/-! ### The repair record (R467) -/

/-- The fields of a cluster and its spares after the failed and retired slots, in ascending order, on top of the fused image. -/
def repaired (p : Part) (k : Nat) (bad : List Nat) : Fields :=
  let spares := (List.range 18).filter fun i => fusedState p k i == .spare && !bad.contains i
  (bad.foldl (fun (q : Fields × List Nat) i =>
    match q.1.findIdx? (· == i) with
    | none => q
    | some n =>
      match q.2 with
      | a :: as => (q.1.set n a, as)
      | [] => (q.1.take (n / 4 * 4) ++ degrade ((q.1.drop (n / 4 * 4)).take 4) i ++ q.1.drop (n / 4 * 4 + 4), [])) (fusedFields p k, spares)).1

def SlotState.out : SlotState → Bool
  | .failed => true
  | .retired => true
  | _ => false

/-- Slots and maps of a cluster at boot. -/
def State.bootCluster (s : State) (k : ClusterId) : State :=
  let bad := (List.range 18).filter fun i => (s.slot (slotId k i)).state.out
  let f := repaired s.part k.val bad
  let s := { s with clusters := s.clusters.set k { map := mapWord f, map0 := mapWord0 f, live := mapWord f, live0 := mapWord0 f } }
  (List.range 18).foldl (fun (s : State) i => s.modSlot (slotId k i) fun r =>
    let q : SlotState := if r.state.out then r.state else if f.contains i then .active
      else (match fusedState s.part k.val i with | .active => .spare | x => x)
    { state := q }) s

/-- Apply the repair record; without one the fused image stands alone and every frame is in use again (Table 21-6). -/
def State.applyRepair (s : State) (have_ : Bool) : State :=
  let s := if have_ then s
    else { s with slots := vmap s.slots fun (_ : SlotRec) => { state := .active }, dies := vmap s.dies fun (d : Die) => { d with retired := [] } }
  (List.finRange 8).foldl (fun (s : State) k => s.bootCluster k) s

/-! ### Banks (R507) -/

def Boot.bank (b : Boot) (isB : Bool) : Bank := if isB then b.bankB else b.bankA
def Boot.setBank (b : Boot) (isB : Bool) (x : Bank) : Boot := if isB then { b with bankB := x } else { b with bankA := x }
def Boot.floor (b : Boot) (isB : Bool) : Nat := if isB then b.floorB else b.floorA

/-- A bank that the boot ROM may try. -/
def State.eligible (s : State) (isB : Bool) : Bool :=
  let x := s.boot.bank isB
  x.valid && !s.lantern.failedSeq.contains x.seq

/-- The banks in the order in which they are tried: the higher sequence number first, bank A on a tie. -/
def State.bankOrder (s : State) : List Bool :=
  (if s.boot.bankA.seq.toNat < s.boot.bankB.seq.toNat then [true, false] else [false, true]).filter s.eligible

/-- A bank fails: the Lantern domain records its sequence number. -/
def State.failBank (s : State) (isB : Bool) : State :=
  s.modLantern fun l => { l with failedSeq := l.failedSeq ++ [(s.boot.bank isB).seq] }

/-! ### The boot sequence (R489, R500, R508 to R510) -/

/-- A Lantern event record of a boot: the spec gives no kind and no layout, which are free but for the first payload byte (log 2). -/
def State.bootEvent (s : State) (st : Half) (first : Nat) : State :=
  let (b, s) := s.drawBytes 12
  s.event (srcWord 7 0) (b.headD 0#8).toNat st (leBytes 1 first ++ b.drop 1)

/-- M3 of the dies that authenticated, and the record of those that did not (R488, R489). -/
def State.authDies (s : State) (b : BootFinding) : State :=
  let one := fun (s : State) (i : Fin 2) (ok : Bool) (cert : BitVec 384) =>
    if ok then
      let s := { s with dies := s.dies.set i { s.dies.get i with authed := true } }
      s.extend 3 0x04 i.val (beBytes 48 cert.toNat)
    else s.bootEvent stDieAuth i.val
  one (one s 0 b.die0Ok b.cert0) 1 b.die1Ok b.cert1

/-- The firmware runs: M2 and M4, the owner area and the repair record (R467, R496, Table 21-5). -/
def State.startFirmware (s : State) (b : BootFinding) (fw : BitVec 384) : State :=
  let s := s.extend 2 0x03 0 (beBytes 48 fw.toNat)
  let s := s.applyRepair b.repairOk
  let s := if b.ownerOk then s else (s.modSec fun c => { c with owners := [] }).bootEvent stSigInvalid 0
  s.measureOwner.modPower fun p => { p with vid := s.vidOf p.step }

/-- A boot of a bank whose images pass, from M1 on. -/
def State.bootBank (s : State) (b : BootFinding) (isB : Bool) : State :=
  let s := s.extend 1 0x02 0 (beBytes 48 b.fsDigest.toNat)
  let s := (s.authDies b).modBoot fun x => { x with booted := some isB }
  if !(b.die0Ok && b.die1Ok) then s.modBoot fun x => { x with phase := .dieFail }
  else
    let s := (s.startFirmware b b.fwDigest).makeQuoteKey
    if !(b.ddr0Ok && b.ddr1Ok) then s.modBoot fun x => { x with phase := .hold }
    else
      let s := (s.modSec fun c => c.raise 0 (s.boot.floor isB)).modPower fun p => { p with state := .standby }
      { s with boot := { s.boot with phase := .running }, pins := { s.pins with bootStat := true, xpOwn := s.twin.role == TwinRole.active } }

/-- Try the eligible banks in order; a bank that is slow waits for the watchdog (R507). -/
def State.tryBanks (b : BootFinding) : List Bool → State → State
  | [], s => s.modBoot fun x => { x with phase := .halt }
  | isB :: rest, s =>
    if !(if isB then b.bankBOk else b.bankAOk) then State.tryBanks b rest (s.failBank isB)
    else if (if isB then b.slowB else b.slowA) then s.modBoot fun x => { x with phase := .booting isB }
    else s.bootBank b isB

/-- The boot ROM starts: M0, then the banks. -/
def State.coldBoot (s : State) (b : BootFinding) : State :=
  let s := (s.modBoot fun x => { x with finding := some b, booted := none, writing := false, warm := false }).modLantern fun l => { l with quoteKey := none, cert5 := ([], []) }
  let s := s.extend 0 0x01 0 (beBytes 48 b.romDigest.toNat)
  State.tryBanks b s.bankOrder s

/-- A warm exit from Bivouac: the retained image runs again and the device goes on to Active (R453, R508, Table 20-8). -/
def State.warmExit (s : State) (b : BootFinding) : State :=
  let old := s.boot.finding.getD b
  let s := s.modBoot fun x => { x with warm := false }
  let s := (s.extend 0 0x01 0 (beBytes 48 b.romDigest.toNat)).extend 1 0x02 0 (beBytes 48 old.fsDigest.toNat)
  let s := s.authDies b
  if !(b.die0Ok && b.die1Ok) then s.modBoot fun x => { x with phase := .dieFail }
  else
    let s := s.startFirmware b (s.lantern.digest.getD old.fwDigest)
    let s := { s with boot := { s.boot with phase := .running }, pins := { s.pins with bootStat := true, xpOwn := s.twin.role == TwinRole.active } }
    (s.enterActive.modLantern fun l => { l with cold := false }).setServo .locking

/-! ### Resets and supplies -/

/-- What a loss of the Lantern domain leaves: the part, its fuses and its flash (R461, R509). -/
def State.lanternLost (s : State) : State :=
  let h := s.hubReset false
  { h with time := State.reset.time, events := [], twin := {}, lantern := {}
           boot := { h.boot with phase := .reset, finding := none, warm := false, writing := false, booted := none }
           pins := { h.pins with pwrEn := false } }

/-- LANTERN_RESET: the Lantern power-on reset; device time is 0 (R377, R461). -/
def execLanternReset (s : State) : Out := .next s.lanternLost

/-- LANTERN_POWER_LOSS: the selected input falls below 1.45 V (R461). -/
def execLanternPowerLoss (s : State) : Out := .next (s.lanternLost.modLantern fun l => { l with powered := false })

/-- PWR_EN_RISE: 1 ms after the Lantern reset, with the supplies as they read (R504). -/
def execPwrEnRise (mainOk bkpOk : Bool) (s : State) : Out :=
  .next (if s.boot.phase == .reset && s.lantern.powered then
      let s := s.modLantern fun l => { l with mainOk := mainOk, bkpOk := bkpOk }
      { s with boot := { s.boot with phase := .enabled }, pins := { s.pins with pwrEn := true } }
    else s)

/-- PWR_GOOD_RISE: the straps are sampled and the boot runs to Standby, or a warm exit to Active; a retained image that fails its check makes
the boot cold (R453, R505, R508). -/
def execPwrGoodRise (straps : Half) (b : BootFinding) (s : State) : Out :=
  .next (if s.boot.phase != .enabled then s
    else
      let s := { s with part := { s.part with straps := straps &&& 0xFE00#16 } }
      if s.boot.warm && b.digestOk then s.warmExit b
      else if s.boot.warm then ((s.hubReset false).modLantern fun l => { l with cold := true }).coldBoot b
      else (s.modLantern fun l => { l with cold := false, wakeCause := 4#8 }).coldBoot b)

/-- PWR_GOOD_FALL: the hub and compute dies reset (R504); a bank whose header was erased stays so (Table 21-6). -/
def execPwrGoodFall (s : State) : Out :=
  .next (match s.boot.phase with
    | .reset => s
    | .enabled => s
    | .bivouac => s
    | _ => (s.hubReset false).modBoot fun x => { x with phase := .enabled, writing := false, warm := false })

/-- BOOT_WATCHDOG: the bank being booted fails and the dies reset with the rails up; the other bank is tried (R507). -/
def execBootWatchdog (s : State) : Out :=
  .next (match s.boot.phase, s.boot.finding with
    | .booting isB, some b => ((s.failBank isB).hubReset false).coldBoot b
    | _, _ => s)

/-- BOOT_STAT_TOGGLE: in a halt (R510). -/
def execBootStatToggle (s : State) : Out :=
  .next (if s.boot.phase == .halt then { s with pins := { s.pins with bootStat := !s.pins.bootStat } } else s)

/-- DEV_RESET: kind 0 cycles PWR_EN, kind 1 starts the boot ROM again, which finds what it found before (R511, log 58). -/
def resetDevice : Handler := fun _ f s =>
  let kind := f.nat 0 1
  .need (f.len 8 && kind ≤ 1 && f.zero 1 7) stMsgInvalid s <|
  .need (!s.boot.writing) stCfgBusy s
    { state := s
      post := fun s =>
        let t := (s.hubReset false).modBoot fun x => { x with phase := .enabled, warm := false }
        match kind, s.boot.finding with
        | 1, some b => (t.modLantern fun l => { l with cold := false, wakeCause := 4#8 }).coldBoot b
        | _, _ => t }

def execDevReset (f : Frame) (s : State) : Out := .next (s.row f 0x0006 resetDevice)

/-! ### fw.update (R492, R493, R512) -/

/-- The checks of a kind 1 image at an offset of a bank image: the status, and its floor. -/
def State.imageStatus (s : State) (b : List Byte) (off len : Nat) : Half × Nat :=
  let img := (b.drop off).take len
  let key := (img.drop 0x40).take 97
  match sigBlockOf len (lastBytes img 128) with
  | none => (stMsgInvalid, 0)
  | some k =>
    let slot := (List.finRange 4).any fun i => s.part.fwSlots.get i == Sha.digest key && !s.part.revoked.getLsbD i.val
    if k.kind ≠ 1 ∨ img.length ≠ len then (stMsgInvalid, 0)
    else if !slot || k.keyId != keyIdOf key then (stKeyUnknown, 0)
    else if !objSigOk key img || (k.bind != 0 && k.bind != s.bindOf) then (stSigInvalid, 0)
    else if k.svn < s.security.counter 0 then (stRollback, 0)
    else (stOk, k.floor)

/-- FW_UPDATE: a bank image that passes is written to the bank not booted from; its header is erased first and written last (R512). -/
def updateFirmware : Handler := fun _ f s =>
  .need (f.len 4) stMsgInvalid s <|
  match s.sealedBytes (BitVec.ofNat 32 (f.nat 0 4)) with
  | none => .deny stObjectUnknown s
  | some b =>
    let fsLen := fieldAt b 8 4
    let fwLen := fieldAt b 0x0C 4
    let fs := s.imageStatus b 0x10000 fsLen
    let fw := s.imageStatus b 0x50000 fwLen
    let isB := s.boot.booted != some true
    .need (!s.boot.writing) stCfgBusy s <|
    .need (fieldAt b 0 4 == 0x4B4E4142 && fsLen ≤ 0x40000 && fwLen ≤ 0xE00000 && ((b.drop 0x10).take 48).all (· == 0#8)) stMsgInvalid s <|
    .need (fs.1 == stOk) fs.1 s <|
    .need (fw.1 == stOk) fw.1 s <|
    .ok (s.modBoot fun x =>
      let x := { x.setBank isB { x.bank isB with valid := false } with writing := true }
      if isB then { x with floorB := max fs.2 fw.2 } else { x with floorA := max fs.2 fw.2 })

def execFwUpdate (f : Frame) (s : State) : Out := .next (s.row f 0x0106 updateFirmware)

/-- BANK_HEADER_WRITTEN: the write ends with the header, whose sequence number is the booted bank's plus 1; the record of a failed one is
cleared (R507, R512). -/
def execBankHeaderWritten (s : State) : Out :=
  .next (if !s.boot.writing then s
    else
      let isB := s.boot.booted != some true
      let old := (s.boot.bank isB).seq
      let seq := (s.boot.bank (!isB)).seq + 1#32
      let s := s.modBoot fun x => { x.setBank isB { valid := true, seq := seq } with writing := false }
      s.modLantern fun l => { l with failedSeq := l.failedSeq.filter fun q => q != old && q != seq })

/-! ### key.owner (R496 to R499) -/

def OwnerKey.admin (k : OwnerKey) : Bool := k.roles.getLsbD 5

/-- Payload rules of Table 20-4. -/
def ownerFieldsOk (f : Frame) : Bool :=
  let op := f.nat 0 1
  f.len 224 && decide (1 ≤ op ∧ op ≤ 3) && f.nat 1 1 < 64 && f.zero 2 2 && f.zero 0x69 7
    && (if op = 1 then f.nat 8 1 == 4 else f.zero 1 1 && f.zero 8 97) && (op == 2 || f.zero 0x70 8)

/-- The owner keys after a request. -/
def ownersAfter (f : Frame) (ks : List OwnerKey) : List OwnerKey :=
  match f.nat 0 1 with
  | 1 =>
    let key := (f.payload.drop 8).take 97
    ks.filter (fun k => k.id != keyIdOf key) ++ [{ id := keyIdOf key, roles := BitVec.ofNat 8 (f.nat 1 1), key := key }]
  | 2 => ks.filter fun k => k.id.toNat != f.nat 0x70 8
  | _ => []

/-- Op 3 strikes every job and removes every carrier and kernel (R498). -/
def State.releaseAll (s : State) : State :=
  let s := s.jobs.foldl (fun (s : State) j => s.strikeJob j.id stJobKilled) s
  let s := allCarriers.foldl (fun (s : State) k => if (s.carrier k).cfg.isSome then s.endCarrier k else s) s
  (s.kernels.foldl (fun (s : State) q => unloadKernel q s) s).resumeAll

/-- Sessions whose key is gone end once the response is sent, and so does a claim session (R499, R513). -/
def State.dropSessions (s : State) : State :=
  (s.host.sessions.filter fun x => x.isOpen && !s.security.owners.any fun k => k.id == x.keyId).foldl (fun (s : State) x => s.releaseSession x.id) s

/-- The signature of a key.owner request: by the key that auth_id names, in an unowned package the key it adds (R497). -/
def State.ownerSigOk (s : State) (f : Frame) : Bool :=
  let key := if s.owned then ((s.security.owners.find? fun k => k.id == BitVec.ofNat 64 (f.nat 0x78 8)).elim [] (·.key)) else (f.payload.drop 8).take 97
  ecdsaOk key (ascii "PLSK1 owner" ++ s.serialBytes ++ f.payload.take 0x80) (f.payload.drop 0x80)

def changeOwner : Handler := fun _ f s =>
  let c := s.security
  let op := f.nat 0 1
  let auth := BitVec.ofNat 64 (f.nat 0x78 8)
  let key := keyIdOf ((f.payload.drop 8).take 97)
  let rest := ownersAfter f c.owners
  .need (ownerFieldsOk f) stMsgInvalid s <|
  .need (s.owned || s.ownClaim) stKeyUnknown s <|
  .need (s.owned || (op == 1 && (f.nat 1 1).testBit 5)) stMsgInvalid s <|
  .need (f.nat 4 4 == c.counter 1 + 1 && decide (c.counter 1 < 256)) stRollback s <|
  .need (if s.owned then c.owners.any fun k => k.id == auth && k.admin else auth == key) stKeyUnknown s <|
  .need (s.ownerSigOk f) stSigInvalid s <|
  .need (op != 2 || c.owners.any fun k => k.id.toNat == f.nat 0x70 8) stKeyUnknown s <|
  .need (op != 1 || decide (rest.length ≤ 16)) stCfgBusy s <|
  .need (op == 3 || rest.any (·.admin)) stCfgBusy s <|
    let s := s.modSec fun c => { c.raise 1 (f.nat 4 4) with owners := rest }
    let s := if op = 3 then s.releaseAll else s
    { state := s.measureOwner, post := fun s => s.dropSessions }

/-- KEY_OWNER (R497, R498). -/
def execKeyOwner (f : Frame) (s : State) : Out := .next (s.row f 0x0107 changeOwner)

end Sys2Proof.Machine
end

