-- ==== Sys2Proof/Machine/HostMsg.lean ====
section
/-!
DEFINITION. The ports (R393, R394), identification and ping (R12, R412), subscription (R408) and bulk objects (R410).
-/
namespace Sys2Proof.Machine

/-! ### Addresses (R393) -/

/-- The MAC address of a Pleskabel port (sub-port 0 of a 100G port): B + 4p + s, or B + 8 + k. -/
def State.macOf (s : State) (p : Port) : BitVec 48 :=
  s.part.macBase + (match p with | .eth0 => 0#48 | .eth1 => 4#48 | .host => 8#48 | .guy => 9#48)

/-- The IPv6 link-local address of a port, in network byte order: fe80::/64 and the EUI-64 of its MAC address (RFC 4291). -/
def State.linkLocal (s : State) (p : Port) : List Byte :=
  let m := (leBytes 6 (s.macOf p).toNat).reverse
  [0xFE#8, 0x80#8] ++ leBytes 6 0 ++ ((m.take 1).map (· ^^^ 2#8)) ++ (m.drop 1).take 2 ++ [0xFF#8, 0xFE#8] ++ m.drop 3

/-! ### Links and dev.hello (R394) -/

def t1Port (p : Fin 2) : Port := if p = 0 then .host else .guy

/-- Table 16-5. A die whose DDR5 failed its training shows as capacity 0 (Table 21-6). mac_base goes little-endian, as a payload field
(DESIGN CHOICE, log 91). -/
def State.identifyBytes (s : State) : List Byte :=
  leBytes 1 (if s.part.sh9632 then 1 else 0) ++ [0xB0#8] ++ leBytes 1 (if s.part.sh9632 then 96 else 128) ++ [0#8] ++ s.serialBytes
    ++ leBytes 6 s.part.macBase.toNat ++ leBytes 2 s.part.straps.toNat ++ leBytes 4 s.part.fwVer.toNat ++ leBytes 4 s.part.romVer.toNat
    ++ leBytes 2 (if s.boot.phase == .hold then 0 else s.part.ddrGib.toNat) ++ [0#8, 0#8]

/-- LINK_UP: the link of a 1000BASE-T1 port; dev.hello is owed on the host port while it has no open session. -/
def execLinkUp (p : Fin 2) (s : State) : Out :=
  .next (if !s.answering then s
    else
      let port := t1Port p
      let free := s.host.sessions.all fun x => !(x.port == port && x.isOpen)
      { s with host := s.host.setNet port { s.host.net port with up := true, hello := port == .host && free } })

/-- LINK_DOWN: every session of the port ends at once; of the guy line alone it has no further effect than twin.event (R439, log 119). -/
def execLinkDown (p : Fin 2) (s : State) : Out :=
  .next (let port := t1Port p
    let lost := port == .guy && (s.host.net port).up && s.twin.formed
    let s : State := { s with host := s.host.setNet port { s.host.net port with up := false, hello := false } }
    let s := (s.host.sessions.filter fun x => x.port == port).foldl (fun (s : State) x => s.endSession x.id) s
    if lost then s.twinEvent 1 s.carrierMask [] 0 stTwinLost else s)

/-- DEV_HELLO: each second while it is owed. -/
def execDevHello (p : Fin 2) (s : State) : Out :=
  .next (let n := s.host.net (t1Port p)
    if !(n.up && n.hello) then s
    else
      let m : Msg := { port := t1Port p, session := 0#16, typ := 1#16, prot := false, resp := false, unsol := true, seq := 0#32, token := 0#16,
                       status := stOk, payload := s.identifyBytes }
      { s with host := { s.host with txq := s.host.txq ++ [m.clear] } })

/-! ### Management -/

def identify : Handler := fun _ f s => .need (f.len 0) stMsgInvalid s { payload := s.identifyBytes, state := s }

/-- DEV_IDENTIFY (R12, Table 16-5). -/
def execDevIdentify (f : Frame) (s : State) : Out := .next (s.row f 0x0002 identify)

def ping : Handler := fun _ f s => .need (decide (f.payload.length ≤ 64)) stMsgInvalid s { payload := f.payload, state := s }

/-- DEV_PING (Table 16-4). -/
def execDevPing (f : Frame) (s : State) : Out := .next (s.row f 0x0003 ping)

def portOf (n : Nat) : Port := match n with | 0 => .eth0 | 1 => .eth1 | _ => .host

/-- A carrier's slot data uses this port. -/
def State.portCarries (s : State) (p : Port) : Bool := allCarriers.any fun k => (s.carrier k).cfg.isSome && cfgPort (s.carrier k).conf == p

def configureNet : Handler := fun _ f s =>
  let p := portOf (f.nat 0 1)
  let old := s.host.net p
  let mode := f.nat 1 1 == 1
  let plen := BitVec.ofNat 8 (f.nat 2 1)
  let ip := BitVec.ofNat 32 (Sha.beNat ((f.payload.drop 4).take 4))
  let others := s.host.sessions.any fun y => y.isOpen && y.port == p && y.id != f.session
  let lost := old.plen != 0#8 && (plen == 0#8 || ip != old.ipv4) && s.host.sessions.any fun y => y.port == p && y.ipv4
  .need (f.len 8 && f.nat 0 1 ≤ 2 && f.nat 1 1 ≤ 1 && (f.nat 0 1 != 2 || !mode) && f.nat 2 1 ≤ 32 && f.nat 3 1 == 0) stMsgInvalid s <|
  .need (mode == old.mode || !(s.portCarries p || others)) stCfgBusy s <|
  .need (!lost) stCfgBusy s <|
  .ok { s with host := s.host.setNet p { old with mode := mode, plen := plen, ipv4 := ip } }

/-- NET_CONFIGURE: the mode and the IPv4 address of a port, which stands in network byte order (R8, Tables 16-6 and 16-13). -/
def execNetConfigure (f : Frame) (s : State) : Out := .next (s.row f 0x0004 configureNet)

def subscribe : Handler := fun _ f s =>
  .need (f.len 2) stMsgInvalid s <| .ok (s.modSession f.session fun x => { x with mask := BitVec.ofNat 16 (f.nat 0 2) })

/-- MBOX_SUBSCRIBE (R408). -/
def execMboxSubscribe (f : Frame) (s : State) : Out := .next (s.row f 0x0005 subscribe)

/-! ### Bulk objects (R410) -/

/-- The lowest identifier that no object has (log 9). -/
def State.newObject (s : State) : Word :=
  BitVec.ofNat 32 (((List.range 4097).find? fun i => !s.host.objects.any fun o => o.id.toNat == i + 1).getD 4096 + 1)

/-- Ranges of bytes meet. -/
def meets (a n b m : Nat) : Bool := decide (a < b + m) && decide (b < a + n)

/-- Frames that an object may take: populated DDR5 of its die, not retired, not another object's, not a running or scrubbed job's. -/
def State.roomAt (s : State) (die : Fin 2) (base size : Nat) : Bool :=
  base % 65536 == 0 && decide (Config.ddrBase die.val ≤ base) && decide (base + size ≤ Config.ddrBase die.val + s.ddrBytes)
    && !(s.dies.get die).retired.any (fun r => meets base size (r * 65536) 65536)
    && !s.host.objects.any (fun o => meets base size o.base o.size)
    && !s.jobs.any fun j =>
      (if j.phase == .running then s.ownPages j else if j.scrub.isEmpty then [] else j.pages).any fun p => meets base size p.1 p.2

def modObject (s : State) (id : Word) (f : Obj → Obj) : State :=
  { s with host := { s.host with objects := s.host.objects.map fun o => if o.id == id then f o else o } }

/-- The frames are the firmware's choice; without room for them, or for a 4,097th object, the answer is ST_CFG_BUSY (log 13). Frames are zero
when they are allocated (R509). -/
def allocObject (base : Option PhysAddr) : Handler := fun _ f s =>
  let size := f.nat 0 8
  let die : Fin 2 := Fin.ofNat 2 (f.nat 8 1)
  .need (f.len 16 && f.nat 8 1 ≤ 1 && f.zero 9 7) stMsgInvalid s <|
  .need (decide (s.host.objects.length < 4096)) stCfgBusy s <|
  match base with
  | none => .deny stCfgBusy s
  | some b =>
    let id := s.newObject
    let s := s.erasePhys b.toNat size
    let o : Obj := { id := id, die := die, size := size, base := b.toNat, written := [], isSealed := false }
    { payload := leBytes 4 id.toNat, state := { s with host := { s.host with objects := s.host.objects ++ [o] } } }

/-- BULK_ALLOC: frames that are not free are none that the firmware could choose. -/
def execBulkAlloc (f : Frame) (base : Option PhysAddr) (s : State) : Out :=
  .next (match base with
    | none => s.row f 0x0010 (allocObject none)
    | some b => if f.nat 8 1 ≤ 1 && !s.roomAt (Fin.ofNat 2 (f.nat 8 1)) b.toNat (f.nat 0 8) then s else s.row f 0x0010 (allocObject (some b)))

def putObject : Handler := fun _ f s =>
  let data := f.payload.drop 16
  let off := f.nat 8 8
  .need (decide (16 ≤ f.payload.length) && f.zero 4 4) stMsgInvalid s <|
  match s.object (BitVec.ofNat 32 (f.nat 0 4)) with
  | none => .deny stObjectUnknown s
  | some o =>
    .need (!o.isSealed) stObjectUnknown s <|
    .need (decide (off + data.length ≤ o.size)) stMsgInvalid s <|
    .ok (modObject (s.writePhys (o.base + off) data) o.id fun o => o.mark off data.length)

/-- BULK_PUT. -/
def execBulkPut (f : Frame) (s : State) : Out := .next (s.row f 0x0011 putObject)

/-- The first byte from `a` on that no range covers; `n` bounds the ranges. -/
def coverEnd (rs : List (Nat × Nat)) : Nat → Nat → Nat
  | 0, a => a
  | n + 1, a =>
    match rs.find? fun r => decide (r.1 ≤ a) && decide (a < r.1 + r.2) with
    | some r => coverEnd rs n (r.1 + r.2)
    | none => a

def Obj.complete (o : Obj) : Bool := decide (o.size ≤ coverEnd o.written o.written.length 0)

def commitObject : Handler := fun _ f s =>
  .need (f.len 56 && f.zero 4 4) stMsgInvalid s <|
  match s.object (BitVec.ofNat 32 (f.nat 0 4)) with
  | none => .deny stObjectUnknown s
  | some o =>
    .need (!o.isSealed) stObjectUnknown s <|
    .need o.complete stBulkMissing s <|
    .need (Sha.sha384 (s.readPhys o.base o.size) == f.payload.drop 8) stBulkDigest s <|
    .ok (modObject s o.id fun o => { o with isSealed := true })

/-- BULK_COMMIT. -/
def execBulkCommit (f : Frame) (s : State) : Out := .next (s.row f 0x0012 commitObject)

/-- bulk.data messages of a range. -/
def State.sendBulk (s : State) (o : Obj) : Nat → Nat → Nat → State
  | 0, _, _ => s
  | n + 1, off, left =>
    let len := min 1392 left
    let s := s.notify 0x0014 stOk (leBytes 4 o.id.toNat ++ leBytes 4 0 ++ leBytes 8 off ++ s.readPhys (o.base + off) len) isPort100G
    s.sendBulk o n (off + len) (left - len)

/-- A running job binds the object, and not writable. -/
def State.boundReadOnly (s : State) (id : Word) : Bool :=
  s.jobs.any fun j => j.phase == .running && j.binds.any fun b => b.obj == id && !b.writable
/-- A running job maps the object. -/
def State.boundByJob (s : State) (id : Word) : Bool := s.jobs.any fun j => j.phase == .running && j.binds.any fun b => b.obj == id

/-- An object that a running job binds read-only cannot be read back; the status is DESIGN CHOICE (log 60). -/
def getObject : Handler := fun _ f s =>
  let off := f.nat 8 8
  let n := f.nat 16 8
  .need (f.len 24 && f.zero 4 4) stMsgInvalid s <|
  match s.object (BitVec.ofNat 32 (f.nat 0 4)) with
  | none => .deny stObjectUnknown s
  | some o =>
    .need (decide (off + n ≤ o.size)) stMsgInvalid s <|
    .need (!s.boundReadOnly o.id) stCfgBusy s { state := s, post := fun s => s.sendBulk o ((n + 1391) / 1392) off n }

/-- BULK_GET. -/
def execBulkGet (f : Frame) (s : State) : Out := .next (s.row f 0x0013 getObject)

def freeObject : Handler := fun _ f s =>
  .need (f.len 4) stMsgInvalid s <|
  match s.object (BitVec.ofNat 32 (f.nat 0 4)) with
  | none => .deny stObjectUnknown s
  | some o =>
    .need (!s.boundByJob o.id) stCfgBusy s <|
    .ok { s with host := { s.host with objects := s.host.objects.filter fun q => q.id != o.id } }

/-- BULK_FREE: refused while a running job maps the object (Table 16-13). -/
def execBulkFree (f : Frame) (s : State) : Out := .next (s.row f 0x0015 freeObject)

end Sys2Proof.Machine
end

