-- ==== Sys2Proof/Machine/JobMsg.lean ====
section
/-!
DEFINITION. Job messages: submission, suspension, resumption, kill and status (R225, R228, R412, R414, R425, Tables 16-7 and 16-8).
-/
namespace Sys2Proof.Machine

/-- A job message is taken on any of the eight job mailboxes (Table 16-4). -/
def State.jobRow (s : State) (f : Frame) (low : Nat) (h : Handler) : State := if f.isJobRow low then s.request f h else s

/-! ### Submission -/

def bindAt (f : Frame) (i : Nat) : Bind :=
  let o := 0x28 + 16 * i
  { obj := BitVec.ofNat 32 (f.nat o 4), writable := f.nat (o + 4) 4 % 2 == 1, va := BitVec.ofNat 64 (f.nat (o + 8) 8) }

def bindsOf (f : Frame) : List Bind := (List.range (f.nat 5 1)).map (bindAt f)

def rankAt (f : Frame) (i : Nat) : Rank :=
  let o := 0x28 + 16 * f.nat 5 1 + 16 * i
  { entry := f.nat o 4, footprint := f.nat (o + 4) 4, affinity := BitVec.ofNat 8 (f.nat (o + 8) 1) }

def ranksOf (f : Frame) : List Rank := (List.range (f.nat 4 1)).map (rankAt f)

/-- The fields of Table 16-7 are in range. -/
def submitOk (f : Frame) : Bool :=
  let nb := f.nat 5 1
  let nr := f.nat 4 1
  decide (1 ≤ nr ∧ nr ≤ 32 ∧ nb ≤ 16 ∧ f.nat 6 1 ≤ 1) && f.len (0x28 + 16 * nb + 16 * nr) && f.zero 7 1 && f.zero 0x14 4
    && (List.range nb).all (fun i => decide (f.nat (0x2C + 16 * i) 4 ≤ 1))
    && (List.range nr).all fun i =>
      let o := 0x28 + 16 * nb + 16 * i
      decide (f.nat o 4 < 0x400000) && decide (f.nat (o + 4) 4 ≤ 0x400000) && decide (f.nat (o + 8) 1 ≤ 2) && f.zero (o + 9) 7

/-- A binding's object exists, sealed where the job only reads it (R410). -/
def State.bindable (s : State) (b : Bind) : Bool :=
  match s.object b.obj with
  | some o => b.writable || o.isSealed
  | none => false

/-- The pages of 64 KiB that a binding covers. -/
def State.bindSize (s : State) (b : Bind) : Nat :=
  match s.object b.obj with
  | some o => (o.size + 65535) / 65536 * 65536
  | none => 0

/-- Bindings are 64 KiB aligned, inside the 48-bit space and apart from one another (R414). -/
def State.bindsOk (s : State) : List Bind → Bool
  | [] => true
  | b :: bs =>
    decide (b.va.toNat % 65536 = 0) && decide (b.va.toNat + s.bindSize b ≤ 2 ^ 48)
      && bs.all (fun c => !meets b.va.toNat (s.bindSize b) c.va.toNat (s.bindSize c)) && s.bindsOk bs

/-- The objects of work queues 0 to 3; 0 for none. -/
def queueObj (f : Frame) (i : Nat) : Word := BitVec.ofNat 32 (f.nat (0x18 + 4 * i) 4)

/-- 8-byte items of a work queue, in order. -/
def itemsOf (b : List Byte) : List Dword := (List.range (b.length / 8)).map fun i => BitVec.ofNat 64 (fieldAt b (8 * i) 8)

def State.queueItems (s : State) (id : Word) : List Dword := itemsOf ((s.sealedBytes id).getD [])

/-- The cores that a job could ever be placed on: those of no configured carrier's floor (R414). -/
def State.jobCores (s : State) : List CoreId := allCores.filter fun c => !s.isFloor c

/-- Queued jobs of a mailbox. -/
def State.queuedJobs (s : State) (mb : Nat) : Nat := s.jobs.countP fun j => j.phase == .queued && j.mailbox.toNat == mb

/-- The job as accepted: its packages are this one and the lowest reachable others (R425). -/
def State.newJob (s : State) (f : Frame) (pkgs : Nat) : Job :=
  { id := s.nextJob, mailbox := BitVec.ofNat 4 f.mb, phase := .queued, ranks := ranksOf f, deterministic := f.nat 6 1 == 1
    seed := BitVec.ofNat 64 (f.nat 8 8), faultLimit := BitVec.ofNat 32 (f.nat 0x10 4), bundle := BitVec.ofNat 32 (f.nat 0 4)
    queues := (List.range 4).map fun i => s.queueItems (queueObj f i)
    binds := bindsOf f, pkgs := pkgs, nodes := s.node.toNat :: s.reachable.take (pkgs - 1) }

/-- The lead asks the other job packages for placement (R425, R426). -/
def State.askOthers (s : State) (j : Job) : State :=
  s.toOthers j fun i => .ask (s.refOf j) i
    { nodes := j.nodes, ranks := j.ranks.map fun r => (r.entry, r.footprint, r.affinity), deterministic := j.deterministic, seed := j.seed,
      faultLimit := j.faultLimit }

/-- Checks of JOB_SUBMIT, in the order of log 61. `formatOk` and `pkgCount` are what the firmware reads in the bundle, whose layout the
spec does not give. -/
def submitJob (formatOk : Bool) (pkgCount : Byte) : Handler := fun _ f s =>
  let binds := bindsOf f
  let queues := ((List.range 4).map (queueObj f)).filter (· != 0#32)
  let pkgs := pkgCount.toNat
  .need (submitOk f) stMsgInvalid s <|
  .need (binds.all s.bindable && queues.all fun q => (s.sealedBytes q).isSome) stObjectUnknown s <|
  .need (s.bindsOk binds) stMsgInvalid s <|
  match s.sealedBytes (BitVec.ofNat 32 (f.nat 0 4)) with
  | none => .deny stObjectUnknown s
  | some b =>
    .need (s.checkSigned 2 b == stOk && formatOk && decide (1 ≤ pkgs ∧ pkgs ≤ 8)) stBundleInvalid s <|
    .need (decide (pkgs ≤ s.reachable.length + 1)) stPkgCount s <|
    .need (s.placeable (ranksOf f) s.jobCores) stJobUnplaceable s <|
    .need (decide (s.queuedJobs f.mb < 64)) stQueueFull s <|
      let j := s.newJob f pkgs
      let s := (s.acceptSigned b).extend 11 0x0A f.mb (Sha.sha384 b)
      { payload := leBytes 4 j.id.toNat, state := ({ s with jobs := s.jobs ++ [j], nextJob := s.nextJob + 1#32 }).askOthers j }

/-- JOB_SUBMIT (R414, R425). -/
def execJobSubmit (f : Frame) (formatOk : Bool) (pkgCount : Byte) (s : State) : Out :=
  .next (s.jobRow f 1 (submitJob formatOk pkgCount))

/-! ### Control -/

/-- A request that names a job by its identifier: the job must be known on the mailbox (R412). -/
def onJob (k : Job → State → Reply) : Handler := fun _ f s =>
  .need (f.len 4) stMsgInvalid s <|
  match s.job (BitVec.ofNat 32 (f.nat 0 4)) with
  | none => .deny stJobUnknown s
  | some j => .need (j.mailbox.toNat == f.mb) stJobUnknown s (k j s)

/-- JOB_SUSPEND: a running job only (R228, R414). -/
def execJobSuspend (f : Frame) (s : State) : Out :=
  .next (s.jobRow f 2 (onJob fun j s =>
    .need (j.phase == .running && !j.suspended) stJobState s (.ok (s.suspendJob j.id true))))

/-- JOB_RESUME: a job that the host suspended (R233, R414). -/
def execJobResume (f : Frame) (s : State) : Out :=
  .next (s.jobRow f 3 (onJob fun j s =>
    .need (j.phase == .running && j.hostSusp) stJobState s (.ok (s.allowJob j.id true).resumeAll)))

/-- JOB_KILL: a strike with ST_JOB_KILLED; a job that has ended is ST_JOB_STATE (R414, R419). -/
def execJobKill (f : Frame) (s : State) : Out :=
  .next (s.jobRow f 4 (onJob fun j s =>
    .need (j.phase != .ended) stJobState s (.ok (s.strikeJob j.id stJobKilled).resumeAll)))

/-- JOB_STATUS: Table 16-8. -/
def execJobStatus (f : Frame) (s : State) : Out :=
  .next (s.jobRow f 5 (onJob fun j s => { payload := jobStatusBytes j s.nowNs, state := s }))

end Sys2Proof.Machine
end

