-- ==== Sys2Proof/Machine/CellMsg.lean ====
section
/-!
DEFINITION. Cell control (R251, R266, R413, R415 to R417, R514, Tables 16-9, 16-10, 16-14) and writes of registers that have no row of
their own (R11, R308).
-/
namespace Sys2Proof.Machine

/-! ### CELL_CONFIGURE (R415) -/

/-- The fields of Table 16-9 are in range. g_tx is a finite FP32 value, 0 or greater (DEDUCED, log 118). -/
def cellOk (c : List Byte) : Bool :=
  let n := fun off size => fieldAt c off size
  let zero := fun off size => fieldAt c off size == 0
  c.length == 168 && n 0 1 < 4 && decide (1 ≤ n 1 1 ∧ n 1 1 ≤ 4) && n 2 1 < 2
    && (n 3 1 / 16 < 8 || n 3 1 / 16 == 15) && n 3 1 / 2 % 8 == 0
    && decide (1 ≤ n 7 1 ∧ n 7 1 ≤ 16) && decide (1 ≤ n 6 1 ∧ n 6 1 ≤ 8) && !zero 8 8
    && decide ((signExt 32 (n 0x20 4)).natAbs ≤ 61440000) && n 0x24 2 ≤ 20000 && n 0x26 2 ≤ 20000
    && decide (1 ≤ n 0x34 2 / 2048 ∧ n 0x34 2 / 2048 ≤ 20) && n 0x34 2 / 32 % 8 == 0 && decide (8 ≤ n 0x34 2 % 32 ∧ n 0x34 2 % 32 ≤ 16)
    && decide (1 ≤ n 0x36 2 ∧ n 0x36 2 ≤ 4096) && n 0x38 4 < 0x7F800000 && decide (100 ≤ n 0x3C 4 ∧ n 0x3C 4 ≤ 60000)
    && (if cfgTdd c then decide (1 ≤ cfgPeriod c ∧ cfgPeriod c ≤ 20) else zero 0x42 1) && zero 0x43 1
    && (List.range 20).all (fun i => decide (n (0x44 + 4 * i) 4 < 2 ^ 28) && (List.range 14).all fun m => n (0x44 + 4 * i) 4 / 2 ^ (2 * m) % 4 != 3)
    && (if cfg72 c then [8, 9, 12, 14].contains (n 0x98 1) && zero 0x99 1 else zero 0x94 14) && zero 0xA2 6

/-- Bytes of a field are those of another payload. -/
def sameBytes (a b : List Byte) (off size : Nat) : Bool := (a.drop off).take size == (b.drop off).take size

/-- Everything but the fields that R415 lets a configured carrier change is equal. -/
def cellKeeps (old new : List Byte) : Bool :=
  sameBytes old new 0 0x2A && sameBytes old new 0x36 2 && sameBytes old new 0x42 0x52 && sameBytes old new 0x98 2 && sameBytes old new 0xA2 6
    && (cfg72 old || sameBytes old new 0x94 14)

/-- Two TDD patterns agree, symbol by symbol (R306). -/
def samePattern (a b : List Byte) : Bool :=
  if cfgTdd a && cfgTdd b then
    cfgMu a == cfgMu b && (List.range (cfgPeriod a * cfgPeriod b)).all fun ix => (List.range 14).all fun m => symKind a ix m == symKind b ix m
  else cfgTdd a == cfgTdd b

/-- PA groups of a path mask. -/
def paGroups (m : Nat) : List Nat := (List.range 16).filter fun g => bitsOf m (4 * g) 4 != 0

/-- The home cluster of a payload (R32). -/
def homeOf (c : List Byte) : ClusterId :=
  let p := fieldAt c 3 1 / 16
  if p = 15 then (match fieldAt c 0 1 with | 0 => 0 | 1 => 4 | 2 => 1 | _ => 5) else Fin.ofNat 8 p

/-- The conditions of R415 that answer ST_CELL_INVALID. -/
def State.cellFits (s : State) (c : List Byte) : Bool :=
  let others := allCarriers.filter fun k => (s.carrier k).cfg.isSome
  let js := s.dfe.jsCfg
  others.all (fun k =>
    let o := (s.carrier k).conf
    (s.carrier k).home != homeOf c && cfgRx o &&& cfgRx c == 0 && cfgTx o &&& cfgTx c == 0
      && (samePattern o c || (paGroups (cfgTx o)).all fun g => !(paGroups (cfgTx c)).contains g))
    && bandwidth (cfgMu c) (cfgPrbs c) != 0
    && (cfg72 c || (decide (cfgRx c < 2 ^ linkPaths (rxOpt js)) && decide (cfgTx c < 2 ^ linkPaths (txOpt js))))

/-- Floor and lift cores of a home cluster: closed cores are left out, and an open lift core takes a closed floor core's place (R32, R471). -/
def State.homeCores (s : State) (h : ClusterId) : List CoreId × List CoreId :=
  let core := fun (i : Nat) => (Fin.ofNat 32 (4 * h.val + i) : CoreId)
  let floor := [core 0, core 1].filter fun c => !s.closedCore c
  let lift := [core 2, core 3].filter fun c => !s.closedCore c
  (floor ++ lift.take (2 - floor.length), lift.drop (2 - floor.length))

/-- The reference receiver that the firmware carries (R514). -/
def State.referenceModel (s : State) (pol : List Byte) : Model := hostModel 1#32 [] s.part.refModel s.part.fwKey.toNat pol

/-- The Kuaryo default filter of a bandwidth, a free value, goes into both banks of a carrier (R302, log 5). -/
def State.defaultFilters (s : State) (k : CarrierId) : State :=
  let (ws, s) := s.drawMany 192
  let cells := (List.range 4).flatMap fun b => (List.range 96).map fun t =>
    (k.val * 512 + b * 128 + t, (ws.getD (b / 2 * 96 + t) 0#64).setWidth 32 &&& 0x3FFFF#32)
  s.modDfe fun d => { d with firCoef := cells.foldl (fun (m : Cells 32) e => m.set e.1 e.2) d.firCoef }

/-- A carrier that was not configured is created: its first slot is the first one at least 20 ms on (R514), its cores are claimed, its home
cluster wakes, its gains are gain_init and are loaded (Table 11-12, R523), and step 0 is left (R448). -/
def State.createCarrier (s : State) (k : CarrierId) (c : List Byte) : State :=
  let pol := policyDefault k.val
  let (floor, lift) := s.homeCores (homeOf c)
  let g := BitVec.ofNat 5 (bitsOf (s.dfe.agcOf k.val).toNat 43 5)
  let m := s.referenceModel pol
  let x : Carrier :=
    { cfg := some c, slotIx := slotAt c s.nowNs, home := homeOf c, floor := floor, lift := lift, live := some m, policy := pol,
      gains := (pathsOf (cfgRx c)).foldl (fun (q : Cells 5) p => q.set p g) [], health := (s.carrier k).health }
  let s := (s.setCarrier k { x with firstIx := x.boundaryFrom (s.nowNs + 20000000) }).measureModel k m
  let s := floor.foldl (fun (s : State) q => (s.wakeFor q).claimCore q) s
  let s := (s.defaultFilters k).gainLoad
  if s.power.step = 0#2 && s.power.rising.isNone then s.raiseStep 1#2 else s

def configureCell : Handler := fun _ f s =>
  let c := f.payload
  let k : CarrierId := Fin.ofNat 4 (f.nat 0 1)
  .need (cellOk c) stMsgInvalid s <|
  .need (s.power.state == .active) stPowerState s <|
  match (s.carrier k).cfg with
  | some old =>
    .need (cellKeeps old c) stCfgBusy s <| .ok (s.modCarrier k fun x => { x with change := some c })
  | none => .need (s.cellFits c) stCellInvalid s <| .ok (s.createCarrier k c)

/-- CELL_CONFIGURE (R415, R451). -/
def execCellConfigure (f : Frame) (s : State) : Out := .next (s.row f 0x0A01 configureCell)

/-- A request about one carrier: the number is in range and the carrier is configured. -/
def onCell (ok : Frame → Bool) (r : CarrierId → Frame → State → Reply) : Handler := fun _ f s =>
  let k : CarrierId := Fin.ofNat 4 (f.nat 0 1)
  .need (ok f && f.nat 0 1 < 4) stMsgInvalid s <| .need (s.carrier k).cfg.isSome stCellInvalid s (r k f s)

/-- CELL_REMOVE: the carrier ends at its next slot boundary (R415). -/
def execCellRemove (f : Frame) (s : State) : Out :=
  .next (s.row f 0x0A02 (onCell (fun f => f.len 1) fun k _ s => .ok (s.modCarrier k fun x => { x with removing := true })))

/-- CELL_WEIGHTS: a weight set from a sealed object (R251, R413). -/
def execCellWeights (f : Frame) (s : State) : Out :=
  .next (s.row f 0x0A03 (onCell (fun f => f.len 8 && f.zero 1 1) fun k f s =>
    .need (decide (f.nat 2 2 < 512)) stCellInvalid s <|
    match s.sealedBytes (BitVec.ofNat 32 (f.nat 4 4)) with
    | none => .deny stObjectUnknown s
    | some b => .need (b.length == 2080) stCellInvalid s <| .ok (s.modCarrier k fun x => x.setWeights (f.nat 2 2) s.nowNs b)))

/-- Force the classical receiver, or release it (Table 10-5). -/
def State.forceRx (s : State) (k : CarrierId) (on : Bool) : State :=
  let x := s.carrier k
  let s := s.modCarrier k fun x => { x with force := on }
  if on then (if x.rx == .cOnly then s else s.setRx k .cOnly 2 (s.nowRef k) (0, 0, 0))
  else if x.force && x.rx == .cOnly && (match x.live with | some m => m.validated | none => false) then
    s.setRx k .probation 2 (s.nowRef k) (0, 0, 0)
  else s

/-- CELL_RECEIVER (R266). -/
def execCellReceiver (f : Frame) (s : State) : Out :=
  .next (s.row f 0x0A04 (onCell (fun f => f.len 8 && f.nat 1 1 ≤ 1 && f.zero 2 6) fun k f s => .ok (s.forceRx k (f.nat 1 1 == 1))))

/-- A carrier's training job is running. -/
def State.trainingRuns (s : State) (k : CarrierId) : Bool :=
  match s.trainingJob k with
  | some j => j.phase == .running && !j.suspended
  | none => false

def modelId (m : Option Model) : Nat := match m with | some m => m.id.toNat | none => 0

/-- Table 16-14. -/
def State.cellBytes (s : State) (k : CarrierId) : List Byte :=
  let x := s.carrier k
  match x.cfg with
  | none => leBytes 1 k.val ++ leBytes 199 0
  | some c =>
    let flags := (if x.cand.isSome then 8 else 0) + (if s.trainingRuns k then 4 else 0) + (if x.held then 2 else 0) + (if s.inStep k then 1 else 0)
    leBytes 1 k.val ++ leBytes 1 (if x.removing then 2 else 1) ++ leBytes 1 x.rx.code ++ leBytes 1 flags ++ leBytes 4 (modelId x.live)
      ++ leBytes 4 (modelId x.cand) ++ leBytes 4 (modelId x.prev) ++ leBytes 4 x.pairs ++ leBytes 4 x.failL ++ leBytes 4 x.failC ++ leBytes 4 0 ++ c

def readCell : Handler := fun _ f s =>
  .need (f.len 1 && f.nat 0 1 < 4) stMsgInvalid s { payload := s.cellBytes (Fin.ofNat 4 (f.nat 0 1)), state := s }

/-- CELL_STATUS (R416). -/
def execCellStatus (f : Frame) (s : State) : Out := .next (s.row f 0x0A14 readCell)

/-! ### DFE registers (R308, R417) -/

/-- Register, index and value of an entry of dfe.config. -/
def dfeEntries (f : Frame) : List (Nat × Nat × Nat) :=
  (List.range (f.nat 0 2)).map fun i => (f.nat (8 + 16 * i) 2, f.nat (10 + 16 * i) 2, f.nat (16 + 16 * i) 8)

def dfeShape (f : Frame) : Bool :=
  let n := f.nat 0 2
  decide (1 ≤ n ∧ n ≤ 87) && f.len (8 + 16 * n) && f.zero 2 6 && (List.range n).all fun i => f.zero (12 + 16 * i) 4

/-- The status of the first entry that is rejected. -/
def State.entriesStatus (s : State) (es : List (Nat × Nat × Nat)) : Half :=
  match es.find? fun e => s.entryStatus e.1 e.2.1 e.2.2 != stOk with
  | some e => s.entryStatus e.1 e.2.1 e.2.2
  | none => stOk

def configureDfe : Handler := fun _ f s =>
  let es := dfeEntries f
  .need (dfeShape f) stMsgInvalid s <|
  .need (s.entriesStatus es == stOk) (s.entriesStatus es) s <|
  .ok (es.foldl (fun (s : State) e => s.queueEntry e.1 e.2.1 (BitVec.ofNat 64 e.2.2)) s)

/-- DFE_CONFIG. -/
def execDfeConfig (f : Frame) (s : State) : Out := .next (s.row f 0x0A06 configureDfe)

/-- Registers and indices of Table 16-10; a tap has one of 96 places of its bank. -/
def dfeIndexOk (reg index : Nat) : Bool :=
  match reg with
  | 1 => index < 8
  | 2 => index < 2048 && index % 128 < 96
  | 3 | 5 | 8 | 9 => index < 4
  | 4 | 11 => index < 64
  | 6 => index < 128
  | 7 => index < 16
  | 10 => index == 0
  | _ => false

def readDfe : Handler := fun _ f s =>
  let es := dfeEntries f
  .need (dfeShape f && es.all fun e => dfeIndexOk e.1 e.2.1) stMsgInvalid s
    { payload := leBytes 2 es.length ++ leBytes 6 0
        ++ es.flatMap fun e => leBytes 2 e.1 ++ leBytes 2 e.2.1 ++ leBytes 4 0 ++ leBytes 8 (s.dfe.read e.1 e.2.1).toNat
      state := s }

/-- DFE_READ: the same entries with their values. -/
def execDfeRead (f : Frame) (s : State) : Out := .next (s.row f 0x0A07 readDfe)

/-! ### REGISTER_WRITE -/

/-- Register and index in Table 16-10 of a DFE or JESD204C register. -/
def dfeReg : RegId → Option (Nat × Nat)
  | .dfFirCtl i => some (1, i.val)
  | .dfFirCoef i => some (2, i.toNat)
  | .dfCfr c => some (3, c.val)
  | .dfDpd p => some (4, p.val)
  | .dfRamp c => some (5, c.val)
  | .dfRampTab i => some (6, i.val)
  | .dfMaskBand i => some (7, i.val)
  | .dfAgc c => some (8, c.val)
  | .dfCal c => some (9, c.val)
  | .jsCfg => some (10, 0)
  | _ => none

/-- TU_CTL keeps the ranges of Table 15-3. -/
def tuCtlOk (v : Dword) : Bool :=
  decide (1 ≤ tuSlewMax v ∧ tuSlewMax v ≤ 100) && decide (24 ≤ tuDomain v ∧ tuDomain v ≤ 43)

/-- PM_CTL (Table 18-10). -/
def Power.writeCtl (p : Power) (v : Dword) : Power :=
  { p with capW := BitVec.ofNat 8 (bitsOf v.toNat 24 8), duty := bitsOf v.toNat 16 5, step := BitVec.ofNat 2 (bitsOf v.toNat 12 2),
           ceiling := BitVec.ofNat 2 (bitsOf v.toNat 10 2), vid := BitVec.ofNat 7 (bitsOf v.toNat 2 7) }

/-- PM_CTL reads (Table 18-10). -/
def Power.readCtl (p : Power) : Nat :=
  p.capW.toNat * 2 ^ 24 + p.duty * 2 ^ 16 + p.step.toNat * 2 ^ 12 + p.ceiling.toNat * 2 ^ 10 + p.vid.toNat * 4 + p.state.code

/-- A register write; a value out of its register's range has no effect (log 62), reserved bits stay 0 (R11). -/
def State.writeReg (s : State) (r : RegId) (v : Dword) : State :=
  match dfeReg r with
  | some (reg, index) => if s.entryStatus reg index v.toNat == stOk then s.queueEntry reg index v else s
  | none =>
    match r with
    | .dmPtroot c => s.modCore c fun k => { k with ptRoot := v &&& 0xFFFF03FFFFFFF000#64 }
    | .tuCtl => if tuCtlOk v then s.writeTuCtl v else s
    | .tuRate =>
      let n := v.toNat % 2 ^ 48
      if Config.nominalRate - Config.rateSpan ≤ n ∧ n ≤ Config.nominalRate + Config.rateSpan then s.modTime fun t => { t with rate := BitVec.ofNat 48 n } else s
    | .pmCtl => if bitsOf v.toNat 16 5 ≤ 16 then s.modPower fun p => p.writeCtl v else s
    | _ => s

/-- REGISTER_WRITE: every RW register that has no row of its own. -/
def execRegisterWrite (r : RegId) (v : Dword) (s : State) : Out := .next (s.writeReg r v)

end Sys2Proof.Machine
end

