-- ==== Sys2Proof/Machine/MoreMsg.lean ====
section
/-!
DEFINITION. Time messages (R380, R387, Tables 15-3 and 16-4) and health.read (R480, Tables 19-2 and 19-6).
-/
namespace Sys2Proof.Machine

/-! ### Mailbox 11 -/

def configureTime : Handler := fun _ f s =>
  let v := BitVec.ofNat 64 (f.nat 0 8)
  .need (f.len 8 && tuCtlOk v && v &&& 0xFFC0#64 == 0#64) stMsgInvalid s <| .ok (s.writeTuCtl v)

/-- TIME_CONFIGURE: TU_CTL (Table 15-3). -/
def execTimeConfigure (f : Frame) (s : State) : Out := .next (s.row f 0x0B01 configureTime)

def State.timeBytes (s : State) : List Byte :=
  leBytes 8 (tuStat s.time) ++ s.fullTime ++ leBytes 8 s.time.rate.toNat ++ [s.time.ql] ++ leBytes 7 0

def readTime : Handler := fun _ f s => .need (f.len 0) stMsgInvalid s { payload := s.timeBytes, state := s }

/-- TIME_STATUS (Table 16-4). -/
def execTimeStatus (f : Frame) (s : State) : Out := .next (s.row f 0x0B02 readTime)

def setTimeAlarm : Handler := fun _ f s =>
  let n : Fin 16 := Fin.ofNat 16 (f.nat 0 1)
  .need (f.len 16 && decide (8 ≤ f.nat 0 1 ∧ f.nat 0 1 ≤ 15) && f.nat 1 1 ≤ 2 && f.nat 2 1 ≤ 1 && f.zero 3 3 && f.zero 11 5) stMsgInvalid s <|
    let s := s.setAlarm n { s.time.alarm n with lo := BitVec.ofNat 32 (f.nat 6 4) }
    .ok (s.writeAlarmHi n (BitVec.ofNat 32 (f.nat 2 1 * 2 ^ 31 + f.nat 1 1 * 2 ^ 29 + f.nat 10 1)))

/-- TIME_ALARM: TU_ALARM_LO, then TU_ALARM_HI, of one of the host's alarms (R387). -/
def execTimeAlarm (f : Frame) (s : State) : Out := .next (s.row f 0x0B03 setTimeAlarm)

/-! ### Mailbox 13 -/

def SlotState.code : SlotState → Nat
  | .active => 0
  | .spare => 1
  | .retired => 2
  | .failed => 3
  | .fusedOff => 4

/-- HM_SLOT at a device time in ns (Table 19-2). -/
def SlotRec.word (r : SlotRec) (now : Nat) : Nat :=
  r.state.code * 2 ^ 61 + r.faults24h now * 2 ^ 48 + r.lag.toNat * 2 ^ 32 + r.corr.toNat * 2 ^ 16

/-- A mask of cores. -/
def coreMask (f : CoreId → Bool) : Nat := allCores.foldl (fun (m : Nat) c => if f c then m + 2 ^ c.val else m) 0

def State.healthSummary (s : State) : List Byte :=
  let h := s.health
  leBytes 1 (if s.part.sh9632 then 1 else 0) ++ [0#8] ++ leBytes 2 h.failed.toNat ++ leBytes 2 h.retired.toNat ++ leBytes 2 0
    ++ (List.finRange 8).flatMap (fun k => leBytes 1 ((List.range 18).countP fun i => (s.slot (slotId k i)).state == .spare))
    ++ leBytes 4 (coreMask fun c => s.backed c == 2 || s.backed c == 3) ++ leBytes 4 (coreMask s.closedCore) ++ leBytes 4 h.strikes.toNat
    ++ leBytes 4 h.faults.toNat ++ leBytes 8 h.eccCorr.toNat ++ leBytes 4 h.eccUncorr.toNat ++ leBytes 4 h.frames.toNat

def State.healthCluster (s : State) (k : ClusterId) : List Byte :=
  (List.range 18).flatMap (fun i => leBytes 8 ((s.slot (slotId k i)).word s.nowNs)) ++ leBytes 8 (s.clusters.get k).map.toNat ++ leBytes 8 (s.clusters.get k).map0.toNat

def State.healthCarrier (s : State) (k : CarrierId) : List Byte :=
  let h := (s.carrier k).health
  leBytes 4 h.deadlineMiss.toNat ++ leBytes 4 h.differ.toNat ++ leBytes 8 h.replays.toNat ++ leBytes 4 h.dspReloads.toNat ++ leBytes 4 h.eccUncorr.toNat
    ++ leBytes 8 0

def readHealth : Handler := fun _ f s =>
  let i := f.nat 1 1
  .need (f.len 8 && f.zero 2 6) stMsgInvalid s <|
  match f.nat 0 1 with
  | 0 => { payload := s.healthSummary, state := s }
  | 1 => .need (decide (i < 8)) stMsgInvalid s { payload := s.healthCluster (Fin.ofNat 8 i), state := s }
  | 2 => .need (decide (i < 4)) stMsgInvalid s { payload := s.healthCarrier (Fin.ofNat 4 i), state := s }
  | _ => .deny stMsgInvalid s

/-- HEALTH_READ (R480). -/
def execHealthRead (f : Frame) (s : State) : Out := .next (s.row f 0x0D01 readHealth)

end Sys2Proof.Machine
end

