-- ==== Sys2Proof/Machine/Dispatch.lean ====
section
/-!
DEFINITION. The meaning of each command: one arm per constructor of Instr.
-/
namespace Sys2Proof.Machine

def exec (i : Instr) (s : State) : Host.Outcome State Fault Refusal :=
  match i with
  | .seqNop c w => Sys2Proof.Machine.execSeqNop c w s
  | .seqSeti c w => Sys2Proof.Machine.execSeqSeti c w s
  | .seqAlu c w => Sys2Proof.Machine.execSeqAlu c w s
  | .seqLd c w => Sys2Proof.Machine.execSeqLd c w s
  | .seqSt c w => Sys2Proof.Machine.execSeqSt c w s
  | .seqLoop c w => Sys2Proof.Machine.execSeqLoop c w s
  | .seqSkip c w => Sys2Proof.Machine.execSeqSkip c w s
  | .seqBarrier c w => Sys2Proof.Machine.execSeqBarrier c w s
  | .seqTime c w => Sys2Proof.Machine.execSeqTime c w s
  | .seqEntropy c w => Sys2Proof.Machine.execSeqEntropy c w s
  | .seqQpop c w => Sys2Proof.Machine.execSeqQpop c w s
  | .seqEnd c w => Sys2Proof.Machine.execSeqEnd c w s
  | .engLoada c w => Sys2Proof.Machine.execEngLoada c w s
  | .engStreamb c w => Sys2Proof.Machine.execEngStreamb c w s
  | .engTile c w => Sys2Proof.Machine.execEngTile c w s
  | .engCopyout c w => Sys2Proof.Machine.execEngCopyout c w s
  | .engSplit c w => Sys2Proof.Machine.execEngSplit c w s
  | .engSave c w => Sys2Proof.Machine.execEngSave c w s
  | .engRestore c w => Sys2Proof.Machine.execEngRestore c w s
  | .engFlags c w => Sys2Proof.Machine.execEngFlags c w s
  | .engScales c w => Sys2Proof.Machine.execEngScales c w s
  | .vecChain c w => Sys2Proof.Machine.execVecChain c w s
  | .vecStream c w => Sys2Proof.Machine.execVecStream c w s
  | .vecFlags c w => Sys2Proof.Machine.execVecFlags c w s
  | .dmaArm c w => Sys2Proof.Machine.execDmaArm c w s
  | .dmaAppend c w => Sys2Proof.Machine.execDmaAppend c w s
  | .dmaWait c w => Sys2Proof.Machine.execDmaWait c w s
  | .dmaStake c w => Sys2Proof.Machine.execDmaStake c w s
  | .dmaChstat c w => Sys2Proof.Machine.execDmaChstat c w s
  | .engineCommandComplete c le upper corr => Sys2Proof.Machine.execEngineCommandComplete c le upper corr s
  | .tileAbort c le upper => Sys2Proof.Machine.execTileAbort c le upper s
  | .vectorTileComplete c => Sys2Proof.Machine.execVectorTileComplete c s
  | .descriptorComplete c ch => Sys2Proof.Machine.execDescriptorComplete c ch s
  | .pageFault c ch => Sys2Proof.Machine.execPageFault c ch s
  | .faultResolution job va ptes => Sys2Proof.Machine.execFaultResolution job va ptes s
  | .pageUnresolved job => Sys2Proof.Machine.execPageUnresolved job s
  | .jobPlace cores root ptes images => Sys2Proof.Machine.execJobPlace cores root ptes images s
  | .preemptionPoint c => Sys2Proof.Machine.execPreemptionPoint c s
  | .saveComplete c area => Sys2Proof.Machine.execSaveComplete c area s
  | .resume job rank c => Sys2Proof.Machine.execResume job rank c s
  | .strike job status => Sys2Proof.Machine.execStrike job status s
  | .scrubComplete job region => Sys2Proof.Machine.execScrubComplete job region s
  | .engineFault c le upper fly => Sys2Proof.Machine.execEngineFault c le upper fly s
  | .lagWindow slot busy freeze => Sys2Proof.Machine.execLagWindow slot busy freeze s
  | .uncorrectableError site => Sys2Proof.Machine.execUncorrectableError site s
  | .patrolScrub die corrected => Sys2Proof.Machine.execPatrolScrub die corrected s
  | .clSparemap k companion v => Sys2Proof.Machine.execClSparemap k companion v s
  | .slotBoundary car => Sys2Proof.Machine.execSlotBoundary car s
  | .ulSchedLate car slot => Sys2Proof.Machine.execUlSchedLate car slot s
  | .dlSchedLate car slot => Sys2Proof.Machine.execDlSchedLate car slot s
  | .tbLate car slot pdu => Sys2Proof.Machine.execTbLate car slot pdu s
  | .slotDeadline car slot => Sys2Proof.Machine.execSlotDeadline car slot s
  | .arbitration car slot pdu learned classical => Sys2Proof.Machine.execArbitration car slot pdu learned classical s
  | .pucchDecode car slot pdu => Sys2Proof.Machine.execPucchDecode car slot pdu s
  | .prachDetect car slot pdu samples => Sys2Proof.Machine.execPrachDetect car slot pdu samples s
  | .srsEstimate car slot pdu => Sys2Proof.Machine.execSrsEstimate car slot pdu s
  | .dfeRxSymbol car sym samples => Sys2Proof.Machine.execDfeRxSymbol car sym samples s
  | .dfeTxSymbol car sym ready => Sys2Proof.Machine.execDfeTxSymbol car sym ready s
  | .agcDecision car path => Sys2Proof.Machine.execAgcDecision car path s
  | .gainStep car path => Sys2Proof.Machine.execGainStep car path s
  | .maskMonitor car path dpdTap obsTap => Sys2Proof.Machine.execMaskMonitor car path dpdTap obsTap s
  | .muteClear path => Sys2Proof.Machine.execMuteClear path s
  | .dpdAdapt path obs => Sys2Proof.Machine.execDpdAdapt path obs s
  | .sysrefEdge off => Sys2Proof.Machine.execSysrefEdge off s
  | .laneLockLoss lane => Sys2Proof.Machine.execLaneLockLoss lane s
  | .laneRelock lane => Sys2Proof.Machine.execLaneRelock lane s
  | .uplaneRx car path sym at_ns prbs => Sys2Proof.Machine.execUplaneRx car path sym at_ns prbs s
  | .uplaneTx car sym ready => Sys2Proof.Machine.execUplaneTx car sym ready s
  | .calBurst car sym caps => Sys2Proof.Machine.execCalBurst car sym caps s
  | .calResult car => Sys2Proof.Machine.execCalResult car s
  | .captureRecord car slot pdu tile => Sys2Proof.Machine.execCaptureRecord car slot pdu tile s
  | .captureDrop car slot pdu => Sys2Proof.Machine.execCaptureDrop car slot pdu s
  | .trainSubmit car => Sys2Proof.Machine.execTrainSubmit car s
  | .trainSuspend car => Sys2Proof.Machine.execTrainSuspend car s
  | .candidateValidation car => Sys2Proof.Machine.execCandidateValidation car s
  | .alarmFire n => Sys2Proof.Machine.execAlarmFire n s
  | .tuAlarmLo n v => Sys2Proof.Machine.execTuAlarmLo n v s
  | .tuAlarmHi n v => Sys2Proof.Machine.execTuAlarmHi n v s
  | .ppsOut => Sys2Proof.Machine.execPpsOut s
  | .sync port master origin correction ingress => Sys2Proof.Machine.execSync port master origin correction ingress s
  | .announce port best => Sys2Proof.Machine.execAnnounce port best s
  | .delayResp port master t1 t2 t3 t4 correction => Sys2Proof.Machine.execDelayResp port master t1 t2 t3 t4 correction s
  | .masterLoss => Sys2Proof.Machine.execMasterLoss s
  | .transparentClock fromPort ptpVersion msgType correction tIn tOut => Sys2Proof.Machine.execTransparentClock fromPort ptpVersion msgType correction tIn tOut s
  | .esmc port ql => Sys2Proof.Machine.execEsmc port ql s
  | .synceLock locked => Sys2Proof.Machine.execSynceLock locked s
  | .linkUp p => Sys2Proof.Machine.execLinkUp p s
  | .linkDown p => Sys2Proof.Machine.execLinkDown p s
  | .devHello p => Sys2Proof.Machine.execDevHello p s
  | .sessionTimeout sid => Sys2Proof.Machine.execSessionTimeout sid s
  | .confirmTimeout sid => Sys2Proof.Machine.execConfirmTimeout sid s
  | .devIdentify f => Sys2Proof.Machine.execDevIdentify f s
  | .devPing f => Sys2Proof.Machine.execDevPing f s
  | .netConfigure f => Sys2Proof.Machine.execNetConfigure f s
  | .mboxSubscribe f => Sys2Proof.Machine.execMboxSubscribe f s
  | .devReset f => Sys2Proof.Machine.execDevReset f s
  | .powerSet f => Sys2Proof.Machine.execPowerSet f s
  | .powerStatus f => Sys2Proof.Machine.execPowerStatus f s
  | .bulkAlloc f base => Sys2Proof.Machine.execBulkAlloc f base s
  | .bulkPut f => Sys2Proof.Machine.execBulkPut f s
  | .bulkCommit f => Sys2Proof.Machine.execBulkCommit f s
  | .bulkGet f => Sys2Proof.Machine.execBulkGet f s
  | .bulkFree f => Sys2Proof.Machine.execBulkFree f s
  | .devCerts f der => Sys2Proof.Machine.execDevCerts f der s
  | .sessionOpen f sid => Sys2Proof.Machine.execSessionOpen f sid s
  | .sessionConfirm f => Sys2Proof.Machine.execSessionConfirm f s
  | .sessionClose f => Sys2Proof.Machine.execSessionClose f s
  | .attestQuote f => Sys2Proof.Machine.execAttestQuote f s
  | .fwUpdate f => Sys2Proof.Machine.execFwUpdate f s
  | .keyOwner f => Sys2Proof.Machine.execKeyOwner f s
  | .jobSubmit f formatOk pkgCount => Sys2Proof.Machine.execJobSubmit f formatOk pkgCount s
  | .jobSuspend f => Sys2Proof.Machine.execJobSuspend f s
  | .jobResume f => Sys2Proof.Machine.execJobResume f s
  | .jobKill f => Sys2Proof.Machine.execJobKill f s
  | .jobStatus f => Sys2Proof.Machine.execJobStatus f s
  | .cellConfigure f => Sys2Proof.Machine.execCellConfigure f s
  | .cellRemove f => Sys2Proof.Machine.execCellRemove f s
  | .cellWeights f => Sys2Proof.Machine.execCellWeights f s
  | .cellReceiver f => Sys2Proof.Machine.execCellReceiver f s
  | .cellStatus f => Sys2Proof.Machine.execCellStatus f s
  | .dfeConfig f => Sys2Proof.Machine.execDfeConfig f s
  | .dfeRead f => Sys2Proof.Machine.execDfeRead f s
  | .registerWrite r v => Sys2Proof.Machine.execRegisterWrite r v s
  | .modelLoad f => Sys2Proof.Machine.execModelLoad f s
  | .modelSwap f => Sys2Proof.Machine.execModelSwap f s
  | .modelPolicy f => Sys2Proof.Machine.execModelPolicy f s
  | .dspLoad f => Sys2Proof.Machine.execDspLoad f s
  | .dspStart f => Sys2Proof.Machine.execDspStart f s
  | .dspStop f => Sys2Proof.Machine.execDspStop f s
  | .dspUnload f => Sys2Proof.Machine.execDspUnload f s
  | .dspRead f => Sys2Proof.Machine.execDspRead f s
  | .ulSched f => Sys2Proof.Machine.execUlSched f s
  | .dlSched f => Sys2Proof.Machine.execDlSched f s
  | .dlTb f => Sys2Proof.Machine.execDlTb f s
  | .timeConfigure f => Sys2Proof.Machine.execTimeConfigure f s
  | .timeStatus f => Sys2Proof.Machine.execTimeStatus f s
  | .timeAlarm f => Sys2Proof.Machine.execTimeAlarm f s
  | .twinPair f => Sys2Proof.Machine.execTwinPair f s
  | .twinPairTimeout => Sys2Proof.Machine.execTwinPairTimeout s
  | .twinHeartbeat => Sys2Proof.Machine.execTwinHeartbeat s
  | .twinStatus f => Sys2Proof.Machine.execTwinStatus f s
  | .peerMiss => Sys2Proof.Machine.execPeerMiss s
  | .takeoverBoundary => Sys2Proof.Machine.execTakeoverBoundary s
  | .twinSwitch f => Sys2Proof.Machine.execTwinSwitch f s
  | .plannedSwitch => Sys2Proof.Machine.execPlannedSwitch s
  | .checkpointApply car record => Sys2Proof.Machine.execCheckpointApply car record s
  | .healthRead f => Sys2Proof.Machine.execHealthRead f s
  | .trailFlit port flit num body => Sys2Proof.Machine.execTrailFlit port flit num body s
  | .trailPortDown port links => Sys2Proof.Machine.execTrailPortDown port links s
  | .trailPortUp port nbrNode nbrPort links => Sys2Proof.Machine.execTrailPortUp port nbrNode nbrPort links s
  | .capEvaluation avgMw peakMw => Sys2Proof.Machine.execCapEvaluation avgMw peakMw s
  | .dividerSwitch step => Sys2Proof.Machine.execDividerSwitch step s
  | .thermalLimit tj => Sys2Proof.Machine.execThermalLimit tj s
  | .thermtrip => Sys2Proof.Machine.execThermtrip s
  | .clusterGate k => Sys2Proof.Machine.execClusterGate k s
  | .clusterReady k => Sys2Proof.Machine.execClusterReady k s
  | .engineSlotStart k => Sys2Proof.Machine.execEngineSlotStart k s
  | .wakeEvent cause => Sys2Proof.Machine.execWakeEvent cause s
  | .backupSwitch bkpOk => Sys2Proof.Machine.execBackupSwitch bkpOk s
  | .mainReturn bkpOk => Sys2Proof.Machine.execMainReturn bkpOk s
  | .lanternReset => Sys2Proof.Machine.execLanternReset s
  | .pwrEnRise mainOk bkpOk => Sys2Proof.Machine.execPwrEnRise mainOk bkpOk s
  | .pwrGoodRise straps b => Sys2Proof.Machine.execPwrGoodRise straps b s
  | .pwrGoodFall => Sys2Proof.Machine.execPwrGoodFall s
  | .bootWatchdog => Sys2Proof.Machine.execBootWatchdog s
  | .interruptEntry d cause => Sys2Proof.Machine.execInterruptEntry d cause s
  | .dspFault d slotA slotB => Sys2Proof.Machine.execDspFault d slotA slotB s
  | .watchdog d => Sys2Proof.Machine.execWatchdog d s
  | .dspDmaComplete d ch => Sys2Proof.Machine.execDspDmaComplete d ch s
  | .dsCtl d v => Sys2Proof.Machine.execDsCtl d v s
  | .dspNop d w other => Sys2Proof.Machine.execDspNop d w other s
  | .dspLd d w other => Sys2Proof.Machine.execDspLd d w other s
  | .dspSt d w other => Sys2Proof.Machine.execDspSt d w other s
  | .dspAmov d w other => Sys2Proof.Machine.execDspAmov d w other s
  | .dspLoop d w other => Sys2Proof.Machine.execDspLoop d w other s
  | .dspBr d w other => Sys2Proof.Machine.execDspBr d w other s
  | .dspCall d w other => Sys2Proof.Machine.execDspCall d w other s
  | .dspRet d w other => Sys2Proof.Machine.execDspRet d w other s
  | .dspRti d w other => Sys2Proof.Machine.execDspRti d w other s
  | .dspDma d w other => Sys2Proof.Machine.execDspDma d w other s
  | .dspWait d w other => Sys2Proof.Machine.execDspWait d w other s
  | .dspSig d w other => Sys2Proof.Machine.execDspSig d w other s
  | .dspAdd d w other => Sys2Proof.Machine.execDspAdd d w other s
  | .dspSub d w other => Sys2Proof.Machine.execDspSub d w other s
  | .dspAnd d w other => Sys2Proof.Machine.execDspAnd d w other s
  | .dspOr d w other => Sys2Proof.Machine.execDspOr d w other s
  | .dspXor d w other => Sys2Proof.Machine.execDspXor d w other s
  | .dspShl d w other => Sys2Proof.Machine.execDspShl d w other s
  | .dspShr d w other => Sys2Proof.Machine.execDspShr d w other s
  | .dspSra d w other => Sys2Proof.Machine.execDspSra d w other s
  | .dspMin d w other => Sys2Proof.Machine.execDspMin d w other s
  | .dspMax d w other => Sys2Proof.Machine.execDspMax d w other s
  | .dspCmp d w other => Sys2Proof.Machine.execDspCmp d w other s
  | .dspPf d w other => Sys2Proof.Machine.execDspPf d w other s
  | .dspAddi d w other => Sys2Proof.Machine.execDspAddi d w other s
  | .dspMovi d w other => Sys2Proof.Machine.execDspMovi d w other s
  | .dspCmac d w other => Sys2Proof.Machine.execDspCmac d w other s
  | .dspRmac2 d w other => Sys2Proof.Machine.execDspRmac2 d w other s
  | .dspAccrd d w other => Sys2Proof.Machine.execDspAccrd d w other s
  | .dspAccwr d w other => Sys2Proof.Machine.execDspAccwr d w other s
  | .dspMovc d w other => Sys2Proof.Machine.execDspMovc d w other s
  | .uplaneRxWindowEnd car sym => Sys2Proof.Machine.execUplaneRxWindowEnd car sym s
  | .bankHeaderWritten => Sys2Proof.Machine.execBankHeaderWritten s
  | .bootStatToggle => Sys2Proof.Machine.execBootStatToggle s
  | .lanternPowerLoss => Sys2Proof.Machine.execLanternPowerLoss s
  | .modelLoadComplete car => Sys2Proof.Machine.execModelLoadComplete car s

end Sys2Proof.Machine
end

