-- ==== Sys2Proof/WellFormed.lean ====
section
/-!
DEFINITION. Well-formed commands: the word, the frame or the operand lists belong to the row (log 41). `exec` gives every command its effect,
well-formed or not; a word or a frame of another row changes nothing.
-/
namespace Sys2Proof

/-- A core command carries its row's opcode (Table 9-3). -/
def coreRow (op : Nat) (w : CmdWord) : Bool := w.toNat % 256 == op

/-- A DSP instruction carries its row's opcode (Tables 12-7 and 12-8). -/
def dspRow (op : Nat) (w : Word) : Bool := w.toNat / 2 ^ 26 == op

/-- A datagram keeps Table 16-1: version, mailbox, sizes. -/
def Frame.fits (f : Frame) : Bool :=
  f.vflags.toNat / 32 == 1 && f.mailbox.toNat % 16 == f.typ.toNat / 256 && decide (f.payload.length ≤ 1408)
    && f.length.toNat % 2048 == f.payload.length && f.udpLen == 32 + f.payload.length

/-- A datagram of a message row (Table 16-4). -/
def frameRow (t : Nat) (f : Frame) : Bool := f.typ.toNat == t && f.fits

/-- A datagram of a job row: any of the mailboxes 2 to 9. -/
def jobRow (low : Nat) (f : Frame) : Bool :=
  f.typ.toNat % 256 == low && decide (2 ≤ f.typ.toNat / 256 ∧ f.typ.toNat / 256 ≤ 9) && f.fits

/-- A placement gives each rank one core and one image of at most 4 MiB (R164, R226). -/
def placeFits (cores : List CoreId) (images : List (List Byte)) : Bool :=
  decide (1 ≤ cores.length ∧ cores.length ≤ 32) && cores.length == images.length && images.all fun b => decide (b.length ≤ 0x400000)

/-- Samples of at most 64 paths, as one line per path. -/
def linesFit (lines : List (List (Int × Int))) : Bool := decide (lines.length ≤ 64)

/-- At least eight whole windows of 1,024 samples (R307), or a tap that nobody looks at. -/
def windowsFit (l : List (Int × Int)) : Bool := l.length % 1024 == 0 && (l.isEmpty || decide (8192 ≤ l.length))

def Instr.wf : Instr → Bool
  | .seqNop _ w => coreRow 0x00 w
  | .seqSeti _ w => coreRow 0x01 w
  | .seqAlu _ w => coreRow 0x02 w
  | .seqLd _ w => coreRow 0x03 w
  | .seqSt _ w => coreRow 0x04 w
  | .seqLoop _ w => coreRow 0x05 w
  | .seqSkip _ w => coreRow 0x06 w
  | .seqBarrier _ w => coreRow 0x07 w
  | .seqTime _ w => coreRow 0x08 w
  | .seqEntropy _ w => coreRow 0x09 w
  | .seqQpop _ w => coreRow 0x0A w
  | .seqEnd _ w => coreRow 0x0B w
  | .engLoada _ w => coreRow 0x10 w
  | .engStreamb _ w => coreRow 0x11 w
  | .engTile _ w => coreRow 0x12 w
  | .engCopyout _ w => coreRow 0x13 w
  | .engSplit _ w => coreRow 0x15 w
  | .engSave _ w => coreRow 0x16 w
  | .engRestore _ w => coreRow 0x17 w
  | .engFlags _ w => coreRow 0x18 w
  | .engScales _ w => coreRow 0x19 w
  | .vecChain _ w => coreRow 0x30 w
  | .vecStream _ w => coreRow 0x31 w
  | .vecFlags _ w => coreRow 0x32 w
  | .dmaArm _ w => coreRow 0x60 w
  | .dmaAppend _ w => coreRow 0x61 w
  | .dmaWait _ w => coreRow 0x62 w
  | .dmaStake _ w => coreRow 0x63 w
  | .dmaChstat _ w => coreRow 0x64 w
  | .engineCommandComplete .. => true
  | .tileAbort .. => true
  | .vectorTileComplete .. => true
  | .descriptorComplete .. => true
  | .pageFault .. => true
  | .faultResolution .. => true
  | .pageUnresolved .. => true
  | .jobPlace cores _ _ images => placeFits cores images
  | .preemptionPoint .. => true
  | .saveComplete .. => true
  | .resume .. => true
  | .strike .. => true
  | .scrubComplete .. => true
  | .engineFault .. => true
  | .lagWindow .. => true
  | .uncorrectableError .. => true
  | .patrolScrub .. => true
  | .clSparemap .. => true
  | .slotBoundary .. => true
  | .ulSchedLate .. => true
  | .dlSchedLate .. => true
  | .tbLate .. => true
  | .slotDeadline .. => true
  | .arbitration .. => true
  | .pucchDecode .. => true
  | .prachDetect _ _ _ samples => linesFit samples
  | .srsEstimate .. => true
  | .dfeRxSymbol _ _ samples => linesFit samples
  | .dfeTxSymbol .. => true
  | .agcDecision .. => true
  | .gainStep .. => true
  | .maskMonitor _ _ dpdTap obsTap => windowsFit dpdTap && windowsFit obsTap
  | .muteClear .. => true
  | .dpdAdapt _ obs => obs.length == 8192
  | .sysrefEdge .. => true
  | .laneLockLoss .. => true
  | .laneRelock .. => true
  | .uplaneRx .. => true
  | .uplaneTx .. => true
  | .calBurst _ _ caps => linesFit caps
  | .calResult .. => true
  | .captureRecord .. => true
  | .captureDrop .. => true
  | .trainSubmit .. => true
  | .trainSuspend .. => true
  | .candidateValidation .. => true
  | .alarmFire .. => true
  | .tuAlarmLo .. => true
  | .tuAlarmHi .. => true
  | .ppsOut => true
  | .sync .. => true
  | .announce .. => true
  | .delayResp .. => true
  | .masterLoss => true
  | .transparentClock .. => true
  | .esmc .. => true
  | .synceLock .. => true
  | .linkUp .. => true
  | .linkDown .. => true
  | .devHello .. => true
  | .sessionTimeout .. => true
  | .confirmTimeout .. => true
  | .devIdentify f => frameRow 0x0002 f
  | .devPing f => frameRow 0x0003 f
  | .netConfigure f => frameRow 0x0004 f
  | .mboxSubscribe f => frameRow 0x0005 f
  | .devReset f => frameRow 0x0006 f
  | .powerSet f => frameRow 0x0007 f
  | .powerStatus f => frameRow 0x0008 f
  | .bulkAlloc f _ => frameRow 0x0010 f
  | .bulkPut f => frameRow 0x0011 f
  | .bulkCommit f => frameRow 0x0012 f
  | .bulkGet f => frameRow 0x0013 f
  | .bulkFree f => frameRow 0x0015 f
  | .devCerts f _ => frameRow 0x0101 f
  | .sessionOpen f _ => frameRow 0x0102 f
  | .sessionConfirm f => frameRow 0x0103 f
  | .sessionClose f => frameRow 0x0104 f
  | .attestQuote f => frameRow 0x0105 f
  | .fwUpdate f => frameRow 0x0106 f
  | .keyOwner f => frameRow 0x0107 f
  | .jobSubmit f _ _ => jobRow 1 f
  | .jobSuspend f => jobRow 2 f
  | .jobResume f => jobRow 3 f
  | .jobKill f => jobRow 4 f
  | .jobStatus f => jobRow 5 f
  | .cellConfigure f => frameRow 0x0A01 f
  | .cellRemove f => frameRow 0x0A02 f
  | .cellWeights f => frameRow 0x0A03 f
  | .cellReceiver f => frameRow 0x0A04 f
  | .cellStatus f => frameRow 0x0A14 f
  | .dfeConfig f => frameRow 0x0A06 f
  | .dfeRead f => frameRow 0x0A07 f
  | .registerWrite .. => true
  | .modelLoad f => frameRow 0x0A0A f
  | .modelSwap f => frameRow 0x0A0B f
  | .modelPolicy f => frameRow 0x0A0C f
  | .dspLoad f => frameRow 0x0A0E f
  | .dspStart f => frameRow 0x0A0F f
  | .dspStop f => frameRow 0x0A10 f
  | .dspUnload f => frameRow 0x0A11 f
  | .dspRead f => frameRow 0x0A12 f
  | .ulSched f => frameRow 0x0A20 f
  | .dlSched f => frameRow 0x0A28 f
  | .dlTb f => frameRow 0x0A29 f
  | .timeConfigure f => frameRow 0x0B01 f
  | .timeStatus f => frameRow 0x0B02 f
  | .timeAlarm f => frameRow 0x0B03 f
  | .twinPair f => frameRow 0x0C01 f
  | .twinPairTimeout => true
  | .twinHeartbeat => true
  | .twinStatus f => frameRow 0x0C02 f
  | .peerMiss => true
  | .takeoverBoundary => true
  | .twinSwitch f => frameRow 0x0C03 f
  | .plannedSwitch => true
  | .checkpointApply .. => true
  | .healthRead f => frameRow 0x0D01 f
  | .trailFlit _ flit _ _ => flit.length == 256
  | .trailPortDown .. => true
  | .trailPortUp .. => true
  | .capEvaluation .. => true
  | .dividerSwitch .. => true
  | .thermalLimit .. => true
  | .thermtrip => true
  | .clusterGate .. => true
  | .clusterReady .. => true
  | .engineSlotStart .. => true
  | .wakeEvent .. => true
  | .backupSwitch .. => true
  | .mainReturn .. => true
  | .lanternReset => true
  | .pwrEnRise .. => true
  | .pwrGoodRise .. => true
  | .pwrGoodFall => true
  | .bootWatchdog => true
  | .interruptEntry .. => true
  | .dspFault .. => true
  | .watchdog .. => true
  | .dspDmaComplete .. => true
  | .dsCtl .. => true
  | .dspNop _ w _ => dspRow 0x00 w
  | .dspLd _ w _ => dspRow 0x01 w
  | .dspSt _ w _ => dspRow 0x02 w
  | .dspAmov _ w _ => dspRow 0x03 w
  | .dspLoop _ w _ => dspRow 0x04 w
  | .dspBr _ w _ => dspRow 0x05 w
  | .dspCall _ w _ => dspRow 0x06 w
  | .dspRet _ w _ => dspRow 0x07 w
  | .dspRti _ w _ => dspRow 0x08 w
  | .dspDma _ w _ => dspRow 0x09 w
  | .dspWait _ w _ => dspRow 0x0A w
  | .dspSig _ w _ => dspRow 0x0B w
  | .dspAdd _ w _ => dspRow 0x10 w
  | .dspSub _ w _ => dspRow 0x11 w
  | .dspAnd _ w _ => dspRow 0x12 w
  | .dspOr _ w _ => dspRow 0x13 w
  | .dspXor _ w _ => dspRow 0x14 w
  | .dspShl _ w _ => dspRow 0x15 w
  | .dspShr _ w _ => dspRow 0x16 w
  | .dspSra _ w _ => dspRow 0x17 w
  | .dspMin _ w _ => dspRow 0x18 w
  | .dspMax _ w _ => dspRow 0x19 w
  | .dspCmp _ w _ => dspRow 0x1A w
  | .dspPf _ w _ => dspRow 0x1B w
  | .dspAddi _ w _ => dspRow 0x1D w
  | .dspMovi _ w _ => dspRow 0x1E w
  | .dspCmac _ w _ => dspRow 0x20 w
  | .dspRmac2 _ w _ => dspRow 0x21 w
  | .dspAccrd _ w _ => dspRow 0x22 w
  | .dspAccwr _ w _ => dspRow 0x23 w
  | .dspMovc _ w _ => dspRow 0x3F w
  | .uplaneRxWindowEnd .. => true
  | .bankHeaderWritten => true
  | .bootStatToggle => true
  | .lanternPowerLoss => true
  | .modelLoadComplete .. => true

end Sys2Proof
end

