-- ==== Sys2Proof/Safety.lean ====
section
/-!
DEFINITION. What a safe run is, and the terms in which statements speak.
-/
namespace Sys2Proof.Machine

/-- Memory is in its canonical form: addresses strictly rising, no entry that reads as an unlisted address does. -/
abbrev Memory.wf (m : Cells 8) : Prop := m.wf

/-- A step that does not stop the block. Every step of this model is one (log 1). -/
def Safe (s : State) : Prop := ∃ t, step s = .next t

/-! ### Cores -/

/-- Jobs differ in their counts of records at most (R222). -/
def JobsKept (s t : State) : Prop :=
  t.jobs.map (fun j => { j with counted := 0#32 }) = s.jobs.map (fun j => { j with counted := 0#32 })

/-- Nothing but core `c`, reports and record counts changed. -/
def CoreEffect (s t : State) (c : CoreId) : Prop :=
  t = { s with cores := t.cores, jobs := t.jobs, host := t.host, seqs := t.seqs } ∧ (∀ d, d ≠ c → t.core d = s.core d) ∧ JobsKept s t

/-- A command word is taken at once on a core, as far as what all commands share goes: the core may issue, nothing waits before it, no
write covers its bytes, its fence holds, its fields are legal, its job allows it, and on a claimed lift core what it uses lies in the carrier
window (R177, R178, R211, R212, R214, R220, R227). -/
structure Ready (s : State) (c : CoreId) (w : CmdWord) : Prop where
  may     : s.mayIssue c = true
  first   : (s.ctx c).waiting = []
  fetched : (s.ctx c).pegs.any (fun p => p.hits false (s.ctx c).pc 16) = false
  fence   : fenceOf w = true → (s.ctx c).idle = true
  legal   : opcodeFits w = true ∧ resClear w = true
  bypass  : bypassOf w = true → bypassAllowed (opcodeOf w) = true
  inside  : (s.ctx c).pc ≤ 0x3FFFF0
  marks   : s.deterministic c = true → alwaysV (opcodeOf w) = false ∧ bypassOf w = false
  window  : ∀ t, tryIssue c w s = .go t → s.inWindow c t w = true

/-- The scalar registers of a command are not owed a write (R215). -/
def Free (s : State) (c : CoreId) (rs : List Nat) : Prop := (s.ctx c).regsReady rs = true

/-- The byte ranges of a command meet no live peg, or the command passes them by (R177). -/
def Unpegged (s : State) (c : CoreId) (w : CmdWord) (rs : List Range) : Prop := bypassOf w = true ∨ (s.ctx c).pegsBlock rs = false

/-- An engine command finds its engines: selection, ownership, halves, operands and ranges in order, and room in every queue
(R55, R60, R61, R147, R177, R215, R216). -/
structure EngineReady (s : State) (c : CoreId) (w : CmdWord) : Prop where
  ready  : Ready s c w
  regs   : Free s c (engNeed (s.ctx c) w ((engSel w).map (s.ctx c).engine)).regs
  sel    : engSelOk w = true
  owned  : ∀ e ∈ engSel w, (s.ctx c).pvOwned e = false
  halves : ∀ e ∈ engSel w, halfOk w ((s.ctx c).engine e) = true
  ok     : (engNeed (s.ctx c) w ((engSel w).map (s.ctx c).engine)).ok = true
  image  : opcodeOf w = 0x17 → imageHeaderOk (s.readCore c (imageAddr w) 64) = true
  room   : ∀ e ∈ engSel w, ((s.ctx c).engine e).full (halfOf w) = false
  pegs   : (s.ctx c).pegsBlock (if bypassOf w then [] else (engNeed (s.ctx c) w ((engSel w).map (s.ctx c).engine)).ranges) = false
  work   : zeroSize w = false

/-- On each selected engine the command stands at the end of the queue, under the next serial number of the core, with the attachment it took. -/
def Queued (s t : State) (c : CoreId) (w : CmdWord) : Prop :=
  ∀ e ∈ engSel w, ∃ q : EngCmd, ((t.ctx c).engine e).queue = ((s.ctx c).engine e).queue ++ [q]
    ∧ q.w = w ∧ q.serial = (s.ctx c).serial ∧ q.half = halfOf w ∧ q.attach = (((s.ctx c).engine e).part (halfOf w)).attach

/-- The core and the word of a command row of a core. -/
def coreWord : Instr → Option (CoreId × CmdWord)
  | .seqNop c w => some (c, w)
  | .seqSeti c w => some (c, w)
  | .seqAlu c w => some (c, w)
  | .seqLd c w => some (c, w)
  | .seqSt c w => some (c, w)
  | .seqLoop c w => some (c, w)
  | .seqSkip c w => some (c, w)
  | .seqBarrier c w => some (c, w)
  | .seqTime c w => some (c, w)
  | .seqEntropy c w => some (c, w)
  | .seqQpop c w => some (c, w)
  | .seqEnd c w => some (c, w)
  | .engLoada c w => some (c, w)
  | .engStreamb c w => some (c, w)
  | .engTile c w => some (c, w)
  | .engCopyout c w => some (c, w)
  | .engSplit c w => some (c, w)
  | .engSave c w => some (c, w)
  | .engRestore c w => some (c, w)
  | .engFlags c w => some (c, w)
  | .engScales c w => some (c, w)
  | .vecChain c w => some (c, w)
  | .vecStream c w => some (c, w)
  | .vecFlags c w => some (c, w)
  | .dmaArm c w => some (c, w)
  | .dmaAppend c w => some (c, w)
  | .dmaWait c w => some (c, w)
  | .dmaStake c w => some (c, w)
  | .dmaChstat c w => some (c, w)
  | _ => none

/-- The configuration blocks that VEC_CHAIN and VEC_STREAM name. -/
def chainAt (s : State) (c : CoreId) (w : CmdWord) : Chain := chainOf (s.readCore c (vecAddr w) 256)
def streamAt (s : State) (c : CoreId) (w : CmdWord) : StreamD := streamOf (s.readCore c (vecAddr w) 192)

/-- A chain command finds its block, header, ranges and room in order (R101, R122, R128, R131, R132, R139). -/
structure ChainReady (s : State) (c : CoreId) (w : CmdWord) (hdr : List Byte) : Prop where
  ready   : Ready s c w
  op      : opcodeOf w = 0x30
  block   : vecAddr w % 64 = 0 ∧ vecAddr w + 256 ≤ 0x400000
  fields  : chainFieldsOk (chainAt s c w) (s.readCore c (vecAddr w) 256) (s.jobPkgs c) = true
  regs    : Free s c (chainAt s c w).regs
  scalars : isatOk (s.ctx c) (chainAt s c w).stages = true
  head    : (chainAt s c w).code = 5 → (scalHi ((s.ctx c).sreg ((chainAt s c w).stage 1).sregQ)).toNat % 64 = 0
  whole   : isAttn (chainAt s c w).code = true → ∀ g ∈ (s.ctx c).engines.toList, g.splitNext = false
  even    : (chainAt s c w).code = 0xF → chainFirst w % 2 = 0
  read    : readHdr s c (chainAt s c w).out.hdr = some hdr
  header  : headerOk hdr = true ∧ chainHdrOk (chainAt s c w) hdr = true ∧ deferOk (chainAt s c w) hdr (chainFirst w) = true
  inside  : chainRangesOk (chainAt s c w) hdr (chainFirst w) = true
  room    : (s.ctx c).vec.length < 4
  pegs    : (s.ctx c).pegsBlock (if bypassOf w then [] else (chainReads (chainAt s c w) hdr (chainFirst w)).map (fun r => (false, r))
              ++ (chainWrites (chainAt s c w) hdr (chainFirst w)).map (fun r => (true, r))) = false
  channel : isSend (chainAt s c w).code = true → ((s.ctx c).chan (peerCh (chainAt s c w).s2.raw)).busy = false

/-- A stream command finds its block, header, ranges and room in order (R129, R135, R139). -/
structure StreamReady (s : State) (c : CoreId) (w : CmdWord) (hdr : List Byte) : Prop where
  ready   : Ready s c w
  op      : opcodeOf w = 0x31
  block   : vecAddr w % 64 = 0 ∧ vecAddr w + 192 ≤ 0x400000
  fields  : streamResOk (s.readCore c (vecAddr w) 192) = true ∧ streamFieldsOk (streamAt s c w) = true
  regs    : Free s c ((if (streamAt s c w).g.srcP = 1 then [(streamAt s c w).g.sregP] else [])
              ++ (if (streamAt s c w).g.srcQ = 1 then [(streamAt s c w).g.sregQ] else []))
  scalars : isatOk (s.ctx c) [(streamAt s c w).g] = true
  read    : readHdr s c (streamAt s c w).out.hdr = some hdr
  header  : headerOk hdr = true ∧ hdMode hdr ≠ 2 ∧ (hdMode hdr = 0 → (streamAt s c w).out.scale = 0)
              ∧ (scaledMode hdr = true → (streamAt s c w).planes = 1 ∧ (streamAt s c w).outLen hdr % hdG hdr = 0)
  inside  : streamRangesOk (streamAt s c w) hdr (streamFirst w) = true
  room    : (s.ctx c).vec.length < 4
  pegs    : (s.ctx c).pegsBlock (if bypassOf w then [] else (streamReads (streamAt s c w) (streamFirst w)).map (fun r => (false, r))
              ++ (streamWrites (streamAt s c w) hdr (streamFirst w)).map (fun r => (true, r))) = false

/-- A copy-out to the vector engine finds its chain `v` (R60, R61, R101, R124, R146, R216). -/
structure BindReady (s : State) (c : CoreId) (w : CmdWord) (v : VecOp) : Prop where
  ready  : Ready s c w
  op     : opcodeOf w = 0x13
  dest   : copyDest w = false
  regs   : Free s c (if copyMaskEn w then [copyMaskReg w] else [])
  sel    : engSelOk w = true
  owned  : ∀ e ∈ engSel w, (s.ctx c).pvOwned e = false
  halves : ∀ e ∈ engSel w, halfOk w ((s.ctx c).engine e) = true
  ok     : (engNeed (s.ctx c) w ((engSel w).map (s.ctx c).engine)).ok = true
  bound  : bindTo (s.ctx c) = some v
  suits  : bindStatus v w (((s.ctx c).engine ((engSel w).headD 0)).part (halfOf w)) = none
  room   : ∀ e ∈ engSel w, ((s.ctx c).engine e).full (halfOf w) = false

/-- An arming or appending command finds its descriptor `d` in order (R184 to R192, R220). -/
structure ArmReady (s : State) (c : CoreId) (w : CmdWord) (d : List Byte) : Prop where
  ready   : Ready s c w
  read    : d = s.readCore c (dmaAddr w) 64
  place   : dmaAddr w % 64 = 0 ∧ dmaAddr w + 64 ≤ 0x400000
  marks   : s.deterministic c = true → ddOp d ≠ 3
  fields  : ddOk d = true ∧ ddTargetOk (s.coreJob c) d = true
  idle    : (s.ctx c).addrLive (dmaAddr w) = false ∧ ((s.ctx c).chan (dmaCh w)).holder = none
  own     : (s.ctx c).pegsBlock [(false, dmaAddr w, 64)] = false
  pegs    : (s.ctx c).pegsBlock ((false, dmaAddr w, 64) :: if bypassOf w then [] else ddRanges d) = false

/-- What the completion of command `q` of an engine touches: the core, its memory, reports and counts; the command leaves its engine and
no other engine of the core changes. -/
structure EngineEnds (s t : State) (c : CoreId) (le : Nat) (q : EngCmd) : Prop where
  frame  : t = { s with cores := t.cores, mem := t.mem, jobs := t.jobs, host := t.host, seqs := t.seqs }
  others : ∀ d, d ≠ c → t.core d = s.core d
  jobs   : JobsKept s t
  stream : (t.ctx c).pc = (s.ctx c).pc ∧ (t.ctx c).loops = (s.ctx c).loops ∧ (t.ctx c).chans = (s.ctx c).chans ∧ (t.ctx c).stakes = (s.ctx c).stakes
  queue  : ((t.ctx c).engine le).queue = ((s.ctx c).engine le).queue.filter (fun k => k.serial != q.serial)
  rest   : ∀ e, e % 4 ≠ le % 4 → (t.ctx c).engine e = (s.ctx c).engine e

/-- The half that a completion row names on an engine (R54). -/
def partOf (g : Engine) (upper : Bool) : BitVec 2 := if upper then 3#2 else if g.split then 2#2 else 0#2

/-! ### Reports -/

/-- Every subscribed session of a port that takes a message has it queued, unless its queue is full or its sequence numbers are used up
(R402, R408). -/
def Notified (s t : State) (typ : Nat) (st : Half) (payload : List Byte) (ok : Port → Bool) : Prop :=
  (s.host.sessions.map (·.id)).Nodup → ∀ sid ∈ s.listeners (typ / 256) ok, ∀ x, s.session sid = some x → x.txSeq ≠ 0xFFFFFFFF#32 →
    s.queuedUnsol sid < 256 → ∃ m ∈ t.host.txq, m.session = sid ∧ m.typ = BitVec.ofNat 16 typ ∧ m.unsol = true ∧ m.status = st ∧ m.payload = payload

/-- The last record of the event log is this one, under the next number of its source (R388, Table 15-7). -/
def Logged (s t : State) (src : Word) (kind : Nat) (st : Half) (payload : List Byte) : Prop :=
  t.events.getLast? = some (eventBytes src (s.seqs.get src.toNat) s.shortTime s.time.epoch kind st payload)

/-- The host port, where health, job and model messages go (Table 16-4). -/
def hostPort (p : Port) : Bool := p == .host

/-- A slot message is taken: the device runs, the frame is authentic, in order and well formed, on a 100G port of an open session (R395 to
R402, R411). -/
structure Slotted (s : State) (f : Frame) (x : Session) : Prop where
  runs   : s.boot.phase = .running
  comes  : s.reaches f = true
  formed : f.wellFormed = true
  port   : isPort100G f.port = true
  prot   : f.prot = true
  sess   : s.session f.session = some x
  auth   : x.accepts f = true
  claim  : x.claim = false
  clean  : f.clean = true

/-- A request is taken up: the device runs, the frame is authentic, in order, well formed and clean, of a known type on an allowed port of an
open session, neither a duplicate nor stale nor over the limit of a mailbox (R395 to R406). The session has sequence numbers left. -/
structure Admitted (s : State) (f : Frame) (x : Session) : Prop where
  runs   : s.boot.phase = .running
  comes  : s.reaches f = true
  formed : f.wellFormed = true
  line   : f.port ≠ .guy
  prot   : f.prot = true
  sess   : s.session f.session = some x
  ids    : (s.host.sessions.map (·.id)).Nodup
  auth   : x.accepts f = true
  opened : x.isOpen = true
  claim  : x.claim = false
  clean  : f.clean = true
  known  : knownType f.typ.toNat = true
  place  : portAllowed f.typ.toNat f.port = true
  fresh  : ∀ k ∈ x.tokens, ¬ (k.mailbox.toNat = f.mb ∧ k.token = f.token)
  recent : x.stale f.mb f.token = false
  room   : s.outstanding f.session f.mb < 64
  seqs   : x.txSeq.toNat + 65536 < 2 ^ 32

/-- The response to a request is queued, with the request's token (R398, R404, R419: a response other than ST_OK has no payload). -/
def Answered (t : State) (f : Frame) (st : Half) (payload : List Byte) : Prop :=
  ∃ m ∈ t.host.txq, m.session = f.session ∧ m.typ = f.typ ∧ m.resp = true ∧ m.unsol = false ∧ m.token = f.token ∧ m.status = st
    ∧ m.payload = if st = 0x0000#16 then payload else []

/-- A request that only reads: its response is all that it leaves beside the session's own account. -/
def Reads (s t : State) : Prop :=
  t = { s with host := { s.host with sessions := t.host.sessions, txq := t.host.txq } } ∧ t.host.sessions.map (·.id) = s.host.sessions.map (·.id)

/-- The datagram of a message row. -/
def frameOf : Instr → Option Frame
  | .devIdentify f => some f
  | .devPing f => some f
  | .netConfigure f => some f
  | .mboxSubscribe f => some f
  | .devReset f => some f
  | .powerSet f => some f
  | .powerStatus f => some f
  | .bulkAlloc f _ => some f
  | .bulkPut f => some f
  | .bulkCommit f => some f
  | .bulkGet f => some f
  | .bulkFree f => some f
  | .devCerts f _ => some f
  | .sessionOpen f _ => some f
  | .sessionConfirm f => some f
  | .sessionClose f => some f
  | .attestQuote f => some f
  | .fwUpdate f => some f
  | .keyOwner f => some f
  | .jobSubmit f _ _ => some f
  | .jobSuspend f => some f
  | .jobResume f => some f
  | .jobKill f => some f
  | .jobStatus f => some f
  | .cellConfigure f => some f
  | .cellRemove f => some f
  | .cellWeights f => some f
  | .cellReceiver f => some f
  | .cellStatus f => some f
  | .dfeConfig f => some f
  | .dfeRead f => some f
  | .modelLoad f => some f
  | .modelSwap f => some f
  | .modelPolicy f => some f
  | .dspLoad f => some f
  | .dspStart f => some f
  | .dspStop f => some f
  | .dspUnload f => some f
  | .dspRead f => some f
  | .ulSched f => some f
  | .dlSched f => some f
  | .dlTb f => some f
  | .timeConfigure f => some f
  | .timeStatus f => some f
  | .timeAlarm f => some f
  | .twinPair f => some f
  | .twinStatus f => some f
  | .twinSwitch f => some f
  | .healthRead f => some f
  | _ => none

/-- A row of a slot message, which gets no response (R411). -/
def slotRow : Instr → Bool
  | .ulSched _ => true
  | .dlSched _ => true
  | .dlTb _ => true
  | _ => false

/-! ### Twin -/

/-- The payload of twin.event (Table 17-11). -/
def twinRecord (s : State) (kind carriers : Nat) (resets : List Nat) (boundary : Nat) : List Byte :=
  leBytes 1 kind ++ leBytes 1 s.twin.role.code ++ leBytes 1 carriers ++ [0#8] ++ leBytes 4 s.twin.peerBeat.toNat ++ s.fullTime
    ++ allCarriers.flatMap (fun k => leBytes 4 (s.carrier k).lastCkpt.toNat) ++ (List.range 4).flatMap (fun i => leBytes 2 (resets.getD i 0)) ++ leBytes 8 boundary

/-- No command waits at issue on any core. -/
def Quiet (s : State) : Prop := ∀ c, (s.ctx c).waiting = []

/-- No stream stands at a DMA_WAIT. -/
def NoDmaWait (s : State) : Prop := ∀ c u us, (s.ctx c).waiting = u :: us → opcodeOf u ≠ 0x62

/-- A saved context on a core again: under the core's backed slots, its pegs retaken, its commands on the slots that are mapped now (R205, R230,
R233, R469). -/
def resumedCtx (s : State) (c : CoreId) (x : Ctx) : Ctx :=
  (List.range 4).foldl (fun y e => y.modEngine e fun g => { g with queue := g.queue.map fun q => { q with slot := s.cmdSlot c e q.run } })
    (x.rebase (s.backed c)).retake

/-! ### Radio DSP cores -/

/-- A bundle issues on a core: the core runs, no bundle is held, the bundle is legal, faults nowhere and waits for nothing (R325, R326,
R331, R333 to R335, R341). -/
structure BundleReady (s : State) (d : DspId) (a b : Word) : Prop where
  runs  : (s.dsp d).runs = true
  held  : (s.dsp d).held = none
  legal : (s.dsp d).cycle.legal a b = true
  fault : (s.dsp d).cycle.faultA (s.winOk d) a = none
  ready : (s.dsp d).cycle.holdA a = false

/-- The register that a pending write goes to. -/
def homeDest : DspDest → DspDest
  | .acLow i => .ac i
  | e => e

/-- What issuing a bundle leaves alone: other cores, the register files (results are still on their way), earlier pending writes, memory but
for a store, channels but for DMA and WAIT, control registers but for FL, the loop registers and the link. -/
structure Bundle (s t : State) (d : DspId) (a b : Word) : Prop where
  only   : t = { s with dsps := t.dsps, host := t.host, freeCtr := s.freeCtr + 4 }
  quiet  : opOf a ≠ 0x0B → t.host = s.host
  others : ∀ e, e ≠ d → t.dsp e = s.dsp e
  regs   : (t.dsp d).d = (s.dsp d).cycle.d ∧ (t.dsp d).a = (s.dsp d).cycle.a ∧ (t.dsp d).o = (s.dsp d).cycle.o ∧ (t.dsp d).ac = (s.dsp d).cycle.ac
  mem    : opOf a ≠ 0x02 → (t.dsp d).mem = (s.dsp d).mem
  chans  : opOf a ≠ 0x09 → opOf a ≠ 0x0A → (t.dsp d).chans = (s.dsp d).chans
  ctl    : ∀ i, i < 32 → i = 0 ∨ (1 ≤ i ∧ i ≤ 6) ∨ i = 31 ∨ (t.dsp d).ctlReg i = (s.dsp d).cycle.ctlReg i
  kept   : ∀ p ∈ (s.dsp d).cycle.pend, p ∈ (t.dsp d).pend
  pend   : ∀ p ∈ (t.dsp d).pend, p ∈ (s.dsp d).cycle.pend ∨ homeDest p.dest ∈ destsA a ++ destsB b
  still  : (t.dsp d).ctl = (s.dsp d).ctl ∧ (t.dsp d).halted = false ∧ (t.dsp d).held = none ∧ (t.dsp d).cause = (s.dsp d).cause

/-- A result is on its way: destination, value, and the issue cycles until it lands. -/
def Sends (t : State) (d : DspId) (left : Nat) (dest : DspDest) (v : BitVec 64) (mac : Bool) : Prop :=
  { left := left, dest := dest, val := v, mac := mac : DspPend } ∈ (t.dsp d).pend

/-- Half of a word. -/
def lane (v : Word) (i : Nat) : BitVec 16 := v.extractLsb' (16 * i) 16

/-- A value held inside `lo` to `hi`. -/
def clampTo (lo hi v : Int) : Int := max lo (min hi v)

/-- An integer is another divided by a power of two, to nearest, ties to even. -/
def RoundsTo (q a : Int) (sh : Nat) : Prop := 2 * (q * 2 ^ sh - a).natAbs ≤ 2 ^ sh ∧ (2 * (q * 2 ^ sh - a).natAbs = 2 ^ sh → q % 2 = 0)

/-- The core goes on to the next bundle: no branch is in its delay bundles and no loop body ends here (R333, R334). -/
def Straight (x : Dsp) : Prop :=
  x.branch = none ∧ ∀ b, (b = 1 ∨ b = 4) → (x.ctlReg (b + 2)).toNat = x.pc.toNat → (x.ctlReg b).toNat ≤ 1

end Sys2Proof.Machine
end

