-- ==== Sys2Proof/Certificates/Slice0/Obligations.lean ====
section
/-!
DEFINITION. The statements for the provers.
-/
open Sys2Proof Sys2Proof.Machine


/-- A step runs the command at the front of the queue on the state with the queue's rest. -/
def Obligations.StepRunsCommand : Prop :=
  ∀ (c : Instr) (s : State), step { s with pending := c :: s.pending } = exec c s

/-! ### Core sequencers -/

/-- SEQ_NOP, SEQ_SETI, SEQ_TIME and SEQ_BARRIER (Table 9-2).

SEQ_ENTROPY writes a free value, a new one each time; SEQ_QPOP takes the next item of a work queue, or all ones (Table 9-2). -/
def Obligations.SequencerRegistersAndSources : Prop :=
  (∀ (s : State) (c : CoreId) (w : CmdWord), Ready s c w →
     let x := s.ctx c
     (opcodeOf w = 0x00 → ∃ t, exec (.seqNop c w) s = .next t ∧ CoreEffect s t c ∧ t.ctx c = x.advance)
     ∧ (opcodeOf w = 0x01 → Free s c [sdOf w] →
         ∃ t, exec (.seqSeti c w) s = .next t ∧ CoreEffect s t c ∧ t.ctx c = (x.setSreg (sdOf w) (BitVec.ofNat 64 (cbits w 32 64))).advance)
     ∧ (opcodeOf w = 0x08 → Free s c [sdOf w] →
         ∃ t, exec (.seqTime c w) s = .next t ∧ CoreEffect s t c
           ∧ t.ctx c = (x.setSreg (sdOf w) (BitVec.ofNat 64 (s.time.acc.toNat / 2 ^ 32))).advance)
     ∧ (opcodeOf w = 0x07 → x.maskIdle (cbits w 120 8) = true →
         ∃ t, exec (.seqBarrier c w) s = .next t ∧ CoreEffect s t c ∧ t.ctx c = x.advance))
  ∧ (∀ (s : State) (c : CoreId) (w : CmdWord), Ready s c w → Free s c [sdOf w] →
     let x := s.ctx c
     (opcodeOf w = 0x09 → ∃ t, exec (.seqEntropy c w) s = .next t ∧ CoreEffect { s with freeCtr := s.freeCtr + 1 } t c
         ∧ t.ctx c = (x.setSreg (sdOf w) (Config.freeWord s.freeCtr)).advance)
     ∧ (opcodeOf w = 0x0A → ∀ j, s.coreJob c = some j →
         (∀ v vs, j.queues[qpopQ w]? = some (v :: vs) → ∃ t j', exec (.seqQpop c w) s = .next t ∧ t.ctx c = (x.setSreg (sdOf w) v).advance
             ∧ t.job j.id = some j' ∧ j'.queues = j.queues.set (qpopQ w) vs)
         ∧ (j.queues.getD (qpopQ w) [] = [] → ∃ t j', exec (.seqQpop c w) s = .next t
             ∧ t.ctx c = (x.setSreg (sdOf w) 0xFFFFFFFFFFFFFFFF#64).advance ∧ t.job j.id = some j' ∧ j'.queues = j.queues)))

/-- SEQ_ALU (Table 9-2): the operations of its op field. -/
def Obligations.SequencerArithmetic : Prop :=
  ∀ (s : State) (c : CoreId) (w : CmdWord), Ready s c w → opcodeOf w = 0x02 → aluOp w < 15 →
    Free s c ([sdOf w, aluA w] ++ if aluImm w then [] else [aluB w]) →
    let x := s.ctx c
    let a := x.sreg (aluA w)
    let b := if aluImm w then BitVec.ofNat 64 (cbits w 32 64) else x.sreg (aluB w)
    ∃ t v, exec (.seqAlu c w) s = .next t ∧ CoreEffect s t c ∧ t.ctx c = (x.setSreg (sdOf w) v).advance
      ∧ (aluOp w = 0 → v = a + b) ∧ (aluOp w = 1 → v = a - b) ∧ (aluOp w = 2 → v = a &&& b) ∧ (aluOp w = 3 → v = a ||| b)
      ∧ (aluOp w = 4 → v = a ^^^ b) ∧ (aluOp w = 5 → v = a <<< (b.toNat % 64)) ∧ (aluOp w = 6 → v = a >>> (b.toNat % 64))
      ∧ (aluOp w = 7 → v = a.sshiftRight (b.toNat % 64)) ∧ (aluOp w = 8 → v = a * b)
      ∧ (aluOp w = 9 → v.toInt = min a.toInt b.toInt) ∧ (aluOp w = 10 → v.toInt = max a.toInt b.toInt)
      ∧ (aluOp w = 11 → v = if a.toInt < b.toInt then 1#64 else 0#64) ∧ (aluOp w = 12 → v = if a = b then 1#64 else 0#64)
      ∧ (aluOp w = 13 → v = (fadd (a.setWidth 32) (b.setWidth 32)).setWidth 64)
      ∧ (aluOp w = 14 → v = (fmul (a.setWidth 32) (b.setWidth 32)).setWidth 64)

/-- SEQ_LD and SEQ_ST (Table 9-2): a load reads, and a store writes, its 4 or 8 bytes of the core's memory and no others. -/
def Obligations.SequencerMemory : Prop :=
  ∀ (s : State) (c : CoreId) (w : CmdWord), Ready s c w →
    let x := s.ctx c
    let a := ldAddress x w
    let n := ldSize w
    Free s c (ldRegs w) → a % n = 0 →
    (opcodeOf w = 0x03 → Unpegged s c w [(false, a, n)] →
        ∃ t, exec (.seqLd c w) s = .next t ∧ CoreEffect s t c
          ∧ t.ctx c = (x.setSreg (sdOf w) (BitVec.ofNat 64 (leNat (s.mem.slice (coreAddr c a) n)))).advance)
    ∧ (opcodeOf w = 0x04 → Unpegged s c w [(true, a, n)] →
        ∃ t, exec (.seqSt c w) s = .next t ∧ CoreEffect { s with mem := t.mem } t c ∧ t.ctx c = x.advance
          ∧ t.mem.slice (coreAddr c a) n = leBytes n (x.sreg (sdOf w)).toNat
          ∧ ∀ p, p < coreAddr c a ∨ coreAddr c a + n ≤ p → t.mem.get p = s.mem.get p)

/-- SEQ_LOOP and SEQ_SKIP (R218, Table 9-2): where the program counter goes.

SEQ_END ends its rank once everything before it is complete; with its last rank on every package the job ends with ST_OK, and on a package other
than its lead the lead is told (R214, R425, Table 9-2). -/
def Obligations.SequencerControlAndEnd : Prop :=
  (∀ (s : State) (c : CoreId) (w : CmdWord), Ready s c w →
     let x := s.ctx c
     (opcodeOf w = 0x05 →
       let start := x.pc + 16
       let stop := start + 16 * loopBody w
       let n := if loopUseImm w then loopImm w else (x.sreg (sdOf w)).toNat
       1 ≤ loopBody w → x.loops.length < 4 → (∀ f fs, x.loops = f :: fs → stop ≤ f.stop) →
       Free s c (loopIdx w :: if loopUseImm w then [] else [sdOf w]) →
       ∃ t, exec (.seqLoop c w) s = .next t ∧ CoreEffect s t c
         ∧ (n = 0 → t.ctx c = x.jump stop)
         ∧ (0 < n → t.ctx c = { x with
             pc := start
             loops := { start := start, stop := stop, count := BitVec.ofNat 64 n, index := 0#64, sidx := BitVec.ofNat 6 (loopIdx w) } :: x.loops
             sregs := (x.setSreg (loopIdx w) 0#64).sregs }))
     ∧ (opcodeOf w = 0x06 →
       let target := x.pc + 16 + 16 * skipN w
       let a := x.sreg (sdOf w)
       let b := x.sreg (skipB w)
       let holds := (skipCond w = 0 ∧ a = b) ∨ (skipCond w = 1 ∧ a ≠ b) ∨ (skipCond w = 2 ∧ a.toInt < b.toInt) ∨ (skipCond w = 3 ∧ b.toInt ≤ a.toInt)
         ∨ (skipCond w = 4 ∧ a.toNat < b.toNat) ∨ (skipCond w = 5 ∧ b.toNat ≤ a.toNat)
       skipCond w < 6 → 1 ≤ skipN w → (∀ f fs, x.loops = f :: fs → target ≤ f.stop) → Free s c [sdOf w, skipB w] →
       ∃ t, exec (.seqSkip c w) s = .next t ∧ CoreEffect s t c ∧ (holds → t.ctx c = x.jump target) ∧ (¬ holds → t.ctx c = x.advance)))
  ∧ (∀ (s : State) (c : CoreId) (w : CmdWord) (id : Word) (r : Nat) (j : Job), Ready s c w → opcodeOf w = 0x0B → (s.ctx c).idle = true →
     (s.core c).owner = .rank id r → s.job id = some j → j.phase = .running → r < j.ranks.length →
     ∃ t j', exec (.seqEnd c w) s = .next t ∧ t.job id = some j'
       ∧ ((∃ q ∈ j.ranks.eraseIdx r, q.ended = false) → (t.core c).stopped = true ∧ (t.ctx c) = s.ctx c ∧ j'.phase = j.phase
           ∧ (∀ q, j'.ranks[r]? = some q → q.ended = true) ∧ j'.ranks.eraseIdx r = j.ranks.eraseIdx r)
       ∧ ((∀ q ∈ j.ranks.eraseIdx r, q.ended = true) → j.lead = none → (∀ i, 0 < i → i < j.pkgs → i ∈ j.doneBy) →
           j'.phase = .ended ∧ j'.status = 0x0000#16 ∧ (t.core c).owner = .none)
       ∧ ((∀ q ∈ j.ranks.eraseIdx r, q.ended = true) → (j.lead.isSome = true ∨ ∃ i, 0 < i ∧ i < j.pkgs ∧ i ∉ j.doneBy) →
           j'.phase = .running ∧ (t.core c).stopped = true ∧ (t.core c).owner = .rank id r))

/-! ### Engines, the vector engine and DMA at issue -/

/-- Engine commands at issue (R60, R92, R216, Table 2-9): they enter the queues of the engines they select.

DMA commands at issue (R184, R188, R192 to R194): arming and appending a descriptor, waiting on a stake, writing one, reading a channel. -/
def Obligations.EngineAndDmaCommandsIssue : Prop :=
  (∀ (s : State) (c : CoreId) (w : CmdWord),
     let issues := fun (i : Instr) (op : Nat) =>
       opcodeOf w = op → EngineReady s c w → (op = 0x13 → copyDest w = true) →
         ∃ t, exec i s = .next t ∧ CoreEffect s t c ∧ Queued s t c w ∧ (t.ctx c).serial = (s.ctx c).serial + 1 ∧ (t.ctx c).sregs = ((s.ctx c).advance).sregs
     issues (.engLoada c w) 0x10 ∧ issues (.engStreamb c w) 0x11 ∧ issues (.engTile c w) 0x12 ∧ issues (.engCopyout c w) 0x13
       ∧ issues (.engSplit c w) 0x15 ∧ issues (.engSave c w) 0x16 ∧ issues (.engRestore c w) 0x17 ∧ issues (.engFlags c w) 0x18
       ∧ issues (.engScales c w) 0x19)
  ∧ (∀ (s : State) (c : CoreId) (w : CmdWord),
     let x := s.ctx c
     let k := x.chan (dmaCh w)
     let entry := fun (d : List Byte) =>
       ({ serial := x.serial, w := w, addr := BitVec.ofNat 22 (dmaAddr w), bytes := d, ahead := (takeAhead w d (s.core c).ahead).1 } : DmaDesc)
     let starts := fun (i : Instr) (op : Nat) => ∀ d, ArmReady s c w d → NoDmaWait s → opcodeOf w = op → k.descs = [] →
       ∃ t, exec i s = .next t ∧ ((t.ctx c).chan (dmaCh w)).status = 0x0000#16
         ∧ (ddEmpty d = false → CoreEffect s t c ∧ (t.ctx c).chan (dmaCh w) = { k with
             descs := [entry d], addr := BitVec.ofNat 22 (dmaAddr w), gen := BitVec.ofNat 16 (ddGen d), status := 0x0000#16, row := 0#32,
             offset := 0#24, susp := false, cond := 0#16 } ∧ (t.core c).ahead = (takeAhead w d (s.core c).ahead).2)
         ∧ (ddEmpty d = true → ((t.ctx c).chan (dmaCh w)).descs = [])
     starts (.dmaArm c w) 0x60 ∧ starts (.dmaAppend c w) 0x61
     ∧ (∀ d, ArmReady s c w d → NoDmaWait s → opcodeOf w = 0x61 → 1 ≤ k.descs.length → k.descs.length ≤ 4 →
       ∃ t, exec (.dmaAppend c w) s = .next t ∧ CoreEffect s t c ∧ (t.ctx c).chan (dmaCh w) = { k with descs := k.descs ++ [entry d] })
     ∧ (Ready s c w → opcodeOf w = 0x62 → 0 ≤ (x.stake (stakeOf w) - stakeValue w).toInt →
       ∃ t, exec (.dmaWait c w) s = .next t ∧ CoreEffect s t c ∧ t.ctx c = x.advance)
     ∧ (Ready s c w → opcodeOf w = 0x62 → (x.stake (stakeOf w) - stakeValue w).toInt < 0 →
       ∃ t, exec (.dmaWait c w) s = .next t ∧ t.mem = s.mem ∧ t.ctx c = { x with waiting := [w] })
     ∧ (Ready s c w → opcodeOf w = 0x63 → ∃ t, exec (.dmaStake c w) s = .next t ∧ CoreEffect s t c
       ∧ t.ctx c = (x.setStake (stakeOf w) (if stakeAdd w then x.stake (stakeOf w) + stakeValue w else stakeValue w)).advance)
     ∧ (Ready s c w → opcodeOf w = 0x64 → Free s c [flagsSreg w] → ∃ t, exec (.dmaChstat c w) s = .next t ∧ CoreEffect s t c
       ∧ t.ctx c = (x.setSreg (flagsSreg w) k.statWord).advance))

/-- ENG_COPYOUT to the vector engine (dest = 0) binds to the earliest chain that lacks tiles and enters its engines (R101, R124).

Vector commands at issue (R122, R128, R134, R135): a chain or stream with tiles left enters the vector engine with its block, its header
and its first tile; one without tiles completes at once; VEC_FLAGS takes its turn, and at the head gives VE_FLAGS and clears it on request. -/
def Obligations.VectorAndCopyoutIssue : Prop :=
  (∀ (s : State) (c : CoreId) (w : CmdWord) (v : VecOp), BindReady s c w v →
     let x := s.ctx c
     ∃ t inp, exec (.engCopyout c w) s = .next t ∧ CoreEffect s t c
       ∧ (t.ctx c).vec = x.vec.map (fun o => if o.serial = v.serial then { o with inputs := o.inputs ++ [inp] } else o)
       ∧ inp.serial = x.serial ∧ inp.cols = copyN w ∧ inp.withIdx = copyIdx w
       ∧ (zeroSize w = false → inp.got = [] ∧ ∀ e ∈ engSel w, ∃ q : EngCmd,
           ((t.ctx c).engine e).queue = (x.engine e).queue ++ [q] ∧ q.w = w ∧ q.bind = some v.serial)
       ∧ (zeroSize w = true → inp.rows = [] ∧ inp.got.map (·.1) = engSel w ∧ ∀ e, ((t.ctx c).engine e).queue = (x.engine e).queue))
  ∧ (∀ (s : State) (c : CoreId) (w : CmdWord),
     let x := s.ctx c
     (∀ hdr, ChainReady s c w hdr → ∃ t, exec (.vecChain c w) s = .next t ∧ CoreEffect s t c ∧ (t.ctx c).engines = x.engines
       ∧ ((chainAt s c w).count ≤ chainFirst w → (t.ctx c).vec = x.vec)
       ∧ (chainFirst w < (chainAt s c w).count → ∃ o, (t.ctx c).vec = x.vec ++ [o] ∧ o.serial = x.serial ∧ o.w = w
           ∧ o.blk = s.readCore c (vecAddr w) 256 ∧ o.hdr = hdr ∧ o.next = chainFirst w ∧ o.inputs = []))
     ∧ (∀ hdr, StreamReady s c w hdr → ∃ t, exec (.vecStream c w) s = .next t ∧ CoreEffect s t c ∧ (t.ctx c).engines = x.engines
       ∧ ((streamAt s c w).tiles ≤ streamFirst w → (t.ctx c).vec = x.vec)
       ∧ (streamFirst w < (streamAt s c w).tiles → ∃ o, (t.ctx c).vec = x.vec ++ [o] ∧ o.serial = x.serial ∧ o.w = w
           ∧ o.blk = s.readCore c (vecAddr w) 192 ∧ o.hdr = hdr ∧ o.next = streamFirst w))
     ∧ (Ready s c w → opcodeOf w = 0x32 → Free s c [flagsSreg w] →
       (x.vec = [] → ∃ t, exec (.vecFlags c w) s = .next t ∧ CoreEffect s t c ∧ (t.ctx c).vec = []
         ∧ (t.ctx c).sregs = (x.setSreg (flagsSreg w) ((x.veFlags &&& 0xFFFF#32).setWidth 64)).advance.sregs
         ∧ (t.ctx c).veFlags = if flagsClear w then 0#32 else x.veFlags)
       ∧ (∀ o os, x.vec = o :: os → opcodeOf o.w ≠ 0x32 → o.abort = none → x.vec.length < 4 →
         ∃ t p, exec (.vecFlags c w) s = .next t ∧ CoreEffect s t c ∧ (t.ctx c).vec = x.vec ++ [p] ∧ p.w = w ∧ (t.ctx c).veFlags = x.veFlags)))

/-- A command whose fields are illegal is rejected with ST_CMD_INVALID, and a V-marked one of a deterministic job with ST_NONDET: nothing
of it happens, and its job's cores stop issuing (R211, R220, R223). -/
def Obligations.CommandsRejected : Prop :=
  ∀ (s : State) (c : CoreId) (w : CmdWord) (i : Instr) (id : Word) (r : Nat) (j : Job), coreWord i = some (c, w) → i.wf = true →
    s.mayIssue c = true → (s.ctx c).waiting = [] → (s.ctx c).pegs = [] → (fenceOf w = true → (s.ctx c).idle = true) →
    (s.core c).owner = .rank id r → s.job id = some j → j.stop = none →
    let legal := opcodeFits w && resClear w && (!bypassOf w || bypassAllowed (opcodeOf w)) && decide ((s.ctx c).pc ≤ 0x3FFFF0)
    let marked := j.deterministic && (alwaysV (opcodeOf w) || bypassOf w)
    (legal = false ∨ marked = true) →
    ∃ t j', exec i s = .next t ∧ t.job id = some j' ∧ j'.stop = some (if legal then 0x0206#16 else 0x0204#16)
      ∧ t = { s with cores := t.cores, jobs := t.jobs, host := t.host, seqs := t.seqs }
      ∧ ∀ d, (match (s.core d).owner with | .rank n _ => n = id | _ => False) →
          (t.core d).stopped = true ∧ t.ctx d = { s.ctx d with waiting := [] }

/-! ### Completions -/

/-- An engine command other than a tile at its completion point (R38, R54, R58, R59, R63, Table 2-7): the A buffer, the memory, the engine
or the register that it writes, and nothing else.

The running vector operation completes its next tile: it moves to the next one and takes the inputs of this one, or it has none left (or
its scale tags failed) and leaves; operations behind it stay (R133, R141, Table 2-7); a send entry with tiles on their way stays too (R160). A
chain whose input is missing waits. Only an attention operation changes engines, those of its PV tiles (R147). -/
def Obligations.EngineAndVectorComplete : Prop :=
  (∀ (s : State) (c : CoreId) (le : Fin 4) (up : Bool) (corr : Half) (q : EngCmd), s.unitsRun c = true →
     let v := s.fillEngine c le.val (partOf ((s.ctx c).engine le.val) up)
     let g := (v.ctx c).engine le.val
     let r := g.copy q.copy
     v.nextOn c le.val up = some q → opcodeOf q.w ≠ 0x12 → s.awaitsRepair c q = false →
     ∃ u : State, exec (.engineCommandComplete c le up corr) s = .next (u.after c) ∧ EngineEnds v u c le.val q
       ∧ (opcodeOf q.w ≠ 0x13 → opcodeOf q.w ≠ 0x16 → u.mem = s.mem)
       ∧ (opcodeOf q.w ≠ 0x18 → (u.ctx c).sregs = (s.ctx c).sregs)
       ∧ (let h := (u.ctx c).engine le.val
         let n := (partRows q.half).2 * 64
         (opcodeOf q.w ≠ 0x10 → h.aBuf = g.aBuf)
         ∧ (opcodeOf q.w = 0x10 → ∀ k, k < loadaK q.w → let cb := colBytes (moveFmt q.w) q.half
             h.aBuf.slice (aBase q.half + loadaOff q.w * 64 + k * cb) cb = (s.view c q.serial 0).readCore c (moveSrc q.w + k * loadaStride q.w) cb)
         ∧ (opcodeOf q.w = 0x15 → h.split = splitBit q.w ∧ h.lo.fifo = [] ∧ h.up.fifo = [] ∧ ∀ k, h.copy k = {})
         ∧ (opcodeOf q.w = 0x16 → u.readCore c (imageAddr q.w) (imageBytes q.half) = imageOf q g.split r
             ∧ ∀ p, p < coreAddr c (imageAddr q.w) ∨ coreAddr c (imageAddr q.w) + imageBytes q.half ≤ p → u.mem.get p = s.mem.get p)
         ∧ (opcodeOf q.w = 0x17 → let img := (s.view c q.serial 0).readCore c (imageAddr q.w) (imageBytes q.half)
             ∀ k, ((h.copy k).part q.half).flags = BitVec.ofNat 8 (fieldAt img 4 1)
               ∧ ((h.copy k).part q.half).bankValid = decide (fieldAt img 5 1 = 1) ∧ ((h.copy k).part q.half).void = false
               ∧ ∀ i, i < n → (h.copy k).acc.get ((partRows q.half).1 * 64 + i) = BitVec.ofNat 64 (fieldAt img (64 + 8 * i) 8))
         ∧ (opcodeOf q.w = 0x18 → (u.ctx c).sregs = ((v.ctx c).setSreg (flagsSreg q.w) ((r.part q.half).flags.setWidth 64)).sregs
             ∧ (flagsClear q.w = true → ∀ k, ((h.copy k).part q.half).flags = 0#8))
         ∧ (opcodeOf q.w = 0x13 → copyDest q.w = false → u.mem = s.mem ∧ (u.ctx c).vec = ((v.ctx c).deliver le.val q r).vec)
         ∧ (opcodeOf q.w = 0x13 → copyDest q.w = true →
             let len := copyN q.w * if copyIdx q.w || fmtComplex (q.pair.toNat % 16) then 8 else 4
             (len ≤ copyStride q.w → ∀ i ∈ copyRows q.w q.mask, u.readCore c (copyDst q.w + i * copyStride q.w) len = rowOut q r i)
             ∧ ∀ p, (∀ i ∈ copyRows q.w q.mask, p < coreAddr c (copyDst q.w + i * copyStride q.w)
                 ∨ coreAddr c (copyDst q.w + i * copyStride q.w) + len ≤ p) → u.mem.get p = s.mem.get p)))
  ∧ (∀ (s : State) (c : CoreId) (o : VecOp) (os : List VecOp), s.unitsRun c = true → (s.ctx c).vec = o :: os → (∀ p ∈ os, p.serial ≠ o.serial) →
     let k := chainOf o.blk
     (opcodeOf o.w = 0x30 → chainGoes (s.ctx c) o k = true → (k.code = 0xF → k.src = false) →
       let n := if k.code = 0xF then 2 else 1
       ∃ u : State, exec (.vectorTileComplete c) s = .next ((u.sendAll c).after c) ∧ u.carriers = s.carriers
         ∧ (∀ e, e < 4 → (isAttn k.code = true → e < k.ns) → (u.ctx c).engine e = (s.ctx c).engine e)
         ∧ ((u.ctx c).vec = os ∨ ∃ p, (u.ctx c).vec = p :: os ∧ p.serial = o.serial ∧ p.next = o.next + n ∧ p.inputs = o.inputs.drop n
             ∧ (p.next < k.count ∨ isSend k.code = true)))
     ∧ (opcodeOf o.w = 0x31 →
       ∃ u : State, exec (.vectorTileComplete c) s = .next ((u.sendAll c).after c) ∧ (u.ctx c).engines = (s.ctx c).engines ∧ u.carriers = s.carriers
         ∧ ((u.ctx c).vec = os ∨ ∃ p, (u.ctx c).vec = p :: os ∧ p.serial = o.serial ∧ p.next = o.next + 1 ∧ p.next < (streamOf o.blk).tiles))
     ∧ (opcodeOf o.w = 0x30 → chainReady o k = false → (∀ p ∈ o :: os, p.sends = []) → exec (.vectorTileComplete c) s = .next s))

/-- A tile at its completion point (R41, R42, R50, R52): its results at the enabled cells, the bank captured there, its flags added to the
sticky ones; every cell that it does not enable, and every other part and copy, stays as it was.

A tile whose scale tags fail aborts (R56, R94, R96): no cell of any part changes, its part turns void and its bank invalid, the scale
attachment ends, and the core stops issuing. -/
def Obligations.TileCompletesOrAborts : Prop :=
  (∀ (s : State) (c : CoreId) (le : Fin 4) (up : Bool) (corr : Half) (q : EngCmd) (rows : List BRow) (qs : List EngCmd) (f : List BRow),
     s.unitsRun c = true →
     let v := s.fillEngine c le.val (partOf ((s.ctx c).engine le.val) up)
     let g := (v.ctx c).engine le.val
     let need := if tileWorks q.w then tileK q.w else 0
     v.nextOn c le.val up = some q → opcodeOf q.w = 0x12 → tileSkew v c q = none → s.awaitsRepair c q = false →
     pullRows (v.rowReader c) q.half (need + 1) need g.queue (g.part q.half).fifo = (rows, qs, f) → rows.length = need →
     0 < tileM q.w → 0 < tileN q.w →
     let out := tileOut v c g q rows
     ∃ u : State, exec (.engineCommandComplete c le up corr) s = .next (u.after c) ∧ u.mem = s.mem ∧ (∀ d, d ≠ c → u.core d = s.core d) ∧ JobsKept s u
       ∧ u.health.eccCorr = BitVec.ofNat 64 (min (2 ^ 64 - 1) (s.health.eccCorr.toNat + corr.toNat))
       ∧ (let k := ((u.ctx c).engine le.val).copy q.copy
         let o := g.copy q.copy
         (∀ p, p < 4096 → k.acc.get p = if cellOn q.half (tileM q.w) (tileN q.w) q.mask p then ((out.getD p none).elim 0#64 CellSt.word) else o.acc.get p)
         ∧ (∀ p, p < 4096 → k.bank.get p = if cellOn q.half (tileM q.w) (tileN q.w) q.mask p then k.acc.get p else o.bank.get p)
         ∧ (k.part q.half).flags = (o.part q.half).flags ||| out.flags ∧ (k.part q.half).bankValid = true
         ∧ (k.part q.half).void = (o.part q.half).void
         ∧ ∀ n, n % 3 ≠ q.copy % 3 → ((u.ctx c).engine le.val).copy n = g.copy n))
  ∧ (∀ (s : State) (c : CoreId) (le : Fin 4) (up : Bool) (q : EngCmd) (group side : Nat), s.unitsRun c = true →
     s.skewedTile c le.val up = some (q, group, side) →
     ∃ u : State, exec (.tileAbort c le up) s = .next (u.after c) ∧ u.mem = s.mem ∧ (u.core c).stopped = true ∧ (u.ctx c).waiting = []
       ∧ (let g := (s.ctx c).engine le.val
         let h := (u.ctx c).engine le.val
         (h.part q.half).attach = none ∧ ((h.copy q.copy).part q.half).void = true ∧ ((h.copy q.copy).part q.half).bankValid = false
         ∧ (∀ k, (h.copy k).acc = (g.copy k).acc ∧ (h.copy k).idx = (g.copy k).idx ∧ (h.copy k).bank = (g.copy k).bank)
         ∧ ∀ k ∈ h.queue, k.serial ≠ q.serial ∧ (opcodeOf k.w = 0x13 → k.half = q.half → k.serial ≤ q.serial)))

/-! ### DMA completions, page faults, jobs -/

/-- DESCRIPTOR_COMPLETE (R175, R185, R187, R192): a copy or a fill between places of the core's own memory moves its rows and no other
byte; any descriptor that is served to its end leaves its channel with ST_OK.

A descriptor that meets a translation error ends its job with the error's status (R202, Table 8-8). One with a unit that waits for a peg or an
earlier write is served up to that unit (R180, R195). -/
def Obligations.DescriptorCompletesOrStrikes : Prop :=
  (∀ (s : State) (c : CoreId) (ch : Fin 8) (d : DmaDesc), s.unitsRun c = true → Quiet s →
     ((s.ctx c).chan ch.val).susp = false → ((s.ctx c).chan ch.val).descs = [d] → ddNfy d.bytes = false →
     let n := ddRowLen d.bytes
     let src := fun i => ddSrc d.bytes + i * ddSrcStride d.bytes
     let dst := fun i => ddDst d.bytes + i * ddDstStride d.bytes
     (∀ u, s.runChannel c ch.val = some (u, .done) →
       ∃ t, exec (.descriptorComplete c ch) s = .next t ∧ t.mem = u.mem ∧ ((t.ctx c).chan ch.val).descs = []
         ∧ ((t.ctx c).chan ch.val).status = 0x0000#16 ∧ ∀ k, k ≠ c → t.core k = s.core k)
     ∧ (((s.ctx c).chan ch.val).row = 0#32 → ((s.ctx c).chan ch.val).offset = 0#24 → d.ahead = [] → ddSrcSp d.bytes = false → ddDstSp d.bytes = false →
       ddOp d.bytes < 2 → (1 < ddRows d.bytes → n ≤ ddDstStride d.bytes) →
       (ddOp d.bytes = 0 → dst (ddRows d.bytes) + n ≤ ddSrc d.bytes ∨ src (ddRows d.bytes) + n ≤ ddDst d.bytes) →
       ∃ t, exec (.descriptorComplete c ch) s = .next t
         ∧ (∀ i, i < ddRows d.bytes → t.readCore c (dst i) n = if ddOp d.bytes = 1 then fillBytes d.bytes 0 n else (s.view c d.serial i (ownBytes d.bytes)).readCore c (src i) n)
         ∧ ∀ p, (∀ i, i < ddRows d.bytes → p < coreAddr c (dst i) ∨ coreAddr c (dst i) + n ≤ p) → t.mem.get p = s.mem.get p))
  ∧ (∀ (s u : State) (c : CoreId) (ch : Fin 8) (row off : Nat) (st : Half) (id : Word) (r : Nat) (j : Job), s.unitsRun c = true →
     ((s.ctx c).chan ch.val).susp = false → s.runChannel c ch.val = some (u, .err row off st) →
     (s.core c).owner = .rank id r → s.job id = some j → j.phase = .running → j.carrier = none → Quiet s →
     ∃ t j', exec (.descriptorComplete c ch) s = .next t ∧ t.job id = some j' ∧ j'.phase = .ended ∧ j'.status = st ∧ t.mem = u.mem
       ∧ t.health.strikes = satInc32 s.health.strikes ∧ ∀ k n, (s.core k).owner = .rank id n → (t.core k).owner = .none ∧ (t.core k).scrubbing = true)
  ∧ (∀ (s u : State) (c : CoreId) (ch : Fin 8) (row off : Nat), s.unitsRun c = true → ((s.ctx c).chan ch.val).susp = false →
     s.runChannel c ch.val = some (u, .held row off) →
     ∃ t, exec (.descriptorComplete c ch) s = .next t ∧ t.mem = u.mem
       ∧ (t.ctx c).chan ch.val = { (s.ctx c).chan ch.val with row := BitVec.ofNat 32 row, offset := BitVec.ofNat 24 off }
       ∧ (t.ctx c).pegs = (s.ctx c).pegs ∧ ∀ k, k ≠ c → t.core k = s.core k)

/-- A page fault suspends the channel at its progress point with ST_PAGE_FAULT and is counted; a carrier's pages are pinned (R207); its resolution maps the page and lets every channel of the job
that waits for a mapped granule go on; left unresolved it strikes the job (R203, R204). -/
def Obligations.PageFaults : Prop :=
  ∀ (s : State), Quiet s →
    (∀ (c : CoreId) (ch : Fin 8) (u : State) (row off va : Nat), s.unitsRun c = true → s.pinned c = false → ((s.ctx c).chan ch.val).susp = false →
      s.runChannel c ch.val = some (u, .fault row off va) →
      ∃ t, exec (.pageFault c ch) s = .next t ∧ t.mem = u.mem ∧ (t.core c).faults = satInc16 (s.core c).faults
        ∧ (t.ctx c).chan ch.val = { (s.ctx c).chan ch.val with
            susp := true, cond := 0x0301#16, faultVa := BitVec.ofNat 48 va, row := BitVec.ofNat 32 row, offset := BitVec.ofNat 24 off }
        ∧ ∀ k, k ≠ c → t.core k = s.core k)
    ∧ (∀ (id : Word) (j : Job) (va : VirtAddr) (ptes : List (PhysAddr × Dword)), s.job id = some j → j.phase = .running →
      s.suspendedOn id (fun a => a / 4096 == va.toNat / 4096) = true →
      (ptes.foldl (fun (t : State) p => t.writePhys p.1.toNat (leBytes 8 p.2.toNat)) s).mapped j.root va.toNat = true →
      ∃ t j', exec (.faultResolution id va ptes) s = .next t ∧ t.job id = some j' ∧ j'.faults = j.faults + 1#32
        ∧ (∀ k n e, (s.core k).owner = .rank id n → ((s.ctx k).chan e).susp = true → t.mapped j.root ((s.ctx k).chan e).faultVa.toNat = true →
            (t.ctx k).chan e = { (s.ctx k).chan e with susp := false, cond := 0#16 })
        ∧ ∀ k, (∀ n, (s.core k).owner ≠ .rank id n) → t.core k = s.core k)
    ∧ (∀ (id : Word) (j : Job), s.job id = some j → j.phase = .running → s.suspendedOn id (fun _ => true) = true →
      ∃ t j', exec (.pageUnresolved id) s = .next t ∧ t.job id = some j' ∧ j'.phase = .ended ∧ j'.status = 0x0302#16
        ∧ t.health.strikes = satInc32 s.health.strikes)

/-- The firmware starts every rank of the next job on a core of its own: the rank's image in its memory, its entry address, registers at 0,
and the job runs (R214, R215, R226). -/
def Obligations.JobStarts : Prop :=
  ∀ (s : State) (j : Job) (cores : List CoreId) (root : PhysAddr) (ptes : List (PhysAddr × Dword)) (images : List (List Byte)),
    s.nextPlaced = some j → cores.length = j.ranks.length → cores.Nodup → (∀ c ∈ cores, s.coreFree c = true) →
    (∀ p ∈ List.zip j.ranks cores, s.rankFits p.1 p.2 = true) → (∀ b ∈ images, b.length ≤ 0x400000) → root.toNat % 4096 = 0 →
    ∃ t j', exec (.jobPlace cores root ptes images) s = .next t ∧ t.job j.id = some j' ∧ j'.phase = .running ∧ j'.root = root ∧ j'.held = cores
      ∧ j'.go = j.lead.isNone
      ∧ (∀ r c q, cores[r]? = some c → j.ranks[r]? = some q → (t.core c).owner = .rank j.id r ∧ (t.ctx c).pc = q.entry
          ∧ (∀ i, (t.ctx c).sreg i = 0#64) ∧ (t.ctx c).waiting = [] ∧ (t.core c).stopped = false
          ∧ t.readCore c 0 (images.getD r []).length = images.getD r [])
      ∧ ∀ c, c ∉ cores → t.core c = s.core c

/-- Preemption (R228 to R234): at the preemption point the core stops; when its state is saved, the rank keeps its context and its memory and
the core is free or its carrier's; resumed on the same core it goes on with that context. The save area holds the scalar registers, VE_FLAGS and
stakes where Table 9-5 puts them, and no byte outside what the save writes changes. -/
def Obligations.PreemptSaveResume : Prop :=
  ∀ (s : State) (c : CoreId),
    (∀ id r, Quiet s → (s.core c).owner = .rank id r → (s.core c).preempt ≠ [] → (s.core c).atPoint = false → s.mustFinish c = false →
      ((s.stopUnits c).core c).preempt ≠ [] →
      ∃ t, exec (.preemptionPoint c) s = .next t ∧ (t.core c).atPoint = true ∧ (t.core c).owner = .rank id r ∧ (t.ctx c).pegs = []
        ∧ t.mem = (s.stopUnits c).mem
        ∧ ((∀ ch, ch < 8 → ((s.ctx c).chan ch).descs = [] ∨ ((s.ctx c).chan ch).susp = true) →
            t.mem = s.mem ∧ (t.ctx c).shed = (s.ctx c).pegs ∧ (t.ctx c).chans = (s.ctx c).chans))
    ∧ (∀ id r j q (area : PhysAddr), (s.core c).owner = .rank id r → (s.core c).atPoint = true → s.job id = some j → j.ranks[r]? = some q →
      s.areaFree area.toNat = true → s.skewed id = false →
      ∃ t j', exec (.saveComplete c area) s = .next t ∧ t.job id = some j' ∧ j'.preemptions = j.preemptions + 1#32
        ∧ t.mem = (s.writeSave area.toNat (s.ctx c) (s.backed c)).mem
        ∧ t.readPhys (area.toNat + 0x400) 512 = (s.ctx c).sregs.toList.flatMap (fun v => leBytes 8 v.toNat)
        ∧ t.readPhys (area.toNat + 0xA00) 4 = leBytes 4 (s.ctx c).veFlags.toNat
        ∧ t.readPhys (area.toNat + 0x1800) 64 = (s.ctx c).stakes.toList.flatMap (fun v => leBytes 4 v.toNat)
        ∧ j'.ranks[r]? = some { q with saved := some (s.ctx c), core := none, home := c, area := area.toNat }
        ∧ ((t.core c).owner = .none ∨ ∃ k, (t.core c).owner = .carrier k) ∧ (t.core c).atPoint = false ∧ ∀ d, d ≠ c → t.core d = s.core d)
    ∧ (∀ id j q x (r : Fin 32), s.job id = some j → j.ranks[r.val]? = some q → q.saved = some x → q.home = c → s.mayResume j q c = true →
      Quiet s → x.waiting = [] →
      ∃ t j', exec (.resume id r c) s = .next t ∧ t.mem = s.mem ∧ (t.core c).owner = .rank id r.val ∧ t.ctx c = resumedCtx s c x
        ∧ t.job id = some j' ∧ j'.ranks[r.val]? = some { q with saved := none, core := some c })

/-- A strike ends a job whose commands can do no more with the status that stopped it, frees its cores and counts; a scrubbed region reads zero and is reported when it is
the last (R223, R477 to R479). -/
def Obligations.StrikeAndScrub : Prop :=
  ∀ (s : State) (id : Word) (j : Job), s.job id = some j →
    (∀ st, j.phase = .running → j.stop = some st → s.jobQuiet j = true → j.carrier = none → Quiet s →
      ∃ t j', exec (.strike id st) s = .next t ∧ t.job id = some j' ∧ j'.phase = .ended ∧ j'.status = st ∧ t.mem = s.mem
        ∧ t.health.strikes = satInc32 s.health.strikes ∧ (∀ r ∈ j'.ranks, r.core = none ∧ r.saved = none)
        ∧ ∀ k n, (s.core k).owner = .rank id n → (t.core k).owner = .none ∧ (t.core k).scrubbing = true)
    ∧ (∀ rg, rg ∈ j.scrub → ∃ t j', exec (.scrubComplete id rg) s = .next t ∧ t.job id = some j' ∧ j'.scrub = j.scrub.filter (· ≠ rg)
        ∧ (rg = .coreMem → ∀ c ∈ j.held, (t.core c).scrubbing = false ∧ ∀ a, a < 0x400000 → t.mem.get (coreAddr c a) = 0#8)
        ∧ (rg = .saveArea → ∀ q ∈ j.ranks, q.area ≠ 0 → ∀ a, a < 0x90000 → t.mem.get (q.area + a) = 0#8)
        ∧ (rg = .dieMem → ∀ p ∈ j.pages, isDdr p.1 = false → ∀ a, a < p.2 → t.mem.get (p.1 + a) = 0#8)
        ∧ (rg = .ddrFrames → ∀ p ∈ j.pages, isDdr p.1 = true → ∀ a, a < p.2 → t.mem.get (p.1 + a) = 0#8))

/-! ### Slots and memory errors -/

/-- ENGINE_FAULT (R56, R224, R468, R469): at a slot's first fault in 24 h the tile awaits its replay and the slot stays; at a later one the slot
fails. The tile stays issued. -/
def Obligations.EngineFaults : Prop :=
  ∀ (s : State) (c : CoreId) (le : Fin 4) (up : Bool) (q : EngCmd) (i : SlotId), s.faultSlot c le.val up = some (q, i) →
    ((s.slot i).faults24h s.nowNs = 0 → ∃ t, exec (.engineFault c le up none) s = .next t ∧ t.mem = s.mem ∧ t.clusters = s.clusters
      ∧ (∀ d, d ≠ c → t.core d = s.core d)
      ∧ ((t.ctx c).engine le.val).queue
          = ((s.ctx c).engine le.val).queue.map (fun k => if k.serial = q.serial then { k with faulted := true } else k)
      ∧ (t.slot i).state = (s.slot i).state ∧ (t.slot i).faults24h s.nowNs = 1 ∧ (∀ j, j ≠ i → t.slot j = s.slot j)
      ∧ t.health = { s.health with faults := satInc32 s.health.faults })
    ∧ (0 < (s.slot i).faults24h s.nowNs → Quiet s →
      ∃ t, exec (.engineFault c le up none) s = .next t ∧ t.mem = s.mem ∧ (t.slot i).state = .failed
        ∧ t.health.failed = satInc16 s.health.failed ∧ t.health.faults = satInc32 s.health.faults)

/-- LAG_WINDOW (R472): a slot that was busy long enough reports its lag; above 3 % it retires, at once or at its carrier's slot boundary.

A write of CL_SPAREMAP or CL_SPAREMAP0 (R15, R19): the written field of a logical engine takes effect where it is legal and the engine stands at a
tile boundary; a core whose fields are in error keeps its mapping and is held at the first such boundary of its engines. -/
def Obligations.SlotsRetireAndMap : Prop :=
  (∀ (s : State) (i : SlotId) (busy freeze : Word), Quiet s →
     ((s.slot i).state ≠ .active ∨ busy.toNat < 2 ^ 20 → exec (.lagWindow i busy freeze) s = .next s)
     ∧ ((s.slot i).state = .active → 2 ^ 20 ≤ busy.toNat →
       ∃ t, exec (.lagWindow i busy freeze) s = .next t ∧ t.mem = s.mem ∧ (t.slot i).lag = BitVec.ofNat 16 (min 10000 (freeze.toNat * 10000 / busy.toNat))
         ∧ (freeze.toNat * 100 ≤ busy.toNat * 3 → (t.slot i).state = .active ∧ t.cores = s.cores ∧ t.health = s.health)
         ∧ (busy.toNat * 3 < freeze.toNat * 100 → s.carrierSlot i = true → (t.slot i).state = .active ∧ (t.slot i).retireDue = true)
         ∧ (busy.toNat * 3 < freeze.toNat * 100 → s.carrierSlot i = false → (t.slot i).state = .retired ∧ t.health.retired = satInc16 s.health.retired)))
  ∧ (∀ (s : State) (k : ClusterId) (companion : Bool) (v : Dword), Quiet s →
     let cl := s.clusters.get k
     let map := if companion then cl.map else v &&& 0x0FFFFFFFFFFFFFFF#64
     let map0 := if companion then v &&& 0xFFFFF#64 else cl.map0
     let bad := fun lc => fieldsBad (fieldsOf map map0) lc = true
     ∃ t, exec (.clSparemap k companion v) s = .next t ∧ t.mem = s.mem ∧ (t.clusters.get k).map = map ∧ (t.clusters.get k).map0 = map0
       ∧ (∀ q, q ≠ k → t.clusters.get q = s.clusters.get q)
       ∧ ∀ (c : CoreId) e, c.val / 4 = k.val → e < 4 →
           (t.slotOf c e = if bad (c.val % 4) ∨ s.atBoundary c e = false then s.slotOf c e else slotField map map0 (c.val % 4) e)
           ∧ ((t.core c).mapHeld = true ↔ bad (c.val % 4) ∧ ∃ e, e < 4 ∧ s.atBoundary c e = true))

/-- An uncorrectable error is counted, and strikes the job that holds the memory (R473, R476).

PATROL_SCRUB (R474, R475): a corrected word is counted and memory reads as before; the sixteenth of a frame in 24 h takes the frame out of
allocation. -/
def Obligations.MemoryErrors : Prop :=
  (∀ (s : State), Quiet s →
     (∀ site, ∃ t, exec (.uncorrectableError site) s = .next t ∧ t.health.eccUncorr = satInc32 s.health.eccUncorr)
     ∧ (∀ mem a j, mem ≠ .hubCode → mem ≠ .hubRadio → s.jobs.find? (fun j => s.jobMaps j a.toNat) = some j → s.job j.id = some j →
       ∃ t j', exec (.uncorrectableError (.memory mem a .other)) s = .next t ∧ t.job j.id = some j' ∧ j'.phase = .ended ∧ j'.status = 0x0901#16))
  ∧ (∀ (s : State) (die : Fin 2) (a : PhysAddr), s.onDdr die.val a.toNat = true →
     let d := s.dies.get die
     let n := d.corrAt.countP fun p => decide (s.nowNs < p.2 + 86400000000000) && p.1 == a.toNat / 65536
     ∃ t, exec (.patrolScrub die [a]) s = .next t ∧ t.mem = s.mem ∧ t.cores = s.cores ∧ t.health.eccCorr = satInc64 s.health.eccCorr
       ∧ ((t.dies.get die).corrAt.countP fun p => decide (s.nowNs < p.2 + 86400000000000) && p.1 == a.toNat / 65536) = n + 1
       ∧ (n ≠ 15 → (t.dies.get die).retired = d.retired)
       ∧ (n = 15 → s.jobs.find? (fun j => s.jobMaps j a.toNat) = none → (t.dies.get die).retired = if d.retired.contains (a.toNat / 65536)
           then d.retired else d.retired ++ [a.toNat / 65536]))

/-! ### Uplink -/

/-- ARBITRATION (R262, R263, Table 10-4): the primary's bits when it passed, else the secondary's, else ST_CRC_FAIL, or ST_DEADLINE_MISS when the
primary has no result; the soft buffer keeps the primary's values (R257). The primary is the learned path in PROBATION and LEARNED; the other path counts
for sampled blocks. A path that has not ended gives no result. -/
def Obligations.ArbitrationFollowsTable : Prop :=
  ∀ (s : State) (k : CarrierId) (slot : Word) (i : Half) (learned classical : Bool) (q : Sched) (p : Pdu),
    findSched (s.carrier k).ul slot = some q → q.pdus[i.toNat]? = some p → s.twin.role ≠ .standby → q.ready = true → q.late = false →
    q.ended = true → q.closed = false → p.decided = false → p.typ = 1 →
    let primL := q.rx = 1 ∨ q.rx = 2
    let smp := (s.carrier k).sampled slot q.rx p = true
    let l := if learned = true ∧ (primL ∨ smp) then s.learnedPath k slot q.model p else none
    let c := if classical = true ∧ (¬ primL ∨ smp) then some (s.classicalPath k slot p) else none
    let prim := if primL then l else c
    let sec := if primL then c else l
    let softOf := fun (t : State) => (t.carrier k).soft.find? (sameProc (p.rnti % 2 ^ 16) p.harq)
    ∃ t q' p', exec (.arbitration k slot i learned classical) s = .next t
      ∧ t = { s with carriers := t.carriers, host := t.host, freeCtr := s.freeCtr + 1 } ∧ (∀ m, m ≠ k → t.carrier m = s.carrier m)
      ∧ findSched (t.carrier k).ul slot = some q' ∧ q'.pdus[i.toNat]? = some p' ∧ p'.decided = true
      ∧ (∀ d, prim = some d → d.pass = true → p'.status = 0x0000#16 ∧ p'.data = d.bits)
      ∧ (∀ d, (∀ e, prim = some e → e.pass = false) → sec = some d → d.pass = true → p'.status = 0x0000#16 ∧ p'.data = d.bits)
      ∧ (∀ d, prim = some d → d.pass = false → (∀ e, sec = some e → e.pass = false) → p'.status = 0x0502#16)
      ∧ (prim = none → (∀ e, sec = some e → e.pass = false) → p'.status = 0x0501#16)
      ∧ (∀ d, prim = some d → softOf t = some { rnti := BitVec.ofNat 16 p.rnti, harq := BitVec.ofNat 4 p.harq, ndi := p.ndi, soft := d.soft })
      ∧ (prim = none → softOf t = softOf s)

/-- UCI, PRACH and SRS results go to the host on the carrier's 100G port, and the PDU is done (R269 to R272); UCI multiplexed on PUSCH goes as source 5
(R270); a stored SRS estimate becomes a weight set. -/
def Obligations.UplinkReports : Prop :=
  ∀ (s : State) (k : CarrierId) (slot : Word) (i : Half) (p : Pdu), s.ulPdu k slot i.toNat = some p →
    let port := fun q => q == cfgPort (s.carrier k).conf
    let kept := fun (t : State) => t = { s with carriers := t.carriers, host := t.host } ∧ (∀ m, m ≠ k → t.carrier m = s.carrier m)
      ∧ ∀ q, findSched (t.carrier k).ul slot = some q → ∀ p', q.pdus[i.toNat]? = some p' → p'.decided = true ∧ p'.reported = true
    let uci := fun (r : UciResult) (src : Nat) =>
      leBytes 4 slot.toNat ++ leBytes 2 i.toNat ++ leBytes 2 p.rnti ++ leBytes 2 (if r.crcOk then 0 else 0x0502) ++ leBytes 1 src
        ++ leBytes 1 ((if r.srSeen then 4 else 0) + (if r.ackSeen then 0 else 2) + (if r.csi2 then 1 else 0)) ++ [r.ackBits, 0#8]
        ++ leBytes 2 r.csi1Bits.toNat ++ leBytes 2 r.csi2Bits.toNat ++ leBytes 2 r.sinr.toNat ++ leBytes 4 0 ++ r.bits
    (p.typ = 2 → p.decided = false → let r := s.pucchUci k slot p
      ∃ t, exec (.pucchDecode k slot i) s = .next t ∧ kept t
        ∧ Notified s t 0x0A22 (if r.crcOk then 0x0000#16 else 0x0502#16) (uci r (p.nat 4 1 % 8)) port)
    ∧ (p.typ = 1 → p.hasUci = true → p.status ≠ 0x0504#16 → let r := s.puschUci k slot p ((Config.freeWord s.freeCtr).setWidth 16)
      ∃ t, exec (.pucchDecode k slot i) s = .next t ∧ t = { s with host := t.host, freeCtr := s.freeCtr + 1 }
        ∧ Notified s t 0x0A22 (if r.crcOk then 0x0000#16 else 0x0502#16) (uci r 5) port)
    ∧ (p.typ = 1 → p.hasUci = false → exec (.pucchDecode k slot i) s = .next s)
    ∧ (∀ samples, p.typ = 3 → p.decided = false →
      let found := (Config.prachPeaks p.bytes slot samples).filter fun q => decide (q.1 < 64) && decide (p.nat 0x0C 2 < q.2.2.toNat)
      ∃ (t : State) (seen : List Preamble), exec (.prachDetect k slot i samples) s = .next t ∧ kept t
        ∧ seen.length = min 16 found.length ∧ (∀ q ∈ seen, q ∈ found) ∧ seen.Pairwise (fun a b => a.1 ≤ b.1)
        ∧ Notified s t 0x0A23 0x0000#16 (leBytes 4 slot.toNat ++ leBytes 1 (p.nat 3 1 % 8) ++ leBytes 1 seen.length ++ [0#8, 0#8]
            ++ seen.flatMap fun q => leBytes 1 q.1 ++ [0#8] ++ leBytes 2 q.2.1.toNat ++ leBytes 2 q.2.2.toNat ++ [0#8, 0#8]) port)
    ∧ (p.typ = 4 → p.decided = false → let r := s.srsOf k slot p
      ∃ t, exec (.srsEstimate k slot i) s = .next t ∧ kept t
        ∧ (p.nat 0x0B 1 = 1 → ∃ w, (t.carrier k).weights.find? (fun x => x.num == p.nat 0x10 2) = some w ∧ w.num = p.nat 0x10 2
            ∧ w.bytes = r.2 ∧ w.since = s.nowNs)
        ∧ (p.nat 0x0B 1 ≠ 1 → (t.carrier k).weights = (s.carrier k).weights)
        ∧ Notified s t 0x0A24 0x0000#16 (leBytes 4 slot.toNat ++ leBytes 2 i.toNat ++ leBytes 2 p.rnti ++ leBytes 2 0 ++ leBytes 2 r.1.1.toNat
            ++ leBytes 2 r.1.2.toNat ++ leBytes 2 (if p.nat 0x0B 1 = 1 then p.nat 0x10 2 else 0xFFFF)) port)

/-- A part of a slot's schedule is kept; the last part makes the schedule complete (R273, R292). A frame of a transport block reaches its PDU (R296).

A slot whose parts are incomplete at its limit is late, and its PDUs are decided with ST_SCHED_LATE; a PDSCH PDU whose bytes are incomplete is
decided with ST_TB_LATE (R273, R292, R296). -/
def Obligations.SchedulesArriveOrAreLate : Prop :=
  (∀ (s : State) (f : Frame) (x : Session), Slotted s f x →
     let ref := BitVec.ofNat 32 (f.nat 0 4)
     let k := refCarrier ref
     let entry := (f.nat 8 1, f.nat 0x0A 2, cutPdus (f.nat 4 2) (f.payload.drop 16))
     let kept := fun (old : Sched) (new : Option Sched) => ∃ q, new = some q ∧ q.slot = ref ∧ q.parts = f.nat 9 1 ∧ q.got = old.got ++ [entry] ∧ q.late = false
       ∧ (q.ready = true ↔ ∀ n, n < f.nat 9 1 → ∃ g ∈ q.got, g.1 = n)
     let fresh := fun (q : Sched) => q.slot = ref ∧ q.late = false ∧ q.ready = false ∧ q.ended = false ∧ ∀ g ∈ q.got, g.1 ≠ f.nat 8 1
     (f.typ = 0x0A20#16 → (s.touch f).partOk f = true → (s.carrier k).inPast s.nowNs ref = false → ∀ q, q = (findSched (s.carrier k).ul ref).getD { slot := ref } → fresh q →
       ∃ t, exec (.ulSched f) s = .next t ∧ kept q (findSched (t.carrier k).ul ref) ∧ t = { s with carriers := t.carriers, host := t.host }
         ∧ ∀ m, m ≠ k → t.carrier m = s.carrier m)
     ∧ (f.typ = 0x0A28#16 → (s.touch f).partOk f = true → (s.carrier k).inPast s.nowNs ref = false → ∀ q, q = (findSched (s.carrier k).dl ref).getD { slot := ref } → fresh q →
       ∃ t, exec (.dlSched f) s = .next t ∧ kept q (findSched (t.carrier k).dl ref) ∧ t = { s with carriers := t.carriers, host := t.host }
         ∧ ∀ m, m ≠ k → t.carrier m = s.carrier m)
     ∧ (f.typ = 0x0A29#16 → tbOk f.payload = true → (s.carrier k).cfg.isSome = true → (s.carrier k).removing = false →
       refOk (s.carrier k).conf ref = true → f.port = cfgPort (s.carrier k).conf → (s.carrier k).inPast s.nowNs ref = false →
       ∀ q p, findSched (s.carrier k).dl ref = some q → q.late = false → q.ended = false → q.ready = true →
         q.pdus[f.nat 4 2]? = some p → p.typ = 1 → p.decided = false →
         let off := f.nat 0x0C 4
         let n := f.nat 0x10 2
         ∃ t q' p', exec (.dlTb f) s = .next t ∧ t = { s with carriers := t.carriers, host := t.host } ∧ findSched (t.carrier k).dl ref = some q'
           ∧ q'.pdus[f.nat 4 2]? = some p'
           ∧ (f.nat 8 4 ≠ p.tbs ∨ p.tbs < off + n → p'.status = 0x0504#16)
           ∧ (f.nat 8 4 = p.tbs → off + n ≤ p.tbs → (∀ j, j < n → p.tb.get (off + j) = 0#9) →
               p'.status = p.status ∧ (∀ j, j < n → p'.tb.get (off + j) = (f.payload.getD (0x20 + j) 0#8).setWidth 9 + 1#9)
               ∧ ∀ j, (j < off ∨ off + n ≤ j) → p'.tb.get j = p.tb.get j)))
  ∧ (∀ (s : State) (k : CarrierId) (slot : Word), (s.carrier k).cfg.isSome = true →
     let late := fun (old : Sched) (new : Option Sched) => ∃ q : Sched, new = some q ∧ q.late = true ∧ (∀ p ∈ q.pdus, p.decided = true)
       ∧ ∀ n g p, old.got.find? (fun g => decide (g.2.1 ≤ n) && decide (n < g.2.1 + g.2.2.length)) = some g → g.2.2[n - g.2.1]? = some p →
           p.decided = false → ∃ p' : Pdu, q.pdus[n]? = some p' ∧ p'.status = 0x0503#16 ∧ p'.bytes = p.bytes
     (∀ q, q = (findSched (s.carrier k).ul slot).getD { slot := slot } → q.slot = slot → q.ready = false → q.late = false →
       ∃ t, exec (.ulSchedLate k slot) s = .next t ∧ late q (findSched (t.carrier k).ul slot) ∧ t = { s with carriers := t.carriers, host := t.host })
     ∧ (∀ q, q = (findSched (s.carrier k).dl slot).getD { slot := slot } → q.slot = slot → q.ready = false → q.late = false →
       ∃ t, exec (.dlSchedLate k slot) s = .next t ∧ late q (findSched (t.carrier k).dl slot) ∧ t = { s with carriers := t.carriers })
     ∧ (∀ q p (i : Half), findSched (s.carrier k).dl slot = some q → q.ready = true → q.late = false → q.pdus[i.toNat]? = some p → p.typ = 1 →
       p.decided = false → p.tbs ≠ 0 →
       ∃ t q' p', exec (.tbLate k slot i) s = .next t ∧ t = { s with carriers := t.carriers } ∧ findSched (t.carrier k).dl slot = some q'
         ∧ q'.pdus[i.toNat]? = some p' ∧ (p.tbDone = false → p'.status = 0x0505#16 ∧ p'.decided = true) ∧ (p.tbDone = true → p' = p)
         ∧ ∀ j, j ≠ i.toNat → q'.pdus[j]? = q.pdus[j]?))

/-- SLOT_DEADLINE (R245): every block of the slot without a result is decided with ST_DEADLINE_MISS and counted; no other block's outcome changes.

SLOT_BOUNDARY (R264, R291, R415): the running slot ends, the next one starts, what waited takes effect; before the first slot only the count advances; a
carrier that is being removed is gone. -/
def Obligations.DeadlineAndBoundary : Prop :=
  (∀ (s : State) (k : CarrierId) (slot : Word) (q : Sched), (s.carrier k).cfg.isSome = true → findSched (s.carrier k).ul slot = some q →
     q.ended = true → q.closed = false → s.twin.role ≠ .standby →
     ∃ (t : State) (q' : Sched), exec (.slotDeadline k slot) s = .next t ∧ findSched (t.carrier k).ul slot = some q' ∧ q'.closed = true ∧ q'.pdus.length = q.pdus.length
       ∧ (∀ (i : Nat) (p : Pdu), q.pdus[i]? = some p → ∃ p' : Pdu, q'.pdus[i]? = some p' ∧ p'.bytes = p.bytes
           ∧ (p.typ = 1 → p.decided = false → p'.decided = true ∧ p'.status = 0x0501#16)
           ∧ ((p.typ ≠ 1 ∨ p.decided = true) → p'.decided = p.decided ∧ p'.status = p.status))
       ∧ (t.carrier k).health.deadlineMiss.toNat
           = min (2 ^ 32 - 1) ((s.carrier k).health.deadlineMiss.toNat + q.pdus.countP fun p => p.typ == 1 && !p.decided)
       ∧ (t.carrier k).guardSlot ≠ some slot ∧ t.mem = s.mem ∧ t.cores = s.cores ∧ ∀ m, m ≠ k → t.carrier m = s.carrier m)
  ∧ (∀ (s : State) (k : CarrierId), Quiet s →
     let x := s.carrier k
     let ix := max (slotAt x.conf s.nowNs) (x.slotIx + 1)
     (x.cfg = none → exec (.slotBoundary k) s = .next s)
     ∧ (x.cfg.isSome = true → x.removing = true → ∃ t, exec (.slotBoundary k) s = .next t ∧ (t.carrier k).cfg = none ∧ (t.carrier k).ul = []
         ∧ (t.carrier k).weights = [] ∧ (t.carrier k).live = none ∧ (s.trainingJob k = none → t.mem = s.mem) ∧ ∀ m, m ≠ k → (t.carrier m).cfg = (s.carrier m).cfg)
     ∧ (x.cfg.isSome = true → x.removing = false → ix < x.firstIx → exec (.slotBoundary k) s = .next (s.modCarrier k fun x => { x with slotIx := ix }))
     ∧ (x.cfg.isSome = true → x.removing = false → x.firstIx ≤ ix → ∃ t, exec (.slotBoundary k) s = .next t ∧ (t.carrier k).slotIx = ix
         ∧ (t.carrier k).started = true ∧ (t.carrier k).cfg = (if x.change.isSome then x.change else x.cfg) ∧ (t.carrier k).change = none
         ∧ (t.carrier k).policyNew = none ∧ (t.carrier k).policy = x.policyNew.getD x.policy ∧ (t.carrier k).txZero = 0#14
         ∧ (∀ e ∈ t.dfe.queued, e.1 ≠ k.val)
         ∧ (x.started = true → x.change = none → cfgMu x.conf < 2 → ix ≤ x.slotIx + 64 → ∀ q, findSched x.ul (s.nowRef k) = some q →
             ∃ q', findSched (t.carrier k).ul (s.nowRef k) = some q' ∧ q'.ended = true ∧ q'.rx = x.rx.code
               ∧ q'.model = (match x.live with | some m => m.id | none => 0#32) ∧ q'.pdus.length = q.pdus.length
               ∧ ∀ (i : Nat) (p : Pdu), q.pdus[i]? = some p → ∃ f, q'.pdus[i]? = some { p with feat := f })
         ∧ (x.started = false → x.live.isSome = true → (t.carrier k).rx = .probation)
         ∧ (x.live = none → x.swap = none → (t.carrier k).rx = .cOnly)))

/-! ### Digital front end -/

/-- A received symbol enters the grid ring of its carrier in die memory, with its header and gain bytes, and bumps stake 0 of the floor
cores; nothing outside the slot of the ring changes (R248, R299, R300, R318).

A symbol is transmitted (R277, R301, R306, R307, R317, R319): PA_EN is on through downlink symbols for groups that are not muted, and off otherwise;
a symbol whose grid is not ready goes out as zero and its PDUs miss their deadline; every TX path has its samples; the U-plane sends each TX path. -/
def Obligations.FrontEndSymbols : Prop :=
  (∀ (s : State) (k : CarrierId) (sym : Fin 14), Quiet s → s.onAir k = true →
     symUp (s.carrier k).conf (s.carrier k).slotIx sym.val = true → (s.carrier k).floor.Nodup →
     let x := s.carrier k
     let g := s.ringAt k x.slotIx
     let enters := fun (t : State) => t = { s with carriers := t.carriers, cores := t.cores, freeCtr := t.freeCtr, mem := t.mem }
       ∧ (∀ m, m ≠ k → t.carrier m = s.carrier m)
       ∧ t.readPhys g.base 64 = g.header (Config.gridTensor k.val)
       ∧ t.readPhys (g.base + ringGains + 64 * sym.val) 64 = (List.range 64).map (fun n => (x.gains.get n).setWidth 8)
       ∧ (∀ p, p < g.base ∨ g.base + ringSlot x.conf ≤ p → t.mem.get p = s.mem.get p)
       ∧ (∀ c ∈ x.floor, (t.ctx c).stake 0 = (s.ctx c).stake 0 + 1#32 ∧ ∀ n, n % 16 ≠ 0 → (t.ctx c).stake n = (s.ctx c).stake n)
       ∧ ∀ c, c ∉ x.floor → t.core c = s.core c
     (∀ samples, cfg72 x.conf = false → ∃ t, exec (.dfeRxSymbol k sym samples) s = .next t ∧ enters t ∧ (t.carrier k).laneLost = 0#18
       ∧ (t.carrier k).meas.map (·.path) = x.rxPaths)
     ∧ (cfg72 x.conf = true → ∃ t, exec (.uplaneRxWindowEnd k sym) s = .next t ∧ enters t ∧ ∀ l ∈ (t.carrier k).upLines, l.sym ≠ sym.val))
  ∧ (∀ (s : State) (k : CarrierId) (sym : Fin 14) (ready : Bool), s.onAir k = true →
     let x := s.carrier k
     let down := symDown x.conf x.slotIx sym.val
     let late := match findSched x.dl (s.nowRef k) with | some q => q.late | none => false
     let g := s.txRing k
     let ring := fun (t : State) => ((down = false ∨ ready = false) → t.mem = s.mem)
       ∧ ∀ p, p < g.base ∨ g.base + g.data + 4 * g.planeBytes ≤ p → t.mem.get p = s.mem.get p
     (cfg72 x.conf = false → ∃ t, exec (.dfeTxSymbol k sym ready) s = .next t
       ∧ t = { s with carriers := t.carriers, host := t.host, mem := t.mem, pins := { s.pins with paEn := t.pins.paEn } } ∧ ring t
       ∧ (∀ g, g < 16 → t.pins.paEn.getLsbD g = if bitsOf (cfgTx x.conf) (4 * g) 4 = 0 then s.pins.paEn.getLsbD g
           else down && !s.power.tripped && bitsOf s.dfe.muted.toNat (4 * g) 4 != 15)
       ∧ (t.carrier k).txPath.map (·.path) = x.txPaths
       ∧ (down = true → (t.carrier k).txZero = if late = true ∨ ready = false then x.txZero ||| (1#14 <<< sym.val) else x.txZero)
       ∧ (down = true → ready = false → late = false → ∀ (q : Sched) (i : Nat) (p : Pdu), findSched x.dl (s.nowRef k) = some q → q.pdus[i]? = some p → p.decided = false →
           (occupied x p).inSym sym.val = true → ∃ (q' : Sched) (p' : Pdu), findSched (t.carrier k).dl (s.nowRef k) = some q' ∧ q'.pdus[i]? = some p'
             ∧ p'.status = 0x0501#16 ∧ p'.decided = true))
     ∧ (cfg72 x.conf = true → ∃ t, exec (.uplaneTx k sym ready) s = .next t
       ∧ t = { s with carriers := t.carriers, host := t.host, freeCtr := t.freeCtr, mem := t.mem } ∧ ring t
       ∧ (t.carrier k).fhCtl = x.fhCtl ++ fhControl x (s.nowRef k) sym.val
       ∧ (down = false → (t.carrier k).fhSent = x.fhSent)
       ∧ (down = true → ∃ sent : List FhSym, (t.carrier k).fhSent = x.fhSent ++ sent ∧ sent.map (·.path) = x.txPaths
           ∧ ∀ f ∈ sent, f.slot = s.nowRef k ∧ f.sym = sym.val ∧ f.prbs.length = cfgPrbs x.conf)))

/-- Stepped gain (R311, R312): clipping lowers the gain by clip_step, a level more than 3 dB above the target lowers it by the excess in dB, one more than
3 dB below raises it by at most up_max; the gain stays between gain_min and gain_max; a decided step takes effect at GAIN_STEP. -/
def Obligations.AgcFollowsRule : Prop :=
  ∀ (s : State) (k : CarrierId) (path : Fin 64), s.onAir k = true →
    let x := s.carrier k
    let r := (s.dfe.agcOf k.val).toNat
    let old := (x.gains.get path.val).toNat
    (∀ (m : RxMeas) (level : Int), s.twin.role ≠ .standby → cfg72 x.conf = false → r.testBit 42 = false → (∀ q ∈ x.gainNext, q.1 ≠ path.val) →
      x.meas.find? (fun m => m.path == path.val) = some m → m.level = some level → bitsOf r 48 5 ≤ bitsOf r 53 5 →
      let err := level - signExt 8 (bitsOf r 8 8)
      let step : Int := if bitsOf r 31 4 ≤ m.clips then -(bitsOf r 35 4 : Nat) else if 12 < err then -(err / 4)
        else if err < -12 then min (bitsOf r 39 3 : Nat) ((-err) / 4) else 0
      ∃ (t : State) (new : Nat), exec (.agcDecision k path) s = .next t ∧ t = { s with carriers := t.carriers }
        ∧ (new : Int) = max (bitsOf r 48 5 : Int) (min (bitsOf r 53 5 : Int) ((old : Int) + step))
        ∧ t.carrier k = { x with gainNext := if new = old then x.gainNext else x.gainNext ++ [(path.val, new)] }
        ∧ ∀ m, m ≠ k → t.carrier m = s.carrier m)
    ∧ (∀ q, x.gainNext.find? (fun q => q.1 == path.val) = some q → q.2 < 32 → ∃ t, exec (.gainStep k path) s = .next t
      ∧ t = { s with carriers := t.carriers, pins := { s.pins with rg := t.pins.rg, rgLoads := s.pins.rgLoads + 1 } }
      ∧ ((t.carrier k).gains.get path.val).toNat = q.2 ∧ (∀ p, p ≠ path.val → (t.carrier k).gains.get p = x.gains.get p)
      ∧ (∀ e ∈ (t.carrier k).gainNext, e.1 ≠ path.val)
      ∧ ((∀ m, m ≠ k → (s.carrier m).cfg.isSome = true → (cfgRx (s.carrier m).conf).testBit path.val = false) →
          (cfgRx x.conf).testBit path.val = true → (t.pins.rg.get path).toNat = q.2))

/-- The mask monitor of one band (R307): a measured ACLR below the band's limit counts, and the count of violations that the register asks for starts again,
reports ST_MASK_VIOLATION, mutes the path when asked and takes back a DPD set that is new; any other slot clears the count. MUTE_CLEAR takes a waiting clear.

DPD_ADAPT (R305): the fitted set waits for the slot boundary, unless the set in use does more than 0.5 dB worse than its predecessor did, which then comes
back; the observation channel looks at the path. -/
def Obligations.MaskMonitorAndDpd : Prop :=
  (∀ (s : State) (k : CarrierId) (path : Fin 64),
     let x := s.carrier k
     let r := (s.dfe.maskOf (4 * k.val)).toNat
     let n := (s.dfe.viol.get (4 * path.val)).toNat
     (∀ dpdTap obsTap : List (Int × Int), s.twin.role ≠ .standby → s.onAir k = true → cfg72 x.conf = false → (cfgTx x.conf).testBit path.val = true →
       (lastDown x.conf x.slotIx).isSome = true → r.testBit 63 = true → r.testBit 18 = false → dpdTap ≠ [] →
       (∀ b, 1 ≤ b → b < 4 → (s.dfe.maskOf (4 * k.val + b)).toNat.testBit 63 = false) →
       let aclr := x.aclr r 245760000 dpdTap
       let q := s.dfe.dpdSet path.val
       ∃ t, exec (.maskMonitor k path dpdTap obsTap) s = .next t ∧ t = { s with dfe := t.dfe, host := t.host } ∧ t.dfe.muted = s.dfe.muted
         ∧ ((∀ a, aclr = some a → (bitsOf r 19 10 : Int) ≤ a) → t.dfe.viol.get (4 * path.val) = 0#4 ∧ t.dfe.muteDue = s.dfe.muteDue ∧ t.host = s.host)
         ∧ (∀ a, aclr = some a → a < bitsOf r 19 10 → n + 1 < bitsOf r 14 4 →
             (t.dfe.viol.get (4 * path.val)).toNat = n + 1 ∧ t.dfe.muteDue = s.dfe.muteDue ∧ t.host = s.host)
         ∧ (∀ a, aclr = some a → a < bitsOf r 19 10 → bitsOf r 14 4 ≤ n + 1 → t.dfe.viol.get (4 * path.val) = 0#4
             ∧ t.dfe.muteDue = (if r.testBit 13 then s.dfe.muteDue ||| (1#64 <<< path.val) else s.dfe.muteDue)
             ∧ (∀ p, q.fresh = true → q.prev = some p → t.dfe.dpdSet path.val = { q with wait := some p, back := true })
             ∧ ((q.fresh = false ∨ q.prev = none) → t.dfe.dpd = s.dfe.dpd)
             ∧ Notified s t 0x0A08 0x0506#16 (leBytes 4 (s.nowRef k).toNat ++ leBytes 1 k.val ++ leBytes 1 path.val ++ leBytes 1 0 ++ leBytes 1 0
                 ++ leBytes 2 (BitVec.ofInt 16 a).toNat ++ leBytes 6 0) hostPort))
     ∧ ((∃ e ∈ s.dfe.queued, e.2.1 = 11 ∧ e.2.2.1 = path.val) → ∃ t, exec (.muteClear path) s = .next t ∧ t = { s with dfe := t.dfe }
         ∧ t.dfe.muted = s.dfe.muted &&& ~~~(1#64 <<< path.val) ∧ t.dfe.muteDue = s.dfe.muteDue &&& ~~~(1#64 <<< path.val)
         ∧ ∀ e ∈ t.dfe.queued, ¬ (e.2.1 = 11 ∧ e.2.2.1 = path.val)))
  ∧ (∀ (s : State) (path : Fin 64) (obs : List (Int × Int)) (k : CarrierId), s.txCarrier path.val = some k → s.twin.role ≠ .standby → s.onAir k = true →
     cfg72 (s.carrier k).conf = false → (s.dfe.dpdOf path.val).getLsbD 9 = true → (s.dfe.dpdOf path.val).getLsbD 8 = false →
     linkFast (txOpt s.dfe.jsCfg) = true → obsEn s.dfe.jsCfg = true →
     let q := s.dfe.dpdSet path.val
     let tx := match (s.carrier k).txPath.find? (fun q => q.path == path.val) with | some q => q.out | none => []
     let err := Config.dpdError obs tx q.cur
     let fit := (List.range (dpdTerms (s.dfe.dpdOf path.val).toNat)).map (Config.dpdFit obs tx q.cur)
     let worse := ∃ p, q.prev = some p ∧ q.prevErr + 8 < err
     ∃ t, exec (.dpdAdapt path obs) s = .next t ∧ t = { s with dfe := { s.dfe with dpd := t.dfe.dpd }, pins := t.pins }
       ∧ (worse → t.dfe.dpdSet path.val = { q with wait := q.prev, back := true })
       ∧ (¬ worse → t.dfe.dpdSet path.val = { q with wait := some fit, back := false, prevErr := err })
       ∧ (∀ p, p % 64 ≠ path.val → t.dfe.dpdSet p = s.dfe.dpdSet p) ∧ t.pins.observed path.val = true)

/-- SYSREF and lanes (R314, R315): the first edge aligns the LEMC, a later edge off it is reported; a lane in use that loses lock is marked and reported, and
marked back when it relocks.

UPLANE_RX (R318): a packet outside its window is dropped and counted, a second one of its symbol and path is counted, the first one's lanes are kept. -/
def Obligations.LanesAndUplane : Prop :=
  (∀ (s : State),
     (∀ off, s.dfe.aligned = false → exec (.sysrefEdge off) s = .next { s with dfe := { s.dfe with aligned := true } })
     ∧ (∀ off, s.dfe.aligned = true → s.dfe.jsCfg.getLsbD 16 = true → off ≠ 0#32 → ∃ t, exec (.sysrefEdge off) s = .next t ∧ t = { s with host := t.host }
       ∧ Notified s t 0x0A08 0x0507#16 (leBytes 4 0 ++ [0xFF#8, 0xFF#8, 0#8, 0#8] ++ leBytes 2 0 ++ leBytes 6 0) hostPort)
     ∧ (∀ lane : Fin 18, s.laneUsed lane.val = true → s.dfe.locked.getLsbD lane.val = true → ∃ t, exec (.laneLockLoss lane) s = .next t
       ∧ t = { s with dfe := { s.dfe with locked := s.dfe.locked &&& ~~~(1#18 <<< lane.val) }, carriers := t.carriers, host := t.host }
       ∧ (∀ k, t.carrier k = { s.carrier k with laneLost := (s.carrier k).laneLost ||| (1#18 <<< lane.val) })
       ∧ (lane.val ≥ 16 → Notified s t 0x0A08 0x0507#16 (leBytes 4 0 ++ [0xFF#8, 0xFF#8, 0#8] ++ leBytes 1 lane.val ++ leBytes 2 0 ++ leBytes 6 0) hostPort))
     ∧ (∀ lane : Fin 18, exec (.laneRelock lane) s = .next { s with dfe := { s.dfe with locked := s.dfe.locked ||| (1#18 <<< lane.val) } }))
  ∧ (∀ (s : State) (k : CarrierId) (path : Fin 64) (sym : Fin 14) (at_ns : Int) (prbs : List (BitVec 4 × List Int)),
     let x := s.carrier k
     s.onAir k = true → cfg72 x.conf = true → (cfgRx x.conf).testBit path.val = true → symUp x.conf x.slotIx sym.val = true →
     let inside := (usField x.conf 0x9E 20 : Int) ≤ at_ns ∧ at_ns ≤ (usField x.conf 0xA0 43 : Int)
     let dup := ∃ l ∈ x.upLines, l.path = path.val ∧ l.sym = sym.val
     ∃ t, exec (.uplaneRx k path sym at_ns prbs) s = .next t ∧ t = { s with carriers := t.carriers } ∧ (∀ m, m ≠ k → t.carrier m = s.carrier m)
       ∧ (¬ inside → t.carrier k = { x with upDropped := satInc32 x.upDropped })
       ∧ (inside → dup → t.carrier k = { x with upDup := satInc32 x.upDup })
       ∧ (inside → ¬ dup → t.carrier k = { x with upLines := x.upLines ++ [{ path := path.val, sym := sym.val, lanes := fhLanes (fhScale x.conf) prbs }] }))

/-- The beacon (R346, R348, R351, R353, R355, R357): a guard period whose turn it is and that has room holds a burst of up to eight data symbols of the running
round, or of the next one, from the first sample after the window opens; what its captures give is kept with the round; a lane without lock ends the round; a
round that has ended is reported. -/
def Obligations.BeaconBurstsAndResults : Prop :=
  ∀ (s : State) (k : CarrierId),
    let x := s.carrier k
    let reg := s.dfe.calOf k.val
    (∀ (sym : Fin 14) (g : Nat) (caps : List (List (Int × Int))), s.twin.role ≠ .standby → s.onAir k = true → cfgMode x.conf = 1 → calEn reg = true →
      guardLen x.conf x.slotIx sym.val = some g → guardNumber x.conf x.firstIx x.slotIx sym.val % max 1 (bitsOf reg.toNat 20 4) = 0 →
      let r := x.cal.cur.getD (nextRound x k reg).1
      let opens := burstOpen x.conf (s.dfe.rampOf k.val) (bitsOf (s.dfe.agcOf k.val).toNat 0 8) r.rx
      let room := burstRoom x.conf (s.dfe.rampOf k.val) (bitsOf (s.dfe.agcOf k.val).toNat 0 8) r.rx (calRate r.reg) g
      let n := min 8 (min (room - 1) (r.symbols - r.sentSym))
      let unit := if linkFast (txOpt s.dfe.jsCfg) then 100000 else 200000
      let from_ := linkStart s.dfe x.conf x.slotIx sym.val
      (room < 2 → exec (.calBurst k sym caps) s = .next s)
      ∧ (2 ≤ room → ∃ t b, exec (.calBurst k sym caps) s = .next t
        ∧ t = { s with carriers := t.carriers, pins := { s.pins with rg := t.pins.rg, rgLoads := t.pins.rgLoads } }
        ∧ t.pins.rgLoads = s.pins.rgLoads + (if r.rx then 2 else 0) ∧ (∀ m, m ≠ k → t.carrier m = s.carrier m)
        ∧ (t.carrier k).cal.sent = x.cal.sent ++ [b] ∧ b.slot = slotRef k x.conf x.slotIx ∧ b.sym = sym.val ∧ b.round = r.round ∧ b.first = r.sentSym ∧ b.count = n
        ∧ from_ * unit + opens ≤ b.start * unit ∧ b.start * unit < from_ * unit + opens + unit
        ∧ b.wave = r.frames.map (fun f => (f.1, beaconSamples r.reg (chipSamples (calRate r.reg) * 100000 / unit) f.2.1 f.2.2 r.sentSym n))
        ∧ (t.carrier k).cal.round = (if x.cal.cur.isSome then x.cal.round else x.cal.round + 1#16)
        ∧ (s.calLanes k r.rx = false → (t.carrier k).cal.cur = none ∧ ∃ e, (t.carrier k).cal.done = x.cal.done ++ [e] ∧ e.round = r.round ∧ e.aborted = true)
        ∧ (s.calLanes k r.rx = true → r.sentSym + n < r.symbols → (t.carrier k).cal.done = x.cal.done
            ∧ ∃ e, (t.carrier k).cal.cur = some e ∧ e.round = r.round ∧ e.sentSym = r.sentSym + n ∧ e.bursts = r.bursts + 1
                ∧ e.got = r.got ++ [r.measure s.dfe x.rxPaths n caps])
        ∧ (s.calLanes k r.rx = true → r.symbols ≤ r.sentSym + n → (t.carrier k).cal.cur = none
            ∧ ∃ e, (t.carrier k).cal.done = x.cal.done ++ [e] ∧ e.round = r.round ∧ e.sentSym = r.sentSym + n
                ∧ e.got = r.got ++ [r.measure s.dfe x.rxPaths n caps])))
    ∧ (∀ (r : CalRound) (rest : List CalRound), x.cal.done = r :: rest →
      let paths := if r.rx then x.rxPaths else (List.range 64).filter r.paths.contains
      ∃ (t : State) (es : List Byte), exec (.calResult k) s = .next t ∧ t = { s with carriers := t.carriers, host := t.host, freeCtr := t.freeCtr }
        ∧ t.carrier k = { x with cal := { x.cal with done := rest } } ∧ es.length = (if r.aborted then 0 else 12 * paths.length)
        ∧ Notified s t 0x0A09 (if r.aborted then 0x050C#16 else 0x0000#16)
            (leBytes 4 r.last.toNat ++ leBytes 2 r.round.toNat ++ leBytes 1 (if r.rx then 1 else 0) ++ leBytes 1 (if r.aborted then 0 else paths.length)
              ++ leBytes 2 (if r.aborted then 0x050C else 0) ++ leBytes 1 (calRef r.reg) ++ leBytes 1 r.bursts
              ++ leBytes 2 (Config.calLevel (calParts (r.of (calRef r.reg)))).toNat ++ [0#8, 0#8] ++ es) hostPort)

/-! ### Learning -/

/-- Capture (R360, R361, R363): a record of a captured block takes the next position of its ring and the next capture number; the records of a closed slot that
were not written are counted as dropped.

The training job (R364, R365): at win_start it is submitted with the rings protected, or ST_TRAIN_DATA is reported when too few records are there; a job
that its window suspended goes on. At the window's end the job is suspended. -/
def Obligations.CaptureAndTraining : Prop :=
  (∀ (s : State) (k : CarrierId) (slot : Word) (i : Half) (q : Sched) (p : Pdu), findSched (s.carrier k).ul slot = some q → q.capturePdu i.toNat = some p →
     let x := s.carrier k
     let ring := fun (y : Carrier) => if x.toHold then y.hold else y.train
     let other := fun (y : Carrier) => if x.toHold then y.train else y.hold
     let at_ := s.captureAt k x.toHold
     (∀ tile f, tile ∈ captureTiles q.pol slot p → (i.toNat, tile) ∉ q.tiles → (ring x).lock = none → (∀ e ∈ (ring x).recs, e.1 < (ring x).nextK) →
       p.feat.find? (fun e => e.1 == tile) = some (tile, f) → f.length = 5760 →
       let place := at_ + 64 + 6528 * ((ring x).nextK % max 1 (ring x).cap)
       ∃ t b, exec (.captureRecord k slot i tile) s = .next t ∧ t = { s with carriers := t.carriers, mem := t.mem } ∧ (∀ m, m ≠ k → t.carrier m = s.carrier m)
         ∧ t.readPhys place 6528 = b ∧ t.readPhys at_ 64 = (ring (t.carrier k)).header
         ∧ (∀ a, (a < at_ ∨ at_ + 64 ≤ a) → (a < place ∨ place + 6528 ≤ a) → t.mem.get a = s.mem.get a) ∧ (b.drop 64).take 5760 = f
         ∧ (t.carrier k).capCount = x.capCount + 1#64 ∧ b.length = 6528 ∧ b.take 8 = leBytes 8 x.capCount.toNat ∧ (ring (t.carrier k)).recs.getLast? = some ((ring x).nextK, b)
         ∧ (ring (t.carrier k)).nextK = (ring x).nextK + 1 ∧ (∀ e ∈ (ring (t.carrier k)).recs, e.1 + (ring x).cap ≠ (ring x).nextK ∨ e.1 = (ring x).nextK)
         ∧ other (t.carrier k) = other x ∧ ∃ q', findSched (t.carrier k).ul slot = some q' ∧ q'.tiles = q.tiles ++ [(i.toNat, tile)])
     ∧ (q.closed = true → ∃ t, exec (.captureDrop k slot i) s = .next t ∧ t = { s with carriers := t.carriers, mem := t.mem }
         ∧ (∀ a, (a < at_ ∨ at_ + 64 ≤ a) → t.mem.get a = s.mem.get a) ∧ (t.carrier k).capCount = x.capCount
         ∧ other (t.carrier k) = other x ∧ (ring (t.carrier k)).recs = (ring x).recs
         ∧ (ring (t.carrier k)).dropped.toNat = min (2 ^ 64 - 1) ((ring x).dropped.toNat + ((captureTiles q.pol slot p).filter fun n => !q.tiles.contains (i.toNat, n)).length)))
  ∧ (∀ (s : State) (k : CarrierId), Quiet s →
     let x := s.carrier k
     (∀ base, x.cfg.isSome = true → x.live = some base → s.trainingJob k = none → s.twin.formed = false → polFlag x.policy 1 = true →
       polNat x.policy 0x26 2 ≠ 0 → s.toValidate k = none →
       (polNat x.policy 0x2A 2 ≤ x.train.valid → ∃ t j, exec (.trainSubmit k) s = .next t ∧ t = { s with jobs := s.jobs ++ [j], nextJob := s.nextJob + 1#32, carriers := t.carriers, mem := t.mem }
         ∧ (∀ a, (∀ h : Bool, a < s.captureAt k h ∨ s.captureAt k h + 64 ≤ a) → t.mem.get a = s.mem.get a)
         ∧ j.id = s.nextJob ∧ j.phase = .queued ∧ j.mailbox = BitVec.ofNat 4 (polNat x.policy 0x28 1) ∧ j.deterministic = true ∧ j.carrier = some k
         ∧ (t.carrier k).train.lock = (if x.train.firstK < x.train.nextK then some (x.train.firstK, x.train.nextK - 1) else none)
         ∧ (t.carrier k).train.recs = x.train.recs ∧ ∃ w, (t.carrier k).job = some w ∧ w.job = s.nextJob ∧ w.base = base.id ∧ w.image = base.image ∧ w.policy = x.policy)
       ∧ (x.train.valid < polNat x.policy 0x2A 2 → ∃ t, exec (.trainSubmit k) s = .next t ∧ t = { s with host := t.host }
         ∧ Notified s t 0x0A0D 0x050F#16 (leBytes 1 k.val ++ [0#8] ++ leBytes 2 0x050F ++ leBytes 4 0 ++ leBytes 4 base.id.toNat ++ List.replicate 20 0#8) hostPort))
     ∧ (∀ j base, x.cfg.isSome = true → x.live = some base → s.trainingJob k = some j → ∃ t j', exec (.trainSubmit k) s = .next t ∧ t = { s with jobs := t.jobs }
         ∧ t.job j.id = some j' ∧ j' = { j with winSusp := false })
     ∧ (∀ j, s.trainingJob k = some j → ∃ t j', exec (.trainSuspend k) s = .next t ∧ t = { s with jobs := t.jobs, cores := t.cores }
         ∧ t.job j.id = some j' ∧ j' = { j with winSusp := true } ∧ ∀ c r, (s.core c).owner = .rank j.id r → PreReq.host ∈ (t.core c).preempt))

/-- A candidate (R366, R367, R369 to R371, R373): it is evaluated beside its base over the held-out records; it is kept, or swapped in under auto_swap, signed and as a model of
its own, only when enough records were evaluated and its errors are few enough against those of its base; otherwise the failure is reported.

MODEL_LOAD_COMPLETE (R372, R500): the loaded model gets a boundary after the running slot, and its image digest and training record are measured into the
register of its carrier, in that order; no other register changes. -/
def Obligations.CandidateAndLoad : Prop :=
  (∀ (s : State) (k : CarrierId) (w : Training), s.toValidate k = some w →
     let x := s.carrier k
     let recs := x.train.within w.train
     let held := x.hold.within w.hold
     let base := modelBody w.image
     let image := Config.trainImage recs base w.policy
     let eBase := (held.map (recordErrors base)).sum
     let eCand := (held.map (recordErrors image)).sum
     let passes := polNat w.policy 0x18 4 ≤ held.length ∧ eCand * 1024 ≤ eBase * (1024 - polNat w.policy 0x1C 2)
     let id := 0x80000000#32 ||| (s.models + 1#32)
     let told := fun (t : State) (st : Half) (cand e b c : Nat) => Notified s t 0x0A0D st (leBytes 1 k.val ++ [0#8] ++ leBytes 2 st.toNat ++ leBytes 4 cand
       ++ leBytes 4 w.base.toNat ++ leBytes 4 (trainedRecords w.policy recs.length) ++ leBytes 4 e ++ leBytes 4 b ++ leBytes 4 c ++ leBytes 4 0) hostPort
     (Config.trainNan recs base w.policy = true → ∃ t, exec (.candidateValidation k) s = .next t ∧ t = { s with carriers := t.carriers, host := t.host }
       ∧ (t.carrier k).cand = x.cand ∧ (t.carrier k).job = none ∧ told t 0x050D#16 0 0 0 0)
     ∧ (Config.trainNan recs base w.policy = false → ∃ t, exec (.candidateValidation k) s = .next t ∧ (t.carrier k).job = none ∧ t.models = s.models + 1#32
       ∧ t = { s with carriers := t.carriers, models := t.models, host := t.host, freeCtr := t.freeCtr } ∧ (∀ m, m ≠ k → t.carrier m = s.carrier m)
       ∧ (¬ passes → told t 0x050D#16 id.toNat held.length eBase eCand ∧ (t.carrier k).cand = x.cand ∧ (t.carrier k).swap = x.swap)
       ∧ (passes → x.live.map (·.id) ≠ some w.base → told t 0x050E#16 id.toNat held.length eBase eCand ∧ (t.carrier k).cand = x.cand ∧ (t.carrier k).swap = x.swap)
       ∧ (passes → x.live.map (·.id) = some w.base → told t 0x0000#16 id.toNat held.length eBase eCand ∧ ∃ m : Model, m.id = id ∧ m.image.take image.length = image
           ∧ fieldAt (m.image.drop (padTo16 image).length) 5 1 = 7 ∧ m.digest = Sha.digest m.image ∧ m.base = w.base ∧ m.candidate = true
           ∧ (if polFlag w.policy 2 = true ∧ x.rx ≠ .fallback ∧ x.swap = none then (t.carrier k).swap = some m ∧ (t.carrier k).cand = none
              else (t.carrier k).cand = some m ∧ (t.carrier k).swap = x.swap))))
  ∧ (∀ (s : State) (k : CarrierId) (m : Model), (s.carrier k).swap = some m → (s.carrier k).swapIx = none → (s.carrier k).guardSlot = none →
     let i : Fin 16 := ⟨6 + k.val, by omega⟩
     let entry := fun (typ : Nat) (d : List Byte) => Sha.sha384 (leBytes 2 typ ++ leBytes 2 (m.id.toNat % 65536) ++ leBytes 4 0 ++ d)
     let next := fun (r : BitVec 384) (e : List Byte) => Sha.digest (beBytes 48 r.toNat ++ e)
     ∃ t b, exec (.modelLoadComplete k) s = .next t ∧ t = { s with carriers := t.carriers, security := t.security }
       ∧ t.carrier k = { s.carrier k with swapIx := some b } ∧ (s.carrier k).slotIx < b ∧ (∀ n, n ≠ k → t.carrier n = s.carrier n)
       ∧ t.security.regs.get i = next (next (s.security.regs.get i) (entry 7 (beBytes 48 m.digest.toNat))) (entry 8 (Sha.sha384 m.trec))
       ∧ t.security.counts.get i = s.security.counts.get i + 2#16 ∧ t.security.counters = s.security.counters ∧ t.security.owners = s.security.owners
       ∧ ∀ n, n ≠ i → t.security.regs.get n = s.security.regs.get n ∧ t.security.counts.get n = s.security.counts.get n)

/-! ### Timing unit -/

/-- Alarms (R387): TU_ALARM_LO only stages, TU_ALARM_HI takes the staged bits with its own and arms; an armed alarm fires once the low 40 bits of device time
have reached its target, by signed difference: it disarms, writes a record, pulses its output, and alarms 8 to 15 are reported. That a write of the reserved out 3
has no effect is the model's choice (log 62). -/
def Obligations.AlarmsFire : Prop :=
  ∀ (s : State) (n : Fin 16),
    let a := s.time.alarm n
    (∀ v : Word, exec (.tuAlarmLo n v) s = .next (s.setAlarm n { a with lo := v }))
    ∧ (∀ v : Word, bitsOf v.toNat 29 2 ≠ 3 → exec (.tuAlarmHi n v) s = .next (s.setAlarm n
        { lo := a.lo, target := v.setWidth 8 ++ a.lo, arm := v.getLsbD 31, out := BitVec.ofNat 2 (bitsOf v.toNat 29 2) }))
    ∧ (∀ v : Word, bitsOf v.toNat 29 2 = 3 → exec (.tuAlarmHi n v) s = .next s)
    ∧ (∀ m b, (s.setAlarm n b).time.alarm m = if m = n then b else s.time.alarm m)
    ∧ ((a.arm = false ∨ (BitVec.ofNat 40 s.nowNs - a.target).toInt < 0) → exec (.alarmFire n) s = .next s)
    ∧ (a.arm = true → 0 ≤ (BitVec.ofNat 40 s.nowNs - a.target).toInt →
        let u := (s.setAlarm n { a with arm := false }).event (srcWord 7 0) 0x20 0x0000#16 (leBytes 1 n.val)
        ∃ t, exec (.alarmFire n) s = .next t ∧ t = { u with host := t.host, pins := t.pins } ∧ Logged s t (srcWord 7 0) 0x20 0x0000#16 (leBytes 1 n.val)
        ∧ t.time.alarm n = { a with arm := false }
        ∧ t.pins = { s.pins with tuOut0 := s.pins.tuOut0 + (if a.out = 1#2 then 1 else 0), tuOut1 := s.pins.tuOut1 + (if a.out = 2#2 then 1 else 0) }
        ∧ (n.val < 8 → t.host = u.host)
        ∧ (8 ≤ n.val → Notified u t 0x0B04 0x0000#16 ([2#8] ++ leBytes 1 s.time.state.code ++ leBytes 1 s.time.state.code
            ++ [s.time.epoch] ++ leBytes 1 n.val ++ [0#8, 0#8, 0#8] ++ s.fullTime) hostPort))

/-- The servo (R380, R382, R383, R384): a Sync of the selected master gives an offset, which is stepped only in LOCKING, above step_limit, with no carrier configured, and
slewed otherwise while the servo is LOCKING; sixteen good ones in a row lock; an announced or lost master moves the state, and HOLDOVER runs at the held rate. That
nothing is slewed in LOCKED is the model's reading (log 78). -/
def Obligations.PtpServo : Prop :=
  ∀ (s : State), tuSlaveEn s.time.ctl = true →
    (∀ (port : Fin 2) (m : Dword) (o co ing : Int), port.val = tuSlavePort s.time.ctl → s.time.master = some m → (s.time.state = .locking ∨ s.time.state = .locked) →
      let off := ing - (o + co + s.time.delay)
      let steps := s.time.state = .locking ∧ tuStepLimit s.time.ctl ≠ 0 ∧ (tuStepLimit s.time.ctl : Int) * 65536 < off.natAbs ∧ s.anyCarrier = false
      let good := if off.natAbs ≤ tuLockThresh s.time.ctl * 65536 then s.time.good + 1 else 0
      ∃ t, exec (.sync port m o co ing) s = .next t ∧ t = { s with time := t.time, host := t.host, freeCtr := s.freeCtr + 1 }
        ∧ t.time.offset = BitVec.ofInt 32 (max (-2147483648) (min 2147483647 (off / 65536))) ∧ t.time.held = t.time.rate
        ∧ (t.time.rate.toNat : Int) - Config.nominalRate ≤ Config.rateSpan ∧ (Config.nominalRate : Int) - t.time.rate.toNat ≤ Config.rateSpan
        ∧ (steps → t.time.acc = BitVec.ofInt 96 (s.time.acc.toNat - off * 65536) ∧ t.time.epoch = s.time.epoch + 1#8 ∧ t.time.slew = 0 ∧ t.time.state = .locking)
        ∧ (¬ steps → t.time.acc = s.time.acc ∧ t.time.epoch = s.time.epoch ∧ t.time.slew = (if s.time.state = .locking ∧ good < 16 then -(off * 65536) else 0)
            ∧ t.time.state = if s.time.state = .locking ∧ good < 16 then .locking else .locked))
    ∧ (∀ (port : Fin 2) (best : Dword), port.val = tuSlavePort s.time.ctl → ∃ t, exec (.announce port best) s = .next t
        ∧ t = { s with time := t.time, host := t.host } ∧ t.time.acc = s.time.acc
        ∧ (s.time.state = .freerun ∨ s.time.state = .holdover → t.time.state = .locking ∧ t.time.master = some best ∧ t.time.good = 0)
        ∧ ((s.time.state = .locking ∨ s.time.state = .locked) → s.time.master = some best → t = s)
        ∧ ((s.time.state = .locking ∨ s.time.state = .locked) → s.time.master ≠ some best → t.time.state = .holdover ∧ t.time.master = none ∧ t.time.slew = 0
            ∧ t.time.rate = s.time.held))
    ∧ (∀ (port : Fin 2) (m : Dword) (t1 t2 t3 t4 co : Int), port.val = tuSlavePort s.time.ctl → s.time.master = some m →
        exec (.delayResp port m t1 t2 t3 t4 co) s = .next { s with time := { s.time with delay := ((t2 - t1) + (t4 - t3) - co) / 2 } })
    ∧ ((s.time.state = .locking ∨ s.time.state = .locked) → ∃ t, exec .masterLoss s = .next t ∧ t = { s with time := t.time, host := t.host }
        ∧ t.time.state = .holdover ∧ t.time.master = none ∧ t.time.slew = 0 ∧ t.time.rate = s.time.held ∧ t.time.acc = s.time.acc
        ∧ Notified s t 0x0B04 0x0601#16 ([0#8] ++ leBytes 1 s.time.state.code ++ leBytes 1 3 ++ [s.time.epoch, 0#8, 0#8, 0#8, 0#8] ++ s.fullTime) hostPort)

/-- The transparent clock adds the residence time to the correctionField of PTPv2 Sync and Delay_Req frames, the largest value standing for a sum that does not fit, and
leaves other frames alone; they leave on the other port (R385, R386). The SyncE inputs are shown (R381), and PPS_OUT pulses when it is enabled (R524).

With no command waiting the timing unit ticks and one message leaves (log 8, the model's choice; the increment is R378's). -/
def Obligations.ClockOutputsAndTick : Prop :=
  (∀ (s : State),
     (∀ (port : Fin 2) (ver typ : BitVec 4) (co tIn tOut : Dword), tuTcEn s.time.ctl = true →
       ∃ c, exec (.transparentClock port ver typ co tIn tOut) s = .next { s with time := { s.time with forwarded := s.time.forwarded ++ [(1 - port.val, c)] } }
         ∧ (¬ (ver = 2#4 ∧ (typ = 0#4 ∨ typ = 1#4)) → c = co)
         ∧ (ver = 2#4 → (typ = 0#4 ∨ typ = 1#4) → co = 0x7FFFFFFFFFFFFFFF#64 → c = co)
         ∧ (ver = 2#4 → (typ = 0#4 ∨ typ = 1#4) → co ≠ 0x7FFFFFFFFFFFFFFF#64 → c.toInt = min (2 ^ 63 - 1) (co.toInt + (tOut - tIn).toNat)))
     ∧ (∀ (port : Fin 2) ql, exec (.esmc port ql) s = .next (if port.val = tuSyncePort s.time.ctl then { s with time := { s.time with ql := ql } } else s))
     ∧ (∀ l, exec (.synceLock l) s = .next (if tuSynceEn s.time.ctl then { s with time := { s.time with synceLock := l } } else s))
     ∧ exec .ppsOut s = .next (if tuPps s.time.ctl then { s with pins := { s.pins with pps := s.pins.pps + 1 } } else s))
  ∧ (∀ (s : State), s.pending = [] → s.lantern.powered = true →
     ∃ t, step s = .next t ∧ t = { s with time := t.time, host := t.host }
       ∧ (s.time.slew = 0 → t.time = { s.time with acc := s.time.acc + s.time.rate.setWidth 96 })
       ∧ (s.host.txq = [] → t.host = s.host)
       ∧ (s.host.txq ≠ [] → ∃ m ∈ s.host.txq, t.host.sent = s.host.sent ++ [m] ∧ t.host.txq = s.host.txq.erase m
           ∧ ((∃ n ∈ s.host.txq, isSlotMsg n.typ = true) → isSlotMsg m.typ = true)))

/-- REGISTER_WRITE (R11, R308, R383): a DFE or JESD204C register whose value is in range takes it, at the slot boundary of a configured carrier that it belongs to
or else at once; DM_PTROOT, TU_CTL, TU_RATE and PM_CTL take theirs at once; reserved bits stay 0. A value out of range has no effect (log 62, the model's choice).

DFE registers by message (R308, R417): a list whose entries are all in range is taken whole, entry by entry, and any other is refused whole, with the status of its first bad
entry. -/
def Obligations.RegisterWritesAndDfeConfig : Prop :=
  (∀ (s : State) (v : Dword),
     (∀ c, exec (.registerWrite (.dmPtroot c) v) s = .next (s.modCore c fun k => { k with ptRoot := v &&& 0xFFFF03FFFFFFF000#64 }))
     ∧ (tuCtlOk v = true → ∃ t, exec (.registerWrite .tuCtl v) s = .next t ∧ t = { s with time := t.time, host := t.host }
         ∧ t.time.ctl = v &&& 0xFFFFFFFFFFFF003F#64 ∧ t.time.acc = s.time.acc
         ∧ (v.getLsbD 0 = false → t.time.state = .freerun ∧ t.time.rate = 0x200000000#48 ∧ t.time.master = none)
         ∧ (v.getLsbD 0 = true → t.time.state = s.time.state ∧ t.time.rate = s.time.rate))
     ∧ (tuCtlOk v = false → exec (.registerWrite .tuCtl v) s = .next s)
     ∧ (let n := v.toNat % 2 ^ 48
        exec (.registerWrite .tuRate v) s = .next (if 0x200000000 - 1717986 ≤ n ∧ n ≤ 0x200000000 + 1717986 then
          { s with time := { s.time with rate := BitVec.ofNat 48 n } } else s))
     ∧ (bitsOf v.toNat 16 5 ≤ 16 → ∃ t, exec (.registerWrite .pmCtl v) s = .next t ∧ t = { s with power := t.power }
         ∧ t.power.readCtl = bitsOf v.toNat 24 8 * 2 ^ 24 + bitsOf v.toNat 16 5 * 2 ^ 16 + bitsOf v.toNat 12 2 * 2 ^ 12 + bitsOf v.toNat 10 2 * 2 ^ 10
             + bitsOf v.toNat 2 7 * 4 + s.power.state.code)
     ∧ (∀ r reg ix, dfeReg r = some (reg, ix) →
         let mask : Dword := match reg with
           | 1 => 0x1F80#64 | 2 => 0x3FFFF#64 | 3 => 0x3C0FF#64 | 4 => 0x3FE#64 | 5 => 0xFFFFFFFF#64 | 6 => 0xFFFF#64 | 7 => 0xFFFFFFFFFFFFE000#64
           | 8 => 0x03FFFFFFFFFFFFFF#64 | 9 => 0xFFFFFFFFFFFFF800#64 | _ => 0xFFFFFF#64
         (s.entryStatus reg ix v.toNat ≠ 0x0000#16 → exec (.registerWrite r v) s = .next s)
         ∧ (∀ k, s.entryStatus reg ix v.toNat = 0x0000#16 → s.entryCarrier reg ix = some k →
             exec (.registerWrite r v) s = .next { s with dfe := { s.dfe with queued := s.dfe.queued ++ [(k.val, reg, ix, v)] } })
         ∧ (s.entryStatus reg ix v.toNat = 0x0000#16 → s.entryCarrier reg ix = none → ∃ t, exec (.registerWrite r v) s = .next t
             ∧ t.dfe.read reg ix = v &&& mask ∧ t.dfe.queued = s.dfe.queued ∧ t = { s with dfe := t.dfe, carriers := t.carriers, pins := t.pins })))
  ∧ (∀ (s : State) (f : Frame) (x : Session), Admitted s f x → f.typ = 0x0A06#16 → dfeShape f = true →
     (∀ (n : Nat) (e : Nat × Nat × Nat), (dfeEntries f)[n]? = some e → s.entryStatus e.1 e.2.1 e.2.2 ≠ 0x0000#16 → (∀ (m : Nat) (d : Nat × Nat × Nat), m < n → (dfeEntries f)[m]? = some d → s.entryStatus d.1 d.2.1 d.2.2 = 0x0000#16) →
       ∃ t, exec (.dfeConfig f) s = .next t ∧ Reads s t ∧ Answered t f (s.entryStatus e.1 e.2.1 e.2.2) [])
     ∧ ((∀ e : Nat × Nat × Nat, e ∈ dfeEntries f → s.entryStatus e.1 e.2.1 e.2.2 = 0x0000#16) → ∃ t, exec (.dfeConfig f) s = .next t ∧ Answered t f 0x0000#16 []
         ∧ ((∀ e : Nat × Nat × Nat, e ∈ dfeEntries f → (s.entryCarrier e.1 e.2.1).isSome = true) →
             t = { s with host := t.host, dfe := { s.dfe with queued := s.dfe.queued ++ (dfeEntries f).map fun (e : Nat × Nat × Nat) =>
               (((s.entryCarrier e.1 e.2.1).getD 0).val, e.1, e.2.1, BitVec.ofNat 64 e.2.2) } })))

/-! ### Messages -/

/-- Identification, ping, status and certificate requests answer with what they read and change nothing (R12, R412, R416, R480, R486, Tables 16-5, 16-8, 16-14, 19-6). -/
def Obligations.ReadingRequests : Prop :=
  ∀ (s : State) (f : Frame) (x : Session), Admitted s f x →
    let reads := fun (i : Instr) (typ : Nat) (payload : List Byte) => f.typ.toNat = typ → ∃ t, exec i s = .next t ∧ Reads s t ∧ Answered t f 0x0000#16 payload
    (f.payload = [] → reads (.devIdentify f) 0x0002 s.identifyBytes)
    ∧ (f.payload.length ≤ 64 → reads (.devPing f) 0x0003 f.payload)
    ∧ (f.payload = [] → reads (.timeStatus f) 0x0B02 s.timeBytes)
    ∧ (f.payload.length = 8 → f.zero 2 6 = true → f.nat 0 1 = 0 → reads (.healthRead f) 0x0D01 s.healthSummary)
    ∧ (∀ k : ClusterId, f.payload.length = 8 → f.zero 2 6 = true → f.nat 0 1 = 1 → f.nat 1 1 = k.val → reads (.healthRead f) 0x0D01 (s.healthCluster k))
    ∧ (∀ k : CarrierId, f.payload.length = 8 → f.zero 2 6 = true → f.nat 0 1 = 2 → f.nat 1 1 = k.val → reads (.healthRead f) 0x0D01 (s.healthCarrier k))
    ∧ (dfeShape f = true → (dfeEntries f).all (fun e => dfeIndexOk e.1 e.2.1) = true → reads (.dfeRead f) 0x0A07
        (leBytes 2 (dfeEntries f).length ++ leBytes 6 0 ++ (dfeEntries f).flatMap fun e =>
          leBytes 2 e.1 ++ leBytes 2 e.2.1 ++ leBytes 4 0 ++ leBytes 8 (s.dfe.read e.1 e.2.1).toNat))
    ∧ (∀ der, f.payload.length = 1 → f.nat 0 1 < 5 → s.part.certs.toList.getD (f.nat 0 1) 0#384 = Sha.digest der → reads (.devCerts f der) 0x0101 (der.take 1408))
    ∧ (∀ der, f.payload.length = 1 → f.nat 0 1 = 5 → s.lantern.quoteKey.isSome = true → ecdsaOk s.hubKey s.lantern.cert5.1 s.lantern.cert5.2 = true →
        reads (.devCerts f der) 0x0101 (certOf s.lantern.cert5.1 s.lantern.cert5.2))
    ∧ (∀ der, f.typ = 0x0101#16 → f.payload.length = 1 → f.nat 0 1 < 5 → s.part.certs.toList.getD (f.nat 0 1) 0#384 ≠ Sha.digest der →
        ∃ t, exec (.devCerts f der) s = .next t ∧ Reads s t ∧ Answered t f 0x0702#16 [])
    ∧ (∀ k : CarrierId, f.payload.length = 1 → f.nat 0 1 = k.val → reads (.cellStatus f) 0x0A14 (s.cellBytes k))
    ∧ (∀ j, isJobType f.typ.toNat = true → f.typ.toNat % 256 = 5 → f.payload.length = 4 → s.job (BitVec.ofNat 32 (f.nat 0 4)) = some j → j.mailbox.toNat = f.mb →
        reads (.jobStatus f) f.typ.toNat (jobStatusBytes j s.nowNs))

/-- cell.status (R416; that the carrier number is no field of "every other field 0" is the model's reading, log 116): a carrier number above 3 is ST_MSG_INVALID; a carrier that is not configured answers ST_OK with state 0 and every other field 0; a configured one
answers with the layout of Table 16-14. -/
def Obligations.CellStatusAnswers : Prop :=
  ∀ (s : State) (f : Frame) (x : Session), Admitted s f x → f.typ = 0x0A14#16 → f.payload.length = 1 →
    ∃ t, exec (.cellStatus f) s = .next t ∧ Reads s t
      ∧ (3 < f.nat 0 1 → Answered t f 0x0101#16 [])
      ∧ ∀ k : CarrierId, f.nat 0 1 = k.val →
          ((s.carrier k).cfg = none → Answered t f 0x0000#16 (leBytes 1 k.val ++ List.replicate 199 0#8))
          ∧ (∀ c, (s.carrier k).cfg = some c → ∃ flags, Answered t f 0x0000#16 (leBytes 1 k.val ++ leBytes 1 (if (s.carrier k).removing then 2 else 1)
              ++ leBytes 1 (s.carrier k).rx.code ++ leBytes 1 flags ++ leBytes 4 (modelId (s.carrier k).live) ++ leBytes 4 (modelId (s.carrier k).cand)
              ++ leBytes 4 (modelId (s.carrier k).prev) ++ leBytes 4 (s.carrier k).pairs ++ leBytes 4 (s.carrier k).failL ++ leBytes 4 (s.carrier k).failC ++ leBytes 4 0 ++ c)
              ∧ flags < 16 ∧ (flags.testBit 3 = (s.carrier k).cand.isSome) ∧ (flags.testBit 2 = s.trainingRuns k) ∧ (flags.testBit 1 = (s.carrier k).held)
              ∧ flags.testBit 0 = s.inStep k)

/-- cell.weights (R413): a sealed object of 2,080 bytes becomes the set, for sets 0 to 511; another set or size is ST_CELL_INVALID and leaves the sets alone. -/
def Obligations.CellWeightsStoreSets : Prop :=
  ∀ (s : State) (f : Frame) (x : Session) (k : CarrierId), Admitted s f x → f.typ = 0x0A03#16 → f.payload.length = 8 → f.zero 1 1 = true → f.nat 0 1 = k.val →
    (s.carrier k).cfg.isSome = true →
    ∃ t, exec (.cellWeights f) s = .next t ∧ t = { s with host := t.host, carriers := t.carriers }
      ∧ (511 < f.nat 2 2 → Answered t f 0x0510#16 [] ∧ t.carriers = s.carriers)
      ∧ (∀ b, f.nat 2 2 ≤ 511 → s.sealedBytes (BitVec.ofNat 32 (f.nat 4 4)) = some b → b.length ≠ 2080 → Answered t f 0x0510#16 [] ∧ t.carriers = s.carriers)
      ∧ (∀ b, f.nat 2 2 ≤ 511 → s.sealedBytes (BitVec.ofNat 32 (f.nat 4 4)) = some b → b.length = 2080 → Answered t f 0x0000#16 []
          ∧ (∃ w, (t.carrier k).weights.find? (fun w => w.num == f.nat 2 2) = some w ∧ w.num = f.nat 2 2 ∧ w.bytes = b ∧ w.since = s.nowNs)
          ∧ (∀ n, n ≠ f.nat 2 2 → (t.carrier k).weights.find? (fun w => w.num == n) = (s.carrier k).weights.find? (fun w => w.num == n))
          ∧ t.carrier k = { s.carrier k with weights := (t.carrier k).weights } ∧ ∀ m, m ≠ k → t.carrier m = s.carrier m)

/-- Carriers by message (R266, R415, R451, R514): a new carrier is created in Active only; a configured one takes the fields that may change at its boundary, or answers
ST_CFG_BUSY; cell.remove and a forced receiver. -/
def Obligations.CellControl : Prop :=
  ∀ (s : State) (f : Frame) (x : Session) (k : CarrierId), Admitted s f x → f.nat 0 1 = k.val →
    let y := s.carrier k
    let others := fun (t : State) => ∀ m, m ≠ k → t.carrier m = s.carrier m
    (f.typ = 0x0A01#16 → cellOk f.payload = true →
      (s.power.state ≠ .active → ∃ t, exec (.cellConfigure f) s = .next t ∧ Reads s t ∧ Answered t f 0x0801#16 [])
      ∧ (s.power.state = .active → y.cfg = none → s.cellFits f.payload = true → ∃ t, exec (.cellConfigure f) s = .next t ∧ Answered t f 0x0000#16 []
          ∧ (t.carrier k).cfg = some f.payload ∧ (t.carrier k).started = false ∧ (t.carrier k).rx = .cOnly ∧ (t.carrier k).home = homeOf f.payload
          ∧ (∃ m, (t.carrier k).live = some m ∧ m.id = 1#32 ∧ m.digest = s.part.refModel) ∧ t.mem = s.mem ∧ others t
          ∧ ((s.nowNs : Int) + 20000000 ≤ slotStart f.payload (t.carrier k).firstIx))
      ∧ (s.power.state = .active → y.cfg = none → s.cellFits f.payload = false → ∃ t, exec (.cellConfigure f) s = .next t ∧ Reads s t ∧ Answered t f 0x0510#16 [])
      ∧ (∀ old, s.power.state = .active → y.cfg = some old → ∃ t, exec (.cellConfigure f) s = .next t ∧ others t
          ∧ (cellKeeps old f.payload = true → Answered t f 0x0000#16 [] ∧ t.carrier k = { y with change := some f.payload })
          ∧ (cellKeeps old f.payload = false → Answered t f 0x0508#16 [] ∧ t.carrier k = y)))
    ∧ (f.typ = 0x0A02#16 → f.payload.length = 1 → y.cfg.isSome = true → ∃ t, exec (.cellRemove f) s = .next t ∧ Answered t f 0x0000#16 []
        ∧ t.carrier k = { y with removing := true } ∧ others t)
    ∧ (f.typ = 0x0A04#16 → f.payload.length = 8 → f.zero 2 6 = true → y.cfg.isSome = true →
        (f.nat 1 1 = 1 → ∃ t, exec (.cellReceiver f) s = .next t ∧ Answered t f 0x0000#16 [] ∧ (t.carrier k).rx = .cOnly ∧ (t.carrier k).force = true ∧ others t)
        ∧ (f.nat 1 1 = 0 → ∃ t, exec (.cellReceiver f) s = .next t ∧ Answered t f 0x0000#16 [] ∧ (t.carrier k).force = false ∧ others t
            ∧ ((t.carrier k).rx = if y.force && y.rx == .cOnly && (match y.live with | some m => m.validated | none => false) then .probation else y.rx)))

/-- A port's settings and a session's mailbox mask (R408, Tables 16-6 and 16-13).

The timing unit by message (R380, R387, Table 15-3). -/
def Obligations.SettingsByMessage : Prop :=
  (∀ (s : State) (f : Frame) (x : Session), Admitted s f x →
     let p := portOf (f.nat 0 1)
     let old := s.host.net p
     let mode := f.nat 1 1 == 1
     let ip := BitVec.ofNat 32 (Sha.beNat ((f.payload.drop 4).take 4))
     let busy := (mode ≠ old.mode ∧ (s.portCarries p = true ∨ ∃ y ∈ s.host.sessions, y.isOpen = true ∧ y.port = p ∧ y.id ≠ f.session))
       ∨ (old.plen ≠ 0#8 ∧ (f.nat 2 1 = 0 ∨ ip ≠ old.ipv4) ∧ ∃ y ∈ s.host.sessions, y.port = p ∧ y.ipv4 = true)
     (f.typ = 0x0004#16 → f.payload.length = 8 → f.nat 0 1 ≤ 2 → f.nat 1 1 ≤ 1 → (f.nat 0 1 = 2 → f.nat 1 1 = 0) → f.nat 2 1 ≤ 32 → f.nat 3 1 = 0 →
       ∃ t, exec (.netConfigure f) s = .next t
         ∧ (busy → Answered t f 0x0508#16 [] ∧ Reads s t)
         ∧ (¬ busy → Answered t f 0x0000#16 [] ∧ t.host.net p = { old with mode := mode, plen := BitVec.ofNat 8 (f.nat 2 1), ipv4 := ip }
             ∧ ∀ q, q ≠ p → t.host.net q = s.host.net q))
     ∧ (f.typ = 0x0005#16 → f.payload.length = 2 → ∃ t y, exec (.mboxSubscribe f) s = .next t ∧ Reads s t ∧ Answered t f 0x0000#16 []
         ∧ t.session f.session = some y ∧ y.mask = BitVec.ofNat 16 (f.nat 0 2) ∧ ∀ i, i ≠ f.session → t.session i = s.session i))
  ∧ (∀ (s : State) (f : Frame) (x : Session), Admitted s f x →
     (let v := BitVec.ofNat 64 (f.nat 0 8)
      f.typ = 0x0B01#16 → f.payload.length = 8 → tuCtlOk v = true → v &&& 0xFFC0#64 = 0#64 → ∃ t, exec (.timeConfigure f) s = .next t ∧ Answered t f 0x0000#16 []
        ∧ t.time.ctl = v ∧ t.time.acc = s.time.acc ∧ (v.getLsbD 0 = false → t.time.state = .freerun) ∧ (v.getLsbD 0 = true → t.time.state = s.time.state))
     ∧ (f.typ = 0x0B03#16 → f.payload.length = 16 → 8 ≤ f.nat 0 1 → f.nat 0 1 ≤ 15 → f.nat 1 1 ≤ 2 → f.nat 2 1 ≤ 1 → f.zero 3 3 = true → f.zero 11 5 = true →
         ∃ t, exec (.timeAlarm f) s = .next t ∧ Answered t f 0x0000#16 [] ∧ t = { s with host := t.host, time := { s.time with alarms := t.time.alarms } }
           ∧ (let a := t.time.alarm (Fin.ofNat 16 (f.nat 0 1))
              a.target = BitVec.ofNat 40 (f.nat 6 5) ∧ a.arm = (f.nat 2 1 == 1) ∧ a.out = BitVec.ofNat 2 (f.nat 1 1))
           ∧ ∀ n : Fin 16, n.val ≠ f.nat 0 1 → t.time.alarm n = s.time.alarm n))

/-- Bulk objects (R410, R509): allocation of zeroed frames, writing, sealing under a digest, reading and freeing. -/
def Obligations.BulkObjects : Prop :=
  ∀ (s : State) (f : Frame) (x : Session), Admitted s f x →
    let id := BitVec.ofNat 32 (f.nat 0 4)
    (∀ b : PhysAddr, f.typ = 0x0010#16 → f.payload.length = 16 → f.nat 8 1 ≤ 1 → f.zero 9 7 = true → s.host.objects.length < 4096 →
      s.roomAt (Fin.ofNat 2 (f.nat 8 1)) b.toNat (f.nat 0 8) = true →
      ∃ t o, exec (.bulkAlloc f (some b)) s = .next t ∧ Answered t f 0x0000#16 (leBytes 4 o.id.toNat) ∧ t.host.objects = s.host.objects ++ [o]
        ∧ o.base = b.toNat ∧ o.size = f.nat 0 8 ∧ o.die.val = f.nat 8 1 ∧ o.isSealed = false ∧ o.written = [] ∧ (∀ q ∈ s.host.objects, q.id ≠ o.id)
        ∧ (∀ a, b.toNat ≤ a → a < b.toNat + f.nat 0 8 → t.mem.get a = 0#8)
        ∧ ∀ a, (a < b.toNat ∨ b.toNat + f.nat 0 8 ≤ a) → t.mem.get a = s.mem.get a)
    ∧ (∀ o, f.typ = 0x0011#16 → 16 ≤ f.payload.length → f.zero 4 4 = true → s.object id = some o → o.isSealed = false →
        f.nat 8 8 + (f.payload.drop 16).length ≤ o.size → ∃ t, exec (.bulkPut f) s = .next t ∧ Answered t f 0x0000#16 []
          ∧ t.mem.slice (o.base + f.nat 8 8) (f.payload.drop 16).length = f.payload.drop 16
          ∧ ∀ a, (a < o.base + f.nat 8 8 ∨ o.base + f.nat 8 8 + (f.payload.drop 16).length ≤ a) → t.mem.get a = s.mem.get a)
    ∧ (∀ o, f.typ = 0x0012#16 → f.payload.length = 56 → f.zero 4 4 = true → s.object id = some o → o.isSealed = false → ∃ t, exec (.bulkCommit f) s = .next t ∧ t.mem = s.mem
          ∧ (o.complete = false → Answered t f 0x0105#16 [] ∧ Reads s t)
          ∧ (o.complete = true → Sha.sha384 (s.readPhys o.base o.size) ≠ f.payload.drop 8 → Answered t f 0x0106#16 [] ∧ Reads s t)
          ∧ (o.complete = true → Sha.sha384 (s.readPhys o.base o.size) = f.payload.drop 8 → Answered t f 0x0000#16 [] ∧ t.object id = some { o with isSealed := true }))
    ∧ (∀ o, f.typ = 0x0013#16 → f.payload.length = 24 → f.zero 4 4 = true → s.object id = some o → f.nat 8 8 + f.nat 16 8 ≤ o.size → s.boundReadOnly o.id = false →
        ∃ t, exec (.bulkGet f) s = .next t ∧ Answered t f 0x0000#16 [] ∧ t = { s with host := t.host }
          ∧ (1 ≤ f.nat 16 8 → f.nat 16 8 ≤ 1392 → Notified s t 0x0014 0x0000#16
              (leBytes 4 o.id.toNat ++ leBytes 4 0 ++ leBytes 8 (f.nat 8 8) ++ s.readPhys (o.base + f.nat 8 8) (f.nat 16 8)) isPort100G))
    ∧ (∀ o, f.typ = 0x0015#16 → f.payload.length = 4 → s.object id = some o → ∃ t, exec (.bulkFree f) s = .next t ∧ t.mem = s.mem
          ∧ (s.boundByJob o.id = true → Answered t f 0x0508#16 [] ∧ Reads s t)
          ∧ (s.boundByJob o.id = false → Answered t f 0x0000#16 [] ∧ t.object o.id = none ∧ ∀ i, i ≠ o.id → t.object i = s.object i))

/-- Sessions (R394, R400, R403, R513): opening, confirmation with a key that may open sessions, closing, timeouts and links. -/
def Obligations.SessionsOpenAndEnd : Prop :=
  ∀ (s : State),
    (∀ (f : Frame) (sid : Half), s.boot.phase = .running → s.reaches f = true → f.wellFormed = true → f.port ≠ .guy → f.prot = false → f.session = 0#16 → f.clean = true →
      f.typ = 0x0102#16 → portAllowed 0x0102 f.port = true → sid ≠ 0#16 → sid ≠ 0xFFFF#16 → s.session sid = none → f.payload.length = 132 → f.zero 97 3 = true →
      s.host.sessions.countP (·.isOpen) < 8 → ∀ ph, eccDecode (f.payload.take 97) = some ph →
      ∃ t y, exec (.sessionOpen f sid) s = .next t ∧ t = { s with host := t.host, freeCtr := t.freeCtr } ∧ t.session sid = some y ∧ y.isOpen = false ∧ y.port = f.port
        ∧ (∀ i, i ≠ sid → t.session i = s.session i)
        ∧ ∃ m d nd sig, t.host.txq = s.host.txq ++ [m] ∧ m.prot = false ∧ m.resp = true ∧ m.status = 0x0000#16
          ∧ m.payload = leBytes 2 sid.toNat ++ [0#8, 0#8] ++ eccPublic d ++ [0#8, 0#8, 0#8] ++ nd ++ sig ∧ nd.length = 32 ∧ sig.length = 96
          ∧ (y.th, y.keys) = sessionKeys (f.payload.take 97) ((f.payload.drop 100).take 32) (eccPublic d) nd (ecdh d ph) sid)
    ∧ (∀ (f : Frame) (x : Session) (k : OwnerKey), s.boot.phase = .running → s.reaches f = true → f.wellFormed = true → f.port ≠ .guy → f.prot = true → f.clean = true →
        s.session f.session = some x → x.isOpen = false → x.port = f.port → x.tagOk f = true → x.fresh f.seq = true → f.typ = 0x0103#16 → f.seq = 1#32 →
        portAllowed 0x0103 f.port = true → x.tokens = [] → s.outstanding f.session 1 < 64 → x.txSeq.toNat + 65536 < 2 ^ 32 → f.payload.length = 104 → f.nat 0 8 ≠ 0 →
        s.security.owners.find? (fun k => k.id == BitVec.ofNat 64 (f.nat 0 8) && k.roles.getLsbD 0) = some k →
        let sigOk := ecdsaOk k.key (ascii "PLSK1 host" ++ x.th) (f.payload.drop 8)
        ∃ t, exec (.sessionConfirm f) s = .next t ∧ Answered t f (if sigOk then 0x0000#16 else 0x0701#16) []
          ∧ (sigOk = true → ∃ y, t.session f.session = some y ∧ y.isOpen = true ∧ y.keyId = BitVec.ofNat 64 (f.nat 0 8) ∧ y.roles = k.roles)
          ∧ (sigOk = false → t.session f.session = none))
    ∧ (∀ (f : Frame) (x : Session), Admitted s f x → f.typ = 0x0104#16 → f.payload = [] →
        ∃ t, exec (.sessionClose f) s = .next t ∧ Answered t f 0x0000#16 [] ∧ t.session f.session = none ∧ ∀ i, i ≠ f.session → t.session i = s.session i)
    ∧ (∀ sid x, s.session sid = some x → x.isOpen = true → ∃ t, exec (.sessionTimeout sid) s = .next t ∧ t = { s with host := t.host } ∧ t.session sid = none
        ∧ ∀ i, i ≠ sid → t.session i = s.session i)
    ∧ (∀ sid x, s.session sid = some x → x.isOpen = false → ∃ t, exec (.confirmTimeout sid) s = .next t ∧ t = { s with host := t.host } ∧ t.session sid = none)
    ∧ (∀ p : Fin 2, s.boot.phase = .running → ∃ t, exec (.linkUp p) s = .next t ∧ (t.host.net (t1Port p)).up = true ∧ t.host.sessions = s.host.sessions
        ∧ ((t.host.net (t1Port p)).hello = true ↔ p = 0 ∧ ∀ y ∈ s.host.sessions, ¬ (y.port = t1Port p ∧ y.isOpen = true)))
    ∧ (∀ p : Fin 2, ∃ t, exec (.linkDown p) s = .next t ∧ (t.host.net (t1Port p)).up = false ∧ t = { s with host := t.host }
        ∧ (p = 0 ∨ s.twin.formed = false → ∀ y, y ∈ t.host.sessions ↔ y ∈ s.host.sessions ∧ ∀ z ∈ s.host.sessions, z.port = t1Port p → z.id ≠ y.id)
        ∧ (p = 1 → s.twin.formed = true → (s.host.net .guy).up = true → Notified s t 0x0C04 0x0A01#16 (twinRecord s 1 s.carrierMask [] 0) hostPort))
    ∧ (∀ p : Fin 2, (s.host.net (t1Port p)).up = true → (s.host.net (t1Port p)).hello = true → ∃ t m, exec (.devHello p) s = .next t
        ∧ t = { s with host := { s.host with txq := s.host.txq ++ [m] } } ∧ m.port = t1Port p ∧ m.typ = 1#16 ∧ m.unsol = true ∧ m.payload = s.identifyBytes)

/-- Job messages (R228, R233, R414, R425, R500): a job is accepted and measured, suspended, resumed and killed. -/
def Obligations.JobMessages : Prop :=
  ∀ (s : State) (f : Frame) (x : Session), Admitted s f x → isJobType f.typ.toNat = true → Quiet s →
    (∀ pkgs b, f.typ.toNat % 256 = 1 → submitOk f = true → (bindsOf f).all s.bindable = true →
      (∀ n, n < 4 → queueObj f n ≠ 0#32 → (s.sealedBytes (queueObj f n)).isSome = true) → s.bindsOk (bindsOf f) = true →
      s.sealedBytes (BitVec.ofNat 32 (f.nat 0 4)) = some b → s.checkSigned 2 b = 0x0000#16 → 1 ≤ pkgs.toNat → pkgs.toNat ≤ 8 →
      pkgs.toNat ≤ s.reachable.length + 1 → s.placeable (ranksOf f) s.jobCores = true → s.queuedJobs f.mb < 64 →
      ∃ t j, exec (.jobSubmit f true pkgs) s = .next t ∧ Answered t f 0x0000#16 (leBytes 4 s.nextJob.toNat) ∧ t.jobs = s.jobs ++ [j]
        ∧ t.nextJob = s.nextJob + 1#32 ∧ j.id = s.nextJob ∧ j.phase = .queued ∧ j.ranks = ranksOf f ∧ j.mailbox.toNat = f.mb ∧ j.binds = bindsOf f
        ∧ j.deterministic = (f.nat 6 1 == 1) ∧ j.seed = BitVec.ofNat 64 (f.nat 8 8) ∧ t.cores = s.cores ∧ t.mem = s.mem
        ∧ t.security.counts.get 11 = s.security.counts.get 11 + 1#16)
    ∧ (∀ j, f.payload.length = 4 → s.job (BitVec.ofNat 32 (f.nat 0 4)) = some j → j.mailbox.toNat = f.mb →
        (f.typ.toNat % 256 = 2 → ∃ t j', exec (.jobSuspend f) s = .next t ∧ t.job j.id = some j' ∧ t.mem = s.mem
          ∧ (j.phase = .running → j.suspended = false → Answered t f 0x0000#16 [] ∧ j' = { j with hostSusp := true }
              ∧ ∀ c r, (s.core c).owner = .rank j.id r → PreReq.host ∈ (t.core c).preempt)
          ∧ (j.phase ≠ .running → Answered t f 0x0208#16 [] ∧ Reads s t))
        ∧ (f.typ.toNat % 256 = 3 → ∃ t j', exec (.jobResume f) s = .next t ∧ t.job j.id = some j' ∧ t.mem = s.mem
          ∧ (j.phase = .running → j.hostSusp = true → Answered t f 0x0000#16 [] ∧ j' = { j with hostSusp := false })
          ∧ ((j.phase ≠ .running ∨ j.hostSusp = false) → Answered t f 0x0208#16 [] ∧ Reads s t))
        ∧ (f.typ.toNat % 256 = 4 → ∃ t j', exec (.jobKill f) s = .next t ∧ t.job j.id = some j' ∧ (j.carrier = none → t.mem = s.mem)
          ∧ (j.phase ≠ .ended → Answered t f 0x0000#16 [] ∧ j'.phase = .ended ∧ j'.status = 0x0203#16)
          ∧ (j.phase = .ended → Answered t f 0x0208#16 [] ∧ Reads s t)))

/-- Models by message (R371, R375, R493): a signed image waits, a waiting image is to be swapped in, a signed policy waits for the slot boundary. -/
def Obligations.ModelMessages : Prop :=
  ∀ (s : State) (f : Frame) (x : Session) (k : CarrierId), Admitted s f x → f.nat 0 1 = k.val → (s.carrier k).cfg.isSome = true →
    let y := s.carrier k
    let others := fun (t : State) => ∀ m, m ≠ k → t.carrier m = s.carrier m
    (∀ b, f.typ = 0x0A0A#16 → f.payload.length = 8 → f.zero 1 3 = true → s.sealedBytes (BitVec.ofNat 32 (f.nat 4 4)) = some b →
      ∃ t, exec (.modelLoad f) s = .next t ∧ others t
        ∧ (s.checkSigned 3 b ≠ 0x0000#16 → Answered t f 0x0511#16 [] ∧ Reads s t)
        ∧ (s.checkSigned 3 b = 0x0000#16 → Answered t f 0x0000#16 (leBytes 4 s.nextMod.toNat) ∧ t.nextMod = s.nextMod + 1#32
            ∧ ∃ m, t.carrier k = { y with loaded := some m } ∧ m.id = s.nextMod ∧ m.image = b ∧ m.digest = Sha.digest b))
    ∧ (∀ m, f.typ = 0x0A0B#16 → f.payload.length = 8 → f.zero 1 3 = true → m.id = BitVec.ofNat 32 (f.nat 4 4) → y.swap = none →
        (y.cand = some m ∨ (y.loaded = some m ∧ ∀ d, y.cand = some d → d.id ≠ m.id)) →
        ∃ t, exec (.modelSwap f) s = .next t ∧ Answered t f 0x0000#16 [] ∧ others t ∧ (t.carrier k).swap = some m ∧ (t.carrier k).swapIx = none
          ∧ (t.carrier k).live = y.live)
    ∧ (f.typ = 0x0A0C#16 → f.payload.length = 192 → policyOk (f.payload.take 64) = true →
        ∃ t, exec (.modelPolicy f) s = .next t ∧ others t
          ∧ (s.checkSigned 4 f.payload = 0x0000#16 → Answered t f 0x0000#16 [] ∧ t.carrier k = { y with policyNew := some (f.payload.take 64) }
              ∧ t.security.counts.get 5 = s.security.counts.get 5 + 1#16)
          ∧ (s.checkSigned 4 f.payload ≠ 0x0000#16 → Answered t f (s.checkSigned 4 f.payload) [] ∧ Reads s t))

/-- Frames that are not taken up (R402, R405): a frame of a request row whose sequence number is not new, or whose tag fails, is discarded and counted; a remembered request is
answered again without taking effect, and a stale one is ST_STALE_TOKEN. -/
def Obligations.ReplaysHaveNoEffect : Prop :=
  ∀ (s : State) (f : Frame) (x : Session), s.boot.phase = .running → s.reaches f = true → f.wellFormed = true → f.port ≠ .guy → f.prot = true → s.session f.session = some x →
    ∀ i, frameOf i = some f → i.wf = true → (∀ sid, i ≠ .sessionOpen f sid) → (∀ b, i ≠ .bulkAlloc f b) →
      ((x.fresh f.seq = false ∨ x.tagOk f = false) → slotRow i = false → exec i s = .next { s with host := { s.host with discards := satInc32 s.host.discards } })
      ∧ (∀ k, x.accepts f = true → x.isOpen = true → x.claim = false → slotRow i = false → x.txSeq ≠ 0xFFFFFFFF#32 →
          x.tokens.find? (fun t => t.mailbox.toNat == f.mb && t.token == f.token) = some k →
          ∃ t, exec i s = .next t ∧ Reads s t ∧ ∀ m, k.resp = some m → Answered t f m.status m.payload)
      ∧ (x.accepts f = true → x.isOpen = true → x.claim = false → slotRow i = false → x.txSeq ≠ 0xFFFFFFFF#32 →
          (∀ k ∈ x.tokens, ¬ (k.mailbox.toNat = f.mb ∧ k.token = f.token)) → x.stale f.mb f.token = true →
          ∃ t, exec i s = .next t ∧ Reads s t ∧ Answered t f 0x0104#16 [])

/-! ### Twin and trail -/

/-- Pairing and heartbeats (R432, R433, R439, Table 17-5): a pairing takes its role and XP_OWN; a heartbeat counts and leaves on the guy line; the first authentic heartbeat of the
opposite role forms the pair and is measured; one that reports the loss of the main supply makes a standby declare loss; any other frame of the line is discarded. -/
def Obligations.TwinPairs : Prop :=
  ∀ (s : State),
    (∀ (f : Frame) (x : Session), Admitted s f x → f.typ = 0x0C01#16 → f.payload.length = 120 → f.nat 0 1 ≤ 2 → f.nat 1 1 < 4 → f.zero 2 2 = true → f.zero 0x75 3 = true →
      (f.nat 0 1 = 0 ∨ (eccDecode ((f.payload.drop 0x14).take 97)).isSome = true) →
      ∃ t, exec (.twinPair f) s = .next t ∧ Answered t f 0x0000#16 [] ∧ t = { s with host := t.host, twin := t.twin, pins := { s.pins with xpOwn := f.nat 0 1 == 1 } }
        ∧ t.twin.role.code = f.nat 0 1 ∧ t.twin.formed = false ∧ t.twin.beat = s.twin.beat ∧ t.twin.takeAt = none ∧ t.twin.planAt = none
        ∧ (∀ q, f.nat 0 1 ≠ 0 → eccDecode ((f.payload.drop 0x14).take 97) = some q → t.twin.pairing = f.payload ∧ t.twin.guy.keys = s.guyKeys (f.nat 4 16) q))
    ∧ (s.twin.role ≠ .unpaired → s.boot.phase = .running → ∃ t m, exec .twinHeartbeat s = .next t
        ∧ t = { s with host := { s.host with txq := s.host.txq ++ [m] }, twin := { s.twin with beat := s.twin.beat + 1#32, guy := { s.twin.guy with txSeq := s.twin.guy.txSeq + 1#32 } } }
        ∧ m.port = .guy ∧ m.typ = 0x0C02#16 ∧ m.seq = s.twin.guy.txSeq ∧ m.payload.length = 64 ∧ fieldAt m.payload 0 1 = s.twin.role.code
        ∧ fieldAt m.payload 4 4 = (s.twin.beat + 1#32).toNat ∧ fieldAt m.payload 8 8 = s.shortTime)
    ∧ ((s.twin.role = .active ∨ s.twin.role = .standby) → s.twin.formed = false → ∃ t, exec .twinPairTimeout s = .next t ∧ t = { s with host := t.host }
        ∧ Notified s t 0x0C04 0x0A01#16 (twinRecord s 6 s.carrierMask [] 0) hostPort)
    ∧ (∀ (f : Frame) (x : Session), Admitted s f x → f.typ = 0x0C02#16 → f.payload = [] → ∃ t, exec (.twinStatus f) s = .next t ∧ Reads s t
        ∧ Answered t f 0x0000#16 (s.statusBytes false))
    ∧ (∀ f : Frame, f.port = .guy → f.typ = 0x0C02#16 → s.guyOk f = true → f.payload.length = 64 →
        (beatClean f = false → exec (.twinStatus f) s = .next s) ∧ (beatClean f = true →
        let joins := s.twin.formed = false ∧ ((s.twin.role = .active ∧ f.nat 0 1 = 2) ∨ (s.twin.role = .standby ∧ f.nat 0 1 = 1))
        ∃ t, exec (.twinStatus f) s = .next t ∧ t = { s with twin := t.twin, host := t.host, security := t.security, pins := t.pins }
          ∧ t.twin.role = s.twin.role ∧ t.twin.peer = f.payload ∧ t.twin.peerBeat.toNat = f.nat 4 4 ∧ t.twin.guy = s.twin.guy.take f.seq
          ∧ (t.twin.formed = true ↔ s.twin.formed = true ∨ joins)
          ∧ (joins → t.security.counts.get 12 = s.security.counts.get 12 + 1#16) ∧ (¬ joins → t.security = s.security)
          ∧ (s.twin.role = .standby → t.twin.formed = true → (f.nat 1 1).testBit 0 = true → s.twin.takeAt = none → t.pins.xpOwn = true
              ∧ ∃ b, t.twin.takeAt = some b ∧ s.nowNs + 600000 ≤ b)))
    ∧ (∀ f : Frame, f.port = .guy → f.typ = 0x0C02#16 → s.boot.phase = .running → (s.guyOk f = false ∨ f.payload.length ≠ 64) →
        exec (.twinStatus f) s = .next { s with host := { s.host with discards := satInc32 s.host.discards } })

/-- Loss, takeover, the planned switch and checkpoints (R433, R437, R439 to R442): an active that misses its peer gives way; a standby takes XP_OWN and takes over at its boundary;
a planned switch swaps the roles; a standby applies a record in slot order. Cores on which commands wait are left out (their streams may go on). -/
def Obligations.TwinSwitches : Prop :=
  ∀ (s : State), Quiet s →
    (s.twin.formed = true → s.twin.role = .active → ∃ t, exec .peerMiss s = .next t ∧ t.twin.role = .isolated ∧ t.twin.formed = false ∧ t.pins.xpOwn = false
        ∧ t.pins.paEn = 0#16 ∧ ∀ k, (t.carrier k).cfg = none)
    ∧ (s.twin.formed = true → s.twin.role = .standby → s.twin.takeAt = none → ∃ t b, exec .peerMiss s = .next t
        ∧ t = { s with twin := { s.twin with takeAt := some b, planAt := none }, host := t.host, pins := { s.pins with xpOwn := true } } ∧ s.nowNs + 600000 ≤ b)
    ∧ (∀ b, s.twin.role = .standby → s.twin.takeAt = some b →
        (s.nowNs < b → exec .takeoverBoundary s = .next s)
        ∧ (b ≤ s.nowNs → ∃ t, exec .takeoverBoundary s = .next t ∧ t.twin.role = .active ∧ t.twin.formed = false ∧ t.twin.takeAt = none ∧ t.pins.xpOwn = s.pins.xpOwn
            ∧ (∀ k, (t.carrier k).cfg = if s.digestAgrees k = true then (s.carrier k).cfg else none)
            ∧ ∀ k, s.digestAgrees k = true → (t.carrier k).weights = (s.carrier k).weights ∧ (t.carrier k).rx = (s.carrier k).rx ∧ (t.carrier k).live = (s.carrier k).live))
    ∧ (∀ (f : Frame) (x : Session), Admitted s f x → f.typ = 0x0C03#16 → f.payload.length = 16 → f.zero 8 8 = true →
        let ready := s.twin.role = .active ∧ s.twin.formed = true ∧ (fieldAt s.twin.peer 1 1).testBit 2 = true
        (¬ ready → ∃ t, exec (.twinSwitch f) s = .next t ∧ Reads s t ∧ Answered t f 0x0508#16 [])
        ∧ (ready → (s.allBoundary (f.nat 0 8) = false ∨ f.nat 0 8 < s.nowNs + 2000000) → ∃ t, exec (.twinSwitch f) s = .next t ∧ Reads s t ∧ Answered t f 0x0101#16 [])
        ∧ (ready → s.allBoundary (f.nat 0 8) = true → s.nowNs + 2000000 ≤ f.nat 0 8 → ∃ t, exec (.twinSwitch f) s = .next t ∧ Answered t f 0x0000#16 []
            ∧ t.twin.planAt = some (f.nat 0 8) ∧ t.twin.role = .active ∧ ∃ m ∈ t.host.txq, m.port = .guy ∧ m.typ = 0x0C03#16 ∧ m.payload = f.payload))
    ∧ (∀ f : Frame, f.port = .guy → f.typ = 0x0C03#16 → s.guyOk f = true → f.payload.length = 16 → s.twin.role = .standby → s.twin.formed = true → s.twin.takeAt = none →
        ((guyClean f = false ∨ f.zero 8 8 = false) → exec (.twinSwitch f) s = .next s) ∧ (guyClean f = true → f.zero 8 8 = true →
          exec (.twinSwitch f) s = .next { s with twin := { s.twin with guy := s.twin.guy.take f.seq, planAt := some (f.nat 0 8) } }))
    ∧ (∀ b, s.twin.planAt = some b →
        (s.nowNs + 600000 < b → exec .plannedSwitch s = .next s)
        ∧ (b ≤ s.nowNs + 600000 → s.nowNs < b → (s.twin.role = .active ∨ s.twin.role = .standby) → ∃ t, exec .plannedSwitch s = .next t ∧ t.twin = s.twin
            ∧ (t.pins.xpOwn = true ↔ s.twin.role = .standby))
        ∧ (b ≤ s.nowNs → (s.twin.role = .active ∨ s.twin.role = .standby) → ∃ t, exec .plannedSwitch s = .next t ∧ t.twin.planAt = none
            ∧ (s.twin.role = .active → t.twin.role = .standby ∧ t.pins.xpOwn = false) ∧ (s.twin.role = .standby → t.twin.role = .active ∧ t.pins.xpOwn = true)))
    ∧ (∀ k record, s.twin.role = .standby → s.twin.formed = true → (s.carrier k).cfg.isSome = true → (s.carrier k).ckptOk k record = true →
        (ckptSections (fieldAt record 8 2) (record.drop 96) = none → exec (.checkpointApply k record) s = .next s)
        ∧ (∀ secs, ckptSections (fieldAt record 8 2) (record.drop 96) = some secs → ∃ t, exec (.checkpointApply k record) s = .next t
            ∧ t = { s with carriers := t.carriers, dfe := t.dfe, security := t.security } ∧ (∀ m, m ≠ k → t.carrier m = s.carrier m)
            ∧ (t.carrier k).cfg = (s.carrier k).cfg ∧ (t.carrier k).lastCkpt.toNat = fieldAt record 0 4 ∧ (t.carrier k).rx = rxOfCode (fieldAt record 0x0A 1)
            ∧ (t.carrier k).pairs = fieldAt record 0x10 4 ∧ (t.carrier k).failL = fieldAt record 0x14 4 ∧ (t.carrier k).failC = fieldAt record 0x18 4
            ∧ ((∀ q ∈ secs, q.1 ≠ 3) → (t.carrier k).weights = (s.carrier k).weights)
            ∧ ((∀ q ∈ secs, q.1 ≠ 4) → (t.carrier k).live = (s.carrier k).live)))

/-- Flits and ports of the trail (R420 to R424, R429): a flit that fails its CRC or comes out of order is answered with a nak and reaches nobody; one in order is acknowledged, and is
forwarded or delivered once; a port that goes down takes the jobs that lost a package with it; one whose neighbour has this node's number stays down. -/
def Obligations.TrailDelivers : Prop :=
  ∀ (s : State) (p : Fin 4), Quiet s →
    let x := s.trail.port p.val
    let others := fun (t : State) => ∀ q : Fin 4, q ≠ p → t.trail.port q.val = s.trail.port q.val
    let alone := fun (t : State) => t = { s with trail := t.trail } ∧ others t ∧ t.trail.inbox = s.trail.inbox ∧ t.trail.taken = s.trail.taken ∧ t.trail.acks = s.trail.acks
    (∀ b num body, x.up = true → b.length = 256 → flitCrcOk b = false → ∃ t, exec (.trailFlit p b num body) s = .next t ∧ alone t
        ∧ t.trail.port p.val = { x with crcErrs := satInc16 x.crcErrs, answer := some (true, x.rxSeq) })
    ∧ (∀ b num body, x.up = true → flitCrcOk b = true → flitFieldsOk b = true → fieldAt b 0 1 ≠ 0 → flitSeq b ≠ x.rxSeq → ∃ t, exec (.trailFlit p b num body) s = .next t ∧ alone t
        ∧ (t.trail.port p.val).answer = some (true, x.rxSeq) ∧ (t.trail.port p.val).rxSeq = x.rxSeq)
    ∧ (∀ b num, x.up = true → flitCrcOk b = true → flitFieldsOk b = true → fieldAt b 0 1 ≠ 0 → flitSeq b = x.rxSeq →
        let f := flitOf b
        let accepted := fun (t : State) => (t.trail.port p.val).answer = some (false, x.rxSeq + 1#12) ∧ (t.trail.port p.val).rxSeq = x.rxSeq + 1#12
        (f.dst ≠ s.node → ∃ t, exec (.trailFlit p b num .other) s = .next t ∧ t = { s with trail := t.trail } ∧ accepted t ∧ t.trail.inbox = s.trail.inbox
          ∧ t.trail.taken = s.trail.taken)
        ∧ (f.dst = s.node → f.typ = 1#8 → f.msg = 0xC0#8 → (f.src, num) ∉ s.trail.taken → ∃ t, exec (.trailFlit p b num .other) s = .next t
          ∧ t = { s with trail := t.trail } ∧ accepted t ∧ others t ∧ t.trail.inbox = s.trail.inbox ++ [(f.src, f.cls, f.payload)]
          ∧ t.trail.taken = s.trail.taken ++ [(f.src, num)] ∧ t.trail.acks = s.trail.acks ++ [(f.src, num)])
        ∧ (f.dst = s.node → f.typ = 1#8 → f.msg = 0xC0#8 → (f.src, num) ∈ s.trail.taken → ∃ t, exec (.trailFlit p b num .other) s = .next t
          ∧ t = { s with trail := t.trail } ∧ accepted t ∧ t.trail.inbox = s.trail.inbox ∧ t.trail.taken = s.trail.taken ∧ t.trail.acks = s.trail.acks ++ [(f.src, num)]))
    ∧ (∀ links, x.up = true → ∃ t, exec (.trailPortDown p links) s = .next t ∧ (t.trail.port p.val).up = false ∧ (t.trail.port p.val).lock = false ∧ t.trail.links = links
        ∧ ((∀ j ∈ s.jobs, j.carrier = none) → t.mem = s.mem)
        ∧ ∀ j, s.job j.id = some j → j.phase ≠ .ended → 1 < j.pkgs → (∃ n ∈ j.nodes, n ≠ s.node.toNat ∧ n ∉ t.reachable) →
            ∃ j', t.job j.id = some j' ∧ j'.phase = .ended ∧ j'.status = 0x0A04#16)
    ∧ (∀ nbrNode nbrPort links, x.up = false → s.boot.phase = .running →
        (nbrNode = s.node → ∃ t, exec (.trailPortUp p nbrNode nbrPort links) s = .next t
          ∧ t = { s with seqs := t.seqs, events := t.events, host := t.host, freeCtr := t.freeCtr })
        ∧ (nbrNode ≠ s.node → s.trail.unacked = [] → ∃ t, exec (.trailPortUp p nbrNode nbrPort links) s = .next t
            ∧ t = { s with trail := t.trail, carriers := t.carriers } ∧ others t ∧ t.trail.links = links
            ∧ t.trail.port p.val = { x with nbrNode := nbrNode, nbrPort := nbrPort, lock := true, up := true, txSeq := 0#12, rxSeq := 0#12, replay := [], queue := [] }))

/-! ### Power, supplies and boot -/

/-- Power by message (R450 to R452, R464, Tables 18-3 and 18-11): power.status reports, and restarts its peak; power.set sets ceiling, cap and wake sources and enters a state, or
answers ST_POWER_STATE. -/
def Obligations.PowerMessages : Prop :=
  ∀ (s : State) (f : Frame) (x : Session), Admitted s f x →
    (f.typ = 0x0008#16 → f.payload = [] → ∃ t, exec (.powerStatus f) s = .next t ∧ Answered t f 0x0000#16 s.powerBytes
      ∧ t = { s with host := t.host, power := { s.power with peakMw := 0#32 }, lantern := { s.lantern with switched := false } })
    ∧ (let want := f.nat 0 1
       let cap := f.nat 2 2
       f.typ = 0x0007#16 → f.payload.length = 16 → want ≤ 2 → f.nat 1 1 ≤ 4 → (f.nat 1 1 = 0 → s.anyCarrier = false) → (cap = 0 ∨ (60 ≤ cap ∧ cap ≤ 150)) → f.nat 4 1 < 8 →
       f.zero 5 3 = true →
       let sets := fun (t : State) => t.power.ceiling.toNat = min (f.nat 1 1) 3 ∧ t.power.capW.toNat = cap ∧ t.lantern.wakeMask.toNat = f.nat 4 1
         ∧ t.lantern.wakeTime.toNat = f.nat 8 8
       (want = s.power.state.code → ∃ t, exec (.powerSet f) s = .next t ∧ Answered t f 0x0000#16 [] ∧ sets t ∧ t.power.state = s.power.state ∧ t.clusters = s.clusters
         ∧ t.mem = s.mem)
       ∧ (want = 1 → s.power.state = .active → s.anyCarrier = false → s.noJobRuns = true → ∃ t, exec (.powerSet f) s = .next t ∧ Answered t f 0x0000#16 [] ∧ sets t
           ∧ t.power.state = .standby ∧ (∀ k, (t.clusters.get k).power = .gated) ∧ (∀ c a, a < 0x400000 → t.mem.get (coreAddr c a) = 0#8)
           ∧ ∀ a, a < 0x08800000000 → t.mem.get a = s.mem.get a)
       ∧ (want = 0 → s.power.state = .standby → s.power.tripped = false → ∃ t, exec (.powerSet f) s = .next t ∧ Answered t f 0x0000#16 [] ∧ sets t
           ∧ t.power.state = .active ∧ (∀ k, (s.clusters.get k).power = .gated → (t.clusters.get k).power = .waking) ∧ t.mem = s.mem)
       ∧ (want = 2 → s.power.state ≠ .bivouac → s.mayBivouac = true → ∃ t, exec (.powerSet f) s = .next t ∧ t.boot.phase = .bivouac ∧ t.power.state = .bivouac
           ∧ t.pins.pwrEn = false ∧ t.host.sessions = [] ∧ t.lantern.wakeMask.toNat = f.nat 4 1 ∧ t.lantern.wakeTime.toNat = f.nat 8 8 ∧ t.time.acc = s.time.acc
           ∧ (∀ a, a < 0x08000000000 → t.mem.get a = s.mem.get a) ∧ (∀ a, 0x08000000000 ≤ a → t.mem.get a = 0#8)
           ∧ ∃ m ∈ t.host.sent, m.typ = 0x0007#16 ∧ m.resp = true ∧ m.token = f.token ∧ m.status = 0x0000#16)
       ∧ (((want = 1 ∧ s.power.state = .active ∧ (s.anyCarrier = true ∨ s.noJobRuns = false)) ∨ (want = 0 ∧ s.power.state = .standby ∧ s.power.tripped = true)
            ∨ (want = 2 ∧ s.power.state ≠ .bivouac ∧ s.mayBivouac = false)) → ∃ t, exec (.powerSet f) s = .next t ∧ Reads s t ∧ Answered t f 0x0801#16 []))

/-- The cap loop, steps, thermal limits and clusters (R446, R447, R454, R455, R457 to R459, R525): above the cap the step falls, then the duty by 2; after 50 evaluations below 0.95 of it the
duty rises, then the step; a raised step waits for its divider; 105 degrees are reported once and 125 gate everything. -/
def Obligations.PowerLoop : Prop :=
  ∀ (s : State),
    let p := s.power
    let cap := p.capW.toNat * 1000
    let low : BitVec 2 := if s.anyCarrier then 1#2 else 0#2
    let vid := fun (n : BitVec 2) => BitVec.ofNat 7 ((match n.toNat with | 0 => 10 | 1 => 20 | 2 => 40 | _ => 60) + s.part.trim.toNat)
    (∀ avg peak, s.boot.phase = .running → p.rising = none → ∃ t, exec (.capEvaluation avg peak) s = .next t ∧ t = { s with power := t.power, host := t.host, lantern := t.lantern }
      ∧ t.power.avgMw = avg
      ∧ ((cap ≠ 0 ∧ cap < avg.toNat) ∨ p.hot = true → low.toNat < p.step.toNat → t.power.step = p.step - 1#2 ∧ t.power.vid = vid (p.step - 1#2) ∧ t.power.duty = p.duty)
      ∧ ((cap ≠ 0 ∧ cap < avg.toNat) ∨ p.hot = true → p.step.toNat ≤ low.toNat → t.power.step = p.step ∧ t.power.duty = p.duty - 2)
      ∧ ((cap ≠ 0 ∧ cap < avg.toNat) → t.power.below = 0)
      ∧ ((cap = 0 ∨ avg.toNat * 100 < cap * 95) → p.hot = false → t.power.below = min 50 (p.below + 1)
          ∧ (p.below < 49 → t.power.duty = p.duty ∧ t.power.step = p.step ∧ t.power.rising = none)
          ∧ (49 ≤ p.below → p.duty < 16 → t.power.duty = p.duty + 1 ∧ t.power.step = p.step ∧ t.power.rising = none)
          ∧ (49 ≤ p.below → 16 ≤ p.duty → p.step.toNat < p.ceiling.toNat → t.power.step = p.step ∧ t.power.rising = some (p.step + 1#2) ∧ t.power.vid = vid (p.step + 1#2)
              ∧ t.power.duty = p.duty)))
    ∧ (∀ n, p.rising = some n → ∃ t, exec (.dividerSwitch n) s = .next t ∧ t = { s with power := t.power, host := t.host, lantern := t.lantern } ∧ t.power.step = n ∧ t.power.rising = none
        ∧ t.power.vid = p.vid ∧ t.power.duty = p.duty)
    ∧ (∀ tj : Half, ∃ t, exec (.thermalLimit tj) s = .next t ∧ t = { s with power := t.power, host := t.host, lantern := t.lantern } ∧ t.power.tj = tj
        ∧ (t.power.hot = true ↔ 1680 ≤ tj.toInt) ∧ (1680 ≤ tj.toInt → p.hot = false → ∃ r, Notified s t 0x0008 0x0804#16 r (fun q => q == .host))
        ∧ ((tj.toInt < 1680 ∨ p.hot = true) → t.host = s.host))
    ∧ (p.tripped = false → s.boot.phase = .running → ∃ t q, exec .thermtrip s = .next t ∧ (∀ k, (t.clusters.get k).power = .gated) ∧ t.power = { p with tripped := true }
        ∧ t.pins.tripN = false ∧ t.pins.paEn = 0#16 ∧ t.pins.xpOwn = false ∧ t.mem = s.mem ∧ t.cores = s.cores ∧ t.events.getLast? = some q ∧ fieldAt q 18 2 = 0x0804)
    ∧ (∀ k, p.state = .active → (s.clusters.get k).power = .up → s.clusterIdle k = true →
        exec (.clusterGate k) s = .next { s with clusters := s.clusters.set k { s.clusters.get k with power := .gated } })
    ∧ (∀ k, Quiet s → (s.clusters.get k).power = .waking → ∃ t, exec (.clusterReady k) s = .next t ∧ t = { s with clusters := t.clusters }
        ∧ (0 < s.activeSlots k → (t.clusters.get k).power = .starting 0) ∧ (s.activeSlots k = 0 → (t.clusters.get k).power = .up) ∧ ∀ j, j ≠ k → t.clusters.get j = s.clusters.get j)
    ∧ (∀ k n, Quiet s → (s.clusters.get k).power = .starting n → ∃ t, exec (.engineSlotStart k) s = .next t ∧ t = { s with clusters := t.clusters }
        ∧ (t.clusters.get k).power = (if n + 1 < s.activeSlots k then .starting (n + 1) else .up) ∧ ∀ j, j ≠ k → t.clusters.get j = s.clusters.get j)

/-- Supplies, resets and wake events (R433, R453, R461 to R463, R504, R509, R510): the Lantern reset puts device time to 0 and leaves fuses, keys, counters and flash; a loss of
PWR_GOOD resets the dies; backup, main and wake events act where the spec lets them. -/
def Obligations.SuppliesAndResets : Prop :=
  ∀ (s : State),
    let fused := fun (t : State) => t.part = s.part ∧ t.security.counters = s.security.counters ∧ t.security.owners = s.security.owners ∧ t.pending = s.pending
      ∧ t.boot.bankA = s.boot.bankA ∧ t.boot.bankB = s.boot.bankB
    let dead := fun (t : State) => t.mem = [] ∧ t.jobs = [] ∧ (∀ k, (t.carrier k).cfg = none) ∧ t.host.sessions = [] ∧ (∀ c, (t.core c).owner = .none) ∧ t.kernels = []
      ∧ (∀ i, t.security.regs.get i = 0#384) ∧ t.pins.bootStat = false ∧ t.pins.xpOwn = false ∧ t.pins.paEn = 0#16 ∧ t.pins.tripN = true
    let gone := fun (i : Instr) (powered : Bool) => ∃ t, exec i s = .next t ∧ fused t ∧ dead t ∧ t.time = State.reset.time ∧ t.time.acc = 0#96 ∧ t.events = []
      ∧ t.boot.phase = .reset ∧ t.pins.pwrEn = false ∧ t.twin.role = .unpaired ∧ t.lantern.powered = powered
    gone .lanternReset true
    ∧ gone .lanternPowerLoss false
    ∧ (∀ m b, s.boot.phase = .reset → s.lantern.powered = true → exec (.pwrEnRise m b) s = .next { s with
        lantern := { s.lantern with mainOk := m, bkpOk := b }, boot := { s.boot with phase := .enabled }, pins := { s.pins with pwrEn := true } })
    ∧ (s.boot.phase = .running → ∃ t, exec .pwrGoodFall s = .next t ∧ fused t ∧ dead t ∧ t.time.acc = s.time.acc ∧ t.events = s.events ∧ t.boot.phase = .enabled
        ∧ t.twin.role = s.twin.role ∧ t.lantern = s.lantern ∧ t.pins.pwrEn = s.pins.pwrEn)
    ∧ (∀ cause : WakeCause, s.boot.phase = .bivouac →
        let bit := match cause with | .wakeN => 0 | .alarm => 1 | .link => 2
        let due := cause = .alarm → s.lantern.wakeTime ≠ 0#64 ∧ s.lantern.wakeTime.toNat ≤ s.nowNs
        (s.lantern.wakeMask.getLsbD bit = true → due → exec (.wakeEvent cause) s = .next { s with
            lantern := { s.lantern with wakeCause := BitVec.ofNat 8 (bit + 1) }, boot := { s.boot with phase := .enabled, warm := true }, pins := { s.pins with pwrEn := true } })
        ∧ (s.lantern.wakeMask.getLsbD bit = false → exec (.wakeEvent cause) s = .next s))
    ∧ (∀ b, Quiet s → s.session 0#16 = none → s.lantern.powered = true → s.lantern.onBkp = false → ∃ t, exec (.backupSwitch b) s = .next t ∧ t.lantern.onBkp = true ∧ t.lantern.mainOk = false ∧ t.lantern.bkpOk = b
        ∧ (s.twin.role = .active → t.twin.role = .isolated ∧ t.pins.xpOwn = false) ∧ (s.twin.role ≠ .active → t.twin.role = s.twin.role ∧ t.carriers = s.carriers)
        ∧ (s.twin.role ≠ .unpaired → t.twin.beat = s.twin.beat + 1#32 ∧ ∃ m ∈ t.host.txq, m.port = .guy ∧ m.typ = 0x0C02#16 ∧ (fieldAt m.payload 1 1).testBit 0 = true))
    ∧ (∀ b, s.lantern.powered = true → s.lantern.onBkp = true →
        exec (.mainReturn b) s = .next { s with lantern := { s.lantern with onBkp := false, mainOk := true, bkpOk := b } })
    ∧ (s.boot.phase = .halt → exec .bootStatToggle s = .next { s with pins := { s.pins with bootStat := !s.pins.bootStat } })

/-- Boot (R453, R488, R489, R494, R495, R500, R505, R507, R508, R510): the eligible bank of the higher number boots to Standby and is measured; a bank that fails is left for the
other, a die that fails its check stops the boot, no bank halts it; the watchdog fails a slow bank; a warm exit goes to Active. -/
def Obligations.BootRuns : Prop :=
  ∀ (s : State) (straps : Half) (b : BootFinding), s.boot.phase = .enabled →
    let image := fun (isB : Bool) => if isB then b.bankBOk else b.bankAOk
    let slow := fun (isB : Bool) => if isB then b.slowB else b.slowA
    let sound := b.die0Ok = true ∧ b.die1Ok = true
    let first := fun (isB : Bool) => s.eligible isB = true ∧ image isB = true ∧ (s.eligible (!isB) = true → image (!isB) = true →
      (if isB then s.boot.bankA.seq.toNat < s.boot.bankB.seq.toNat else s.boot.bankB.seq.toNat ≤ s.boot.bankA.seq.toNat))
    let floor := fun (isB : Bool) => if isB then s.boot.floorB else s.boot.floorA
    ∃ t, exec (.pwrGoodRise straps b) s = .next t ∧ t.part.straps = straps &&& 0xFE00#16 ∧ t.pending = s.pending
      ∧ (s.boot.warm = false →
          (∀ isB, first isB → slow isB = false → sound → b.ddr0Ok = true → b.ddr1Ok = true →
            t.boot.phase = .running ∧ t.boot.booted = some isB ∧ t.power.state = .standby ∧ t.pins.bootStat = true ∧ t.lantern.quoteKey.isSome = true
              ∧ (t.pins.xpOwn = true ↔ s.twin.role = .active)
              ∧ t.security.counter 0 = min 256 (max (floor isB) (s.security.counter 0)) ∧ (b.ownerOk = true → t.security.owners = s.security.owners)
              ∧ (b.ownerOk = false → t.security.owners = [])
              ∧ (∀ i : Fin 16, i.val < 5 → t.security.counts.get i = s.security.counts.get i + (if i = 3 then 2#16 else 1#16))
              ∧ ∀ i : Fin 16, 5 ≤ i.val → t.security.regs.get i = s.security.regs.get i)
          ∧ (∀ isB, first isB → slow isB = false → ¬ sound → t.boot.phase = .dieFail ∧ t.lantern.quoteKey = none ∧ t.security.regs.get 2 = s.security.regs.get 2)
          ∧ (∀ isB, first isB → slow isB = false → sound → ¬ (b.ddr0Ok = true ∧ b.ddr1Ok = true) → t.boot.phase = .hold ∧ t.lantern.quoteKey.isSome = true)
          ∧ (∀ isB, first isB → slow isB = true → t.boot.phase = .booting isB
              ∧ ∃ u, exec .bootWatchdog t = .next u ∧ u.boot.booted ≠ some isB ∧ (t.boot.bank isB).seq ∈ u.lantern.failedSeq)
          ∧ ((∀ isB, s.eligible isB = true → image isB = false) → t.boot.phase = .halt))
      ∧ (s.boot.warm = true → b.digestOk = true → sound → t.boot.phase = .running ∧ t.power.state = .active ∧ t.pins.bootStat = true ∧ t.boot.booted = s.boot.booted
          ∧ t.time.state = .locking ∧ t.mem = s.mem ∧ (∀ k, (s.clusters.get k).power = .gated → (t.clusters.get k).power = .waking))
      ∧ (s.boot.warm = true → b.digestOk = false → t.lantern.cold = true ∧ t.mem = [])

/-- Quotes, firmware, owner keys and resets by message (R492 to R502, R511, R512, Tables 20-2, 20-4 and 20-7). -/
def Obligations.SecurityMessages : Prop :=
  ∀ (s : State) (f : Frame) (x : Session), Admitted s f x →
    (f.typ = 0x0105#16 → f.payload.length = 40 → f.zero 35 5 = true → f.nat 34 1 < 16 →
      ((∃ k : CarrierId, (f.nat 34 1).testBit k.val = true ∧ (s.carrier k).cfg = none) → ∃ t, exec (.attestQuote f) s = .next t ∧ Reads s t ∧ Answered t f 0x0510#16 [])
      ∧ ((∀ k : CarrierId, (f.nat 34 1).testBit k.val = true → (s.carrier k).cfg.isSome = true) → ∃ t sig, exec (.attestQuote f) s = .next t
          ∧ t = { s with host := t.host, freeCtr := t.freeCtr } ∧ sig.length = 96 ∧ Answered t f 0x0000#16 (s.quoteBytes (f.nat 32 2) (f.nat 34 1) (f.payload.take 32) ++ sig)))
    ∧ (∀ b, f.typ = 0x0106#16 → f.payload.length = 4 → s.sealedBytes (BitVec.ofNat 32 (f.nat 0 4)) = some b →
        let fs := s.imageStatus b 0x10000 (fieldAt b 8 4)
        let fw := s.imageStatus b 0x50000 (fieldAt b 0x0C 4)
        let formed := fieldAt b 0 4 = 0x4B4E4142 ∧ fieldAt b 8 4 ≤ 0x40000 ∧ fieldAt b 0x0C 4 ≤ 0xE00000 ∧ ∀ i, i < 48 → b.getD (16 + i) 0#8 = 0#8
        let isB := s.boot.booted ≠ some true
        (s.boot.writing = true → ∃ t, exec (.fwUpdate f) s = .next t ∧ Reads s t ∧ Answered t f 0x0508#16 [])
        ∧ (s.boot.writing = false → formed → fs.1 ≠ 0x0000#16 → ∃ t, exec (.fwUpdate f) s = .next t ∧ Reads s t ∧ Answered t f fs.1 [])
        ∧ (s.boot.writing = false → formed → fs.1 = 0x0000#16 → fw.1 = 0x0000#16 → ∃ t, exec (.fwUpdate f) s = .next t ∧ Answered t f 0x0000#16 []
            ∧ t = { s with host := t.host, boot := t.boot } ∧ t.boot.writing = true ∧ t.boot.booted = s.boot.booted
            ∧ (isB → t.boot.bankB.valid = false ∧ t.boot.bankA = s.boot.bankA ∧ t.boot.floorB = max fs.2 fw.2)
            ∧ (¬ isB → t.boot.bankA.valid = false ∧ t.boot.bankB = s.boot.bankB ∧ t.boot.floorA = max fs.2 fw.2)))
    ∧ (s.boot.writing = true → ∃ t, exec .bankHeaderWritten s = .next t ∧ t = { s with boot := t.boot, lantern := t.lantern } ∧ t.boot.writing = false
        ∧ (s.boot.booted ≠ some true → t.boot.bankB.valid = true ∧ t.boot.bankB.seq = s.boot.bankA.seq + 1#32 ∧ t.boot.bankA = s.boot.bankA ∧ t.boot.bankB.seq ∉ t.lantern.failedSeq)
        ∧ (s.boot.booted = some true → t.boot.bankA.valid = true ∧ t.boot.bankA.seq = s.boot.bankB.seq + 1#32 ∧ t.boot.bankB = s.boot.bankB ∧ t.boot.bankA.seq ∉ t.lantern.failedSeq))
    ∧ (f.typ = 0x0107#16 → ownerFieldsOk f = true → f.nat 0 1 = 1 → s.owned = true → s.security.counter 1 < 256 →
        let key := (f.payload.drop 8).take 97
        (f.nat 4 4 ≠ s.security.counter 1 + 1 → ∃ t, exec (.keyOwner f) s = .next t ∧ Reads s t ∧ Answered t f 0x0703#16 [])
        ∧ (f.nat 4 4 = s.security.counter 1 + 1 → (∀ k ∈ s.security.owners, k.id = BitVec.ofNat 64 (f.nat 0x78 8) → k.admin = false) →
            ∃ t, exec (.keyOwner f) s = .next t ∧ Reads s t ∧ Answered t f 0x0704#16 [])
        ∧ (f.nat 4 4 = s.security.counter 1 + 1 → (∃ k ∈ s.security.owners, k.id = BitVec.ofNat 64 (f.nat 0x78 8) ∧ k.admin = true) → s.ownerSigOk f = false →
            ∃ t, exec (.keyOwner f) s = .next t ∧ Reads s t ∧ Answered t f 0x0701#16 [])
        ∧ (f.nat 4 4 = s.security.counter 1 + 1 → (∃ k ∈ s.security.owners, k.id = BitVec.ofNat 64 (f.nat 0x78 8) ∧ k.admin = true) → s.ownerSigOk f = true →
            (ownersAfter f s.security.owners).length ≤ 16 → (ownersAfter f s.security.owners).any (·.admin) = true →
            ∃ t, exec (.keyOwner f) s = .next t ∧ Answered t f 0x0000#16 [] ∧ t = { s with host := t.host, security := t.security }
              ∧ t.security.counter 1 = f.nat 4 4 ∧ t.security.owners = s.security.owners.filter (fun k => k.id != keyIdOf key)
                  ++ [{ id := keyIdOf key, roles := BitVec.ofNat 8 (f.nat 1 1), key := key }]
              ∧ t.security.counts.get 4 = s.security.counts.get 4 + 1#16))
    ∧ (f.typ = 0x0006#16 → f.payload.length = 8 → f.zero 0 8 = true →
        (s.boot.writing = true → ∃ t, exec (.devReset f) s = .next t ∧ Reads s t ∧ Answered t f 0x0508#16 [])
        ∧ (s.boot.writing = false → ∃ t, exec (.devReset f) s = .next t ∧ t.boot.phase = .enabled ∧ t.boot.warm = false ∧ t.mem = [] ∧ t.jobs = [] ∧ t.host.sessions = []
            ∧ t.part = s.part ∧ t.security.counters = s.security.counters ∧ t.events = s.events ∧ t.time.acc = s.time.acc
            ∧ ∃ m ∈ t.host.sent, m.typ = 0x0006#16 ∧ m.resp = true ∧ m.token = f.token ∧ m.status = 0x0000#16))

/-! ### Radio DSP cores -/

/-- Slot B's arithmetic (R324, R330, Tables 12-4 and 12-8): on 32 bits, or on two 16-bit lanes that ADD and SUB saturate; PF works on lanes only; the result lands one issue cycle later,
nothing else of the core's registers changes. -/
def Obligations.DspArithmetic : Prop :=
  ∀ (s : State) (d : DspId) (w a : Word), (opOf w = 0x1B → fOf w 13 1 = 0 → (s.dsp d).cycle.legal a w = false) ∧ (BundleReady s d a w →
    let y := (s.dsp d).cycle
    let s1 := y.dr (fOf w 18 4)
    let s2 := y.dr (fOf w 14 4)
    let imm := w.extractLsb' 0 16
    let puts := fun (i : Instr) (op : Nat) (rel : Word → Prop) => opOf w = op →
      ∃ t v, exec i s = .next t ∧ Bundle s t d a w ∧ Sends t d 1 (.d (fOf w 22 4)) (BitVec.setWidth 64 v) false ∧ rel v
    let alu := fun (i : Instr) (op : Nat) (whole : Word → Prop) (lanes : BitVec 16 → BitVec 16 → BitVec 16 → Prop) =>
      puts i op fun v => (fOf w 13 1 = 0 → whole v) ∧ (fOf w 13 1 = 1 → ∀ n, n < 2 → lanes (lane v n) (lane s1 n) (lane s2 n))
    alu (.dspAdd d w a) 0x10 (· = s1 + s2) (fun v p q => v.toInt = clampTo (-32768) 32767 (p.toInt + q.toInt))
    ∧ alu (.dspSub d w a) 0x11 (· = s1 - s2) (fun v p q => v.toInt = clampTo (-32768) 32767 (p.toInt - q.toInt))
    ∧ alu (.dspAnd d w a) 0x12 (· = s1 &&& s2) (fun v p q => v = p &&& q)
    ∧ alu (.dspOr d w a) 0x13 (· = s1 ||| s2) (fun v p q => v = p ||| q)
    ∧ alu (.dspXor d w a) 0x14 (· = s1 ^^^ s2) (fun v p q => v = p ^^^ q)
    ∧ alu (.dspShl d w a) 0x15 (· = s1 <<< (s2.toNat % 32)) (fun v p q => v = p <<< (q.toNat % 16))
    ∧ alu (.dspShr d w a) 0x16 (· = s1 >>> (s2.toNat % 32)) (fun v p q => v = p >>> (q.toNat % 16))
    ∧ alu (.dspSra d w a) 0x17 (· = s1.sshiftRight (s2.toNat % 32)) (fun v p q => v = p.sshiftRight (q.toNat % 16))
    ∧ alu (.dspMin d w a) 0x18 (fun v => v.toInt = min s1.toInt s2.toInt) (fun v p q => v.toInt = min p.toInt q.toInt)
    ∧ alu (.dspMax d w a) 0x19 (fun v => v.toInt = max s1.toInt s2.toInt) (fun v p q => v.toInt = max p.toInt q.toInt)
    ∧ puts (.dspPf d w a) 0x1B (fun v => ∀ n, n < 2 →
        let p := (lane s1 n).toInt
        let q := (lane s2 n).toInt
        let m : Int := (min (min p.natAbs q.natAbs) 32767 : Nat)
        (lane v n).toInt = if decide (p < 0) = decide (q < 0) then m else -m)
    ∧ puts (.dspAddi d w a) 0x1D (· = s1 + imm.signExtend 32)
    ∧ puts (.dspMovi d w a) 0x1E (fun v => (fOf w 16 1 = 0 → v = imm.signExtend 32)
        ∧ (fOf w 16 1 = 1 → lane v 1 = imm ∧ lane v 0 = lane (y.dr (fOf w 22 4)) 0))
    ∧ (opOf w = 0x1A → ∃ t v, exec (.dspCmp d w a) s = .next t ∧ Bundle s t d a w ∧ Sends t d 1 .flags v false
        ∧ (v.getLsbD 0 = decide (s1 = s2)) ∧ (v.getLsbD 1 = (s1 - s2).msb) ∧ (v.getLsbD 2 = decide (s2.toNat ≤ s1.toNat))
        ∧ (v.getLsbD 3 = decide (s1.toInt - s2.toInt ≠ (s1 - s2).toInt))))

/-- Multiply-accumulate, the accumulators and the control registers (R328, R329, Tables 12-3 and 12-8): a MAC lands three issue cycles later, saturated to 40 bits, and takes the
complete result of an earlier one; ACCRD rounds to nearest even and saturates. -/
def Obligations.DspAccumulators : Prop :=
  ∀ (s : State) (d : DspId) (w a : Word), BundleReady s d a w →
    let y := (s.dsp d).cycle
    let does := fun (i : Instr) (op : Nat) (rel : State → Prop) => opOf w = op → ∃ t, exec i s = .next t ∧ Bundle s t d a w ∧ rel t
    let dx := y.dr (fOf w 21 4)
    let dy := y.dr (fOf w 17 4)
    let p := 2 * fOf w 25 1
    let acc := fun (t : State) (i : Nat) (v : Int) => Sends t d 3 (.ac i) (BitVec.ofInt 64 (clampTo (-(2 ^ 39)) (2 ^ 39 - 1)
      ((if fOf w 14 1 = 1 then 0 else y.chain i) + (if fOf w 15 1 = 1 then -v else v)))) true
    let xr := (lane dx 0).toInt
    let xi := (lane dx 1).toInt
    let yr := (lane dy 0).toInt
    let yi := (lane dy 1).toInt
    let yc := if fOf w 16 1 = 1 then -yi else yi
    let ac := fOf w 20 2
    let sh := fOf w 14 6
    let n := fOf w 17 5
    does (.dspCmac d w a) 0x20 (fun t => acc t p (xr * yr - xi * yc) ∧ acc t (p + 1) (xr * yc + xi * yr) ∧ (t.dsp d).x = dx ∧ (t.dsp d).y = dy)
    ∧ does (.dspRmac2 d w a) 0x21 (fun t => acc t p (xr * yr) ∧ acc t (p + 1) (xi * yi) ∧ (t.dsp d).x = dx ∧ (t.dsp d).y = dy)
    ∧ does (.dspAccrd d w a) 0x22 (fun t => ∃ v : Word, Sends t d 2 (.d (fOf w 22 4)) (BitVec.setWidth 64 v) false
        ∧ (fOf w 12 1 = 1 → fOf w 13 1 = 0 → v = (y.acc ac).setWidth 32)
        ∧ (fOf w 12 1 = 0 → fOf w 13 1 = 0 → ∃ q, RoundsTo q (y.acc ac).toInt sh ∧ v.toInt = clampTo (-(2 ^ 31)) (2 ^ 31 - 1) q)
        ∧ (fOf w 12 1 = 0 → fOf w 13 1 = 1 → ∃ q r, RoundsTo q (y.acc ac).toInt sh ∧ RoundsTo r (y.acc (ac + 1)).toInt sh
            ∧ (lane v 0).toInt = clampTo (-32768) 32767 q ∧ (lane v 1).toInt = clampTo (-32768) 32767 r))
    ∧ does (.dspAccwr d w a) 0x23 (fun t => if fOf w 12 1 = 1 then Sends t d 2 (.acLow ac) ((y.dr (fOf w 22 4)).setWidth 64) false
        else Sends t d 2 (.ac ac) (BitVec.ofInt 64 ((y.dr (fOf w 22 4)).toInt * 2 ^ sh)) false)
    ∧ does (.dspMovc d w a) 0x3F (fun t => if fOf w 16 1 = 1 then Sends t d 2 (.cr n) ((y.dr (fOf w 22 4)).setWidth 64) false
        else ∃ v : Word, Sends t d 1 (.d (fOf w 22 4)) (BitVec.setWidth 64 v) false
          ∧ v = if n = 7 then y.acg else if n = 28 then (s.dsp d).ipend.setWidth 32 else if n = 29 then (t.dsp d).cyc else if n = 30 then BitVec.ofNat 32 d.val
            else y.ctlReg n)

/-- Slot A (R325, R331 to R335, R338, R341, Table 12-7): loads, stores, address registers, loops, branches with their two delay bundles, DMA, WAIT and SIG, on a core that would
go on to the next bundle.

Bundles that do not go straight on (R333, R334, R335, R341): a branch counts its two delay bundles, in which another branch is illegal; the last one goes to its target, or restores PC and FL from the interrupt registers; a loop body
goes back to its start while more than one pass is left; a DMA on a busy channel and a WAIT for an event hold their bundle at issue. -/
def Obligations.DspSlotAAndTurns : Prop :=
  (∀ (s : State) (d : DspId) (w b : Word),
     let y := (s.dsp d).cycle
     let next := y.pc + 8#17
     let dd := fOf w 22 4
     let j := fOf w 19 3
     let ea := (y.address w 0#64).1
     let sz : Nat := 2 ^ (fOf w 14 2 + 1)
     let does := fun (i : Instr) (op : Nat) (rel : State → Prop) => BundleReady s d w b → Straight y → opOf w = op → ∃ t, exec i s = .next t ∧ Bundle s t d w b ∧ rel t
     let goes := fun (t : State) => (t.dsp d).pc = next ∧ (t.dsp d).branch = none
     let turns := fun (t : State) (target : BitVec 17) (taken rti : Bool) =>
       (t.dsp d).pc = next ∧ (t.dsp d).branch = some { left := 2, target := target, taken := taken, rti := rti }
     let wrap := fun (delta : Int) => if y.circLen j = 0 then ((y.ar j).toNat : Int) + delta
       else y.circBase j + (((y.ar j).toNat : Int) - y.circBase j + delta) % (y.circLen j : Int)
     let moves := fun (t : State) => (fOf w 12 2 = 0 → Sends t d 1 (.a j) (BitVec.ofInt 64 (wrap (y.or j).toInt)) false)
       ∧ (fOf w 12 2 = 1 → Sends t d 1 (.a j) (BitVec.ofInt 64 (wrap (sz : Int))) false)
     let target := BitVec.ofInt 17 ((y.pc.toNat : Int) + 8 * signExt 22 (fOf w 0 22))
     let desc := y.mem.slice (y.ar j).toNat 16
     let ch := fOf w 24 2
     does (.dspNop d w b) 0x00 goes
     ∧ does (.dspLd d w b) 0x01 (fun t => goes t ∧ moves t
         ∧ (sz = 2 → ∃ v : Word, Sends t d 4 (.d dd) (BitVec.setWidth 64 v) false ∧ (lane v 0).toNat = leNat (y.mem.slice ea 2))
         ∧ (sz = 4 → Sends t d 4 (.d dd) (BitVec.ofNat 64 (leNat (y.mem.slice ea 4))) false)
         ∧ (sz = 8 → Sends t d 4 (.d (dd / 2 * 2)) (BitVec.ofNat 64 (leNat (y.mem.slice ea 4))) false
             ∧ Sends t d 4 (.d (dd / 2 * 2 + 1)) (BitVec.ofNat 64 (leNat (y.mem.slice (ea + 4) 4))) false))
     ∧ does (.dspSt d w b) 0x02 (fun t => goes t ∧ moves t ∧ (∀ a, (a < ea ∨ ea + sz ≤ a) → (t.dsp d).mem.get a = y.mem.get a)
         ∧ (sz ≤ 4 → (t.dsp d).mem.slice ea sz = leBytes sz (y.dr dd).toNat)
         ∧ (sz = 8 → (t.dsp d).mem.slice ea 8 = leBytes 4 (y.dr (dd / 2 * 2)).toNat ++ leBytes 4 (y.dr (dd / 2 * 2 + 1)).toNat))
     ∧ does (.dspAmov d w b) 0x03 (fun t => goes t ∧
         let k := fOf w 22 3
         let old : Int := if fOf w 25 1 = 1 then (y.or k).toInt else (y.ar k).toNat
         Sends t d 1 (if fOf w 25 1 = 1 then .o k else .a k)
           (BitVec.ofInt 64 (if fOf w 21 1 = 1 then old + signExt 17 (fOf w 0 17) else (fOf w 0 17 : Nat))) false)
     ∧ does (.dspLoop d w b) 0x04 (fun t =>
         let n := 3 * fOf w 25 1 + 1
         let count := if fOf w 24 1 = 1 then y.dr (fOf w 20 4) else BitVec.ofNat 32 (fOf w 8 12)
         let last := next + BitVec.ofNat 17 (8 * (fOf w 0 8 - 1))
         (t.dsp d).ctlReg n = count ∧ (t.dsp d).ctlReg (n + 1) = next.setWidth 32 ∧ (t.dsp d).ctlReg (n + 2) = last.setWidth 32
           ∧ (t.dsp d).branch = none ∧ (t.dsp d).pc = if count = 0#32 then last + 8#17 else next)
     ∧ does (.dspBr d w b) 0x05 (fun t => turns t target (condHolds (fOf w 22 4) y.fl) false)
     ∧ does (.dspCall d w b) 0x06 (fun t => turns t target true false ∧ (t.dsp d).ctlReg 31 = (y.pc + 24#17).setWidth 32)
     ∧ does (.dspRet d w b) 0x07 (fun t => turns t ((y.ctlReg 31).setWidth 17) true false)
     ∧ does (.dspRti d w b) 0x08 (fun t => turns t 0#17 true true)
     ∧ does (.dspDma d w b) 0x09 (fun t => goes t
         ∧ (descBytes desc ≠ 0 → ((t.dsp d).chan ch).run = some desc ∧ ((t.dsp d).chan ch).done = (y.chan ch).done)
         ∧ (descBytes desc = 0 → ((t.dsp d).chan ch).run = none ∧ ((t.dsp d).chan ch).done = true ∧ (t.dsp d).ipend.getLsbD 1 = true)
         ∧ ∀ h, h < 4 → h ≠ ch → (t.dsp d).chan h = y.chan h)
     ∧ does (.dspWait d w b) 0x0A (fun t => goes t ∧ ∀ h, h < 4 → (t.dsp d).chan h =
         if (fOf w 16 4).testBit h then { y.chan h with done := false } else y.chan h)
     ∧ does (.dspSig d w b) 0x0B (fun t => goes t ∧ (d.val < 12 → t.host = s.host)
         ∧ (12 ≤ d.val → Notified s t 0x0A13 0x0000#16 (leBytes 4 (match s.kernelOf d with | some k => k.id.toNat | none => 0) ++ leBytes 1 d.val
             ++ [0#8, 0#8, 0#8] ++ leBytes 4 (s.dsp d).pc.toNat ++ leBytes 2 (fOf w 0 16) ++ [0#8, 0#8]) hostPort)))
  ∧ (∀ (s : State) (d : DspId) (b : Word),
     let x := s.dsp d
     let y := x.cycle
     (∀ q, BundleReady s d 0#32 b → y.branch = some q → q.left = 2 → ∃ t, exec (.dspNop d 0#32 b) s = .next t ∧ Bundle s t d 0#32 b ∧ (t.dsp d).branch = some { q with left := 1 })
     ∧ (∀ w, isBranch w = true → y.branch ≠ none → y.legal w b = false)
     ∧ (∀ q, BundleReady s d 0#32 b → y.branch = some q → q.left = 1 → ∃ t, exec (.dspNop d 0#32 b) s = .next t ∧ Bundle s t d 0#32 b ∧ (t.dsp d).branch = none
         ∧ (q.rti = true → (t.dsp d).pc = (y.ctlReg 24).setWidth 17 ∧ (t.dsp d).fl = y.ctlReg 25 &&& 0x3F#32)
         ∧ (q.rti = false → q.taken = true → (t.dsp d).pc = q.target))
     ∧ (∀ n, (n = 1 ∨ n = 4) → BundleReady s d 0#32 b → y.branch = none → (y.ctlReg (n + 2)).toNat = y.pc.toNat → 1 < (y.ctlReg n).toNat →
         (n = 1 → (y.ctlReg 6).toNat = y.pc.toNat → (y.ctlReg 4).toNat ≤ 1) →
         ∃ t, exec (.dspNop d 0#32 b) s = .next t ∧ Bundle s t d 0#32 b ∧ (t.dsp d).pc = (y.ctlReg (n + 1)).setWidth 17 ∧ (t.dsp d).ctlReg n = y.ctlReg n - 1#32)
     ∧ (∀ w, x.runs = true → x.held = none → y.legal w b = true → y.faultA (s.winOk d) w = none → y.holdA w = true →
         (opOf w = 0x09 → exec (.dspDma d w b) s = .next (s.setDsp d { x with held := some (w, b) }))
         ∧ (opOf w = 0x0A → exec (.dspWait d w b) s = .next (s.setDsp d { x with held := some (w, b) }))))

/-- Events of the cores (R323, R336 to R341): an interrupt is taken by the lowest pending and enabled cause; a fault halts an open core, with its pending writes complete, and reloads a
radio core; the watchdog is a fault of cause 4; a transfer that ends sets its event; DS_CTL starts and stops a core. -/
def Obligations.DspEvents : Prop :=
  ∀ (s : State) (d : DspId),
    let x := s.dsp d
    let y := x.cycle
    let others := fun (t : State) => ∀ e, e ≠ d → t.dsp e = s.dsp e
    (∀ n : Fin 3, x.runs = true → y.fl.getLsbD 5 = true → x.branch = none → x.shadow = 0 → (y.ctlReg 27).getLsbD n.val = true → (n = 1 → x.ipend.getLsbD 1 = true) →
      (∀ i, i < n.val → ¬ (x.ipend.getLsbD i = true ∧ (y.ctlReg 27).getLsbD i = true)) →
      ∃ t, exec (.interruptEntry d n) s = .next t ∧ t = { s with dsps := t.dsps } ∧ others t ∧ (t.dsp d).pend = [] ∧ (t.dsp d).d = x.drain.d
        ∧ (t.dsp d).pc = (x.drain.ctlReg 26).setWidth 17 + BitVec.ofNat 17 (64 * n.val) ∧ (t.dsp d).ctlReg 24 = x.pc.setWidth 32
        ∧ (t.dsp d).ctlReg 25 = x.drain.fl ∧ (t.dsp d).fl = x.drain.fl &&& 0xFFFFFFDF#32 ∧ (t.dsp d).ipend.getLsbD n.val = false ∧ (t.dsp d).mem = x.mem)
    ∧ (let faults := fun (i : Instr) (cause : Nat) => ∃ t, exec i s = .next t ∧ t.mem = s.mem ∧ t.kernels = s.kernels
          ∧ (12 ≤ d.val → t = { s with dsps := t.dsps, host := t.host } ∧ others t ∧ (t.dsp d).halted = true ∧ (t.dsp d).cause = BitVec.ofNat 4 cause
              ∧ (t.dsp d).fault = y.pc ∧ (t.dsp d).pend = [] ∧ (t.dsp d).mem = x.mem
              ∧ Notified s t 0x0A13 0x0509#16 (leBytes 4 (match s.kernelOf d with | some k => k.id.toNat | none => 0) ++ leBytes 1 d.val
                  ++ leBytes 1 cause ++ leBytes 2 0x0509 ++ leBytes 4 y.pc.toNat ++ [0#8, 0#8, 0#8, 0#8]) hostPort)
          ∧ (d.val < 12 → others t ∧ (t.dsp d).halted = false ∧ (t.dsp d).pc = 0#17 ∧ (t.dsp d).mem = x.mem ∧ (t.dsp d).pend = []
              ∧ (∀ i, (t.dsp d).dr i = 0#32) ∧ (t.carrier (Fin.ofNat 4 (d.val / 3))).health.dspReloads = satInc32 (s.carrier (Fin.ofNat 4 (d.val / 3))).health.dspReloads)
       (∀ a b, x.runs = true → x.held = none →
          (y.legal a b = false → faults (.dspFault d a b) 1)
          ∧ (y.legal a b = true → (opOf a = 1 ∨ opOf a = 2) → (y.address a 0#64).1 % 2 ^ (fOf a 14 2 + 1) ≠ 0 → faults (.dspFault d a b) 2)
          ∧ (y.legal a b = true → opOf a = 9 → y.holdA a = false → dspDescOk (y.mem.slice (y.ar (fOf a 19 3)).toNat 16) = false → faults (.dspFault d a b) 3))
       ∧ (x.runs = true → bitsOf x.ctl.toNat 0 24 ≠ 0 → faults (.watchdog d) 4))
    ∧ (∀ (h : Fin 4) (q : List Byte) (n : Nat) (m : Cells 8) (k : Kernel), (x.chan h.val).run = some q → x.held = none → x.stopping = false → s.kernelOf d = some k →
        k.windows[descWindow q]? = some (.scratch n m) → s.kernels.Pairwise (fun u v => u.id ≠ v.id) →
        ∃ t, exec (.dspDmaComplete d h) s = .next t ∧ others t ∧ ((t.dsp d).chan h.val).run = none ∧ ((t.dsp d).chan h.val).done = true
          ∧ (t.dsp d).ipend.getLsbD 1 = true ∧ (t.dsp d).d = x.d ∧ (t.dsp d).pc = x.pc
          ∧ (descOut q = true → (t.dsp d).mem = x.mem ∧ ∃ k' v, t.kernelOf d = some k' ∧ k'.windows[descWindow q]? = some (.scratch n v)
              ∧ v.slice (descOffset q) (descBytes q) = x.mem.slice (fieldAt q 0 4 % 2 ^ 17) (descBytes q))
          ∧ (descOut q = false → t.kernels = s.kernels ∧ (t.dsp d).mem.slice (fieldAt q 0 4 % 2 ^ 17) (descBytes q) = m.slice (descOffset q) (descBytes q)))
    ∧ (∀ v : Word, ∃ t, exec (.dsCtl d v) s = .next t ∧ t = { s with dsps := t.dsps } ∧ others t ∧ (t.dsp d).ctl = v &&& 0xE0FFFFFF#32
        ∧ (t.dsp d).mem = x.mem
        ∧ (v.getLsbD 31 = true → x.ctl.getLsbD 31 = false → t.dsp d = { mem := x.mem, ctl := v &&& 0xE0FFFFFF#32, halted := false })
        ∧ (v.getLsbD 31 = false → x.ctl.getLsbD 31 = true → (t.dsp d).halted = true ∧ (t.dsp d).pend = [] ∧ (t.dsp d).d = x.drain.d)
        ∧ (v.getLsbD 31 = x.ctl.getLsbD 31 → t.dsp d = { x with ctl := v &&& 0xE0FFFFFF#32 }))

/-- Kernels by message (R339, R340, R342 to R344): loading onto free open cores, starting, stopping, unloading, and reading scratch into an object. -/
def Obligations.Kernels : Prop :=
  ∀ (s : State) (f : Frame) (x : Session), Admitted s f x →
    (∀ b, f.typ = 0x0A0E#16 → f.payload.length = 4 → s.sealedBytes (BitVec.ofNat 32 (f.nat 0 4)) = some b →
      let st := s.checkSigned 5 b
      (st ≠ 0x0000#16 → ∃ t, exec (.dspLoad f) s = .next t ∧ Reads s t ∧ Answered t f st [])
      ∧ (st = 0x0000#16 → kernelOk b (b.length - 128) s.freeDsps.length = false → ∃ t, exec (.dspLoad f) s = .next t ∧ Reads s t ∧ Answered t f 0x050A#16 [])
      ∧ (∀ g, st = 0x0000#16 → kernelOk b (b.length - 128) s.freeDsps.length = true → sigOf b = some g →
          (g.counter < 64 → fieldAt b 0x14 4 < s.security.counter g.counter → ∃ t, exec (.dspLoad f) s = .next t ∧ Reads s t ∧ Answered t f 0x0703#16 []) ∧
          ((g.counter < 64 → s.security.counter g.counter ≤ fieldAt b 0x14 4) →
          s.kernels.foldl (fun n k => n + scratchTotal k.windows) 0 + scratchTotal ((imageWindows b).filterMap id) ≤ 0x400000 →
          ∃ t k, exec (.dspLoad f) s = .next t ∧ t.kernels = s.kernels ++ [k] ∧ k.id = s.nextKern ∧ t.nextKern = s.nextKern + 1#32
            ∧ k.cores = s.freeDsps.take (fieldAt b 6 1) ∧ Answered t f 0x0000#16 (leBytes 4 s.nextKern.toNat ++ leBytes 2 (k.cores.foldl (fun m d => m + 2 ^ d.val) 0))
            ∧ (∀ d ∈ k.cores, (t.dsp d).runs = false) ∧ (∀ d, d ∉ k.cores → t.dsp d = s.dsp d) ∧ t.mem = s.mem
            ∧ t.security.counts.get 10 = s.security.counts.get 10 + 1#16)))
    ∧ (∀ k, f.payload.length = 4 → s.kernels.find? (fun k => k.id.toNat == f.nat 0 4) = some k →
        (f.typ = 0x0A0F#16 → ∃ t, exec (.dspStart f) s = .next t ∧ Answered t f 0x0000#16 [] ∧ t = { s with host := t.host, dsps := t.dsps }
          ∧ (∀ d ∈ k.cores, ((s.dsp d).runs = true → t.dsp d = s.dsp d)
              ∧ ((s.dsp d).runs = false → (t.dsp d).runs = true ∧ (t.dsp d).pc = 0#17 ∧ (t.dsp d).mem = (s.dsp d).mem ∧ ∀ i, (t.dsp d).dr i = 0#32))
          ∧ ∀ d, d ∉ k.cores → t.dsp d = s.dsp d)
        ∧ (f.typ = 0x0A10#16 → ∃ t, exec (.dspStop f) s = .next t ∧ Answered t f 0x0000#16 [] ∧ t = { s with host := t.host, dsps := t.dsps, kernels := t.kernels }
          ∧ (∀ d ∈ k.cores, (t.dsp d).runs = false ∧ ((s.dsp d).chans.toList.all (fun c => c.run.isNone) = true → (t.dsp d).halted = true ∧ (t.dsp d).mem = []))
          ∧ (∀ d, d ∉ k.cores → t.dsp d = s.dsp d) ∧ t.kernels.map (·.id) = s.kernels.map (·.id))
        ∧ (f.typ = 0x0A11#16 → ∃ t, exec (.dspUnload f) s = .next t ∧ Answered t f 0x0000#16 [] ∧ t = { s with host := t.host, dsps := t.dsps, kernels := t.kernels }
          ∧ t.kernels = s.kernels.filter (fun q => q.id != k.id) ∧ (∀ d ∈ k.cores, (t.dsp d).runs = false ∧ (t.dsp d).mem = []) ∧ ∀ d, d ∉ k.cores → t.dsp d = s.dsp d))
    ∧ (∀ k size m o, f.typ = 0x0A12#16 → f.payload.length = 24 → f.zero 5 3 = true → s.kernels.find? (fun k => k.id.toNat == f.nat 0 4) = some k →
        k.windows[f.nat 4 1]? = some (.scratch size m) → f.nat 8 8 + f.nat 0x10 4 ≤ size → s.object (BitVec.ofNat 32 (f.nat 0x14 4)) = some o → o.isSealed = false →
        f.nat 0x10 4 ≤ o.size → ∃ t, exec (.dspRead f) s = .next t ∧ Answered t f 0x0000#16 [] ∧ t.mem.slice o.base (f.nat 0x10 4) = m.slice (f.nat 8 8) (f.nat 0x10 4)
          ∧ ∀ a, (a < o.base ∨ o.base + f.nat 0x10 4 ≤ a) → t.mem.get a = s.mem.get a)

/-! ### Reset and invariants -/

/-- Writing bytes over a range reads back as those bytes, leaves every other place alone; erasing reads 0 there (R509 for on-chip memory, log 3); two memories in canonical form that read alike are equal. -/
def Obligations.MemoryReadsBack : Prop :=
  ∀ (m : Cells 8) (a : Nat) (bs : List Byte) (n : Nat),
    (m.splice a bs).slice a bs.length = bs ∧ (∀ b, (b < a ∨ a + bs.length ≤ b) → (m.splice a bs).get b = m.get b)
    ∧ (∀ b, (m.erase a n).get b = if a ≤ b ∧ b < a + n then 0#8 else m.get b)
    ∧ (∀ q, Memory.wf m → Memory.wf q → (∀ b, m.get b = q.get b) → m = q)

/-- The state right after the Lantern power-on reset (R377, R387, R461, R500, R504, Tables 11-7 to 11-14 and 15-3): device time and alarms 0, PWR_EN low, nothing configured, no session, no
record, the registers at their reset values. -/
def Obligations.ResetState : Prop :=
  let s := State.reset
  s.pending = [] ∧ s.time.acc = 0#96 ∧ s.time.state = .freerun ∧ s.time.ctl.toNat = 1000 * 2 ^ 48 + 10 * 2 ^ 40 + 100 * 2 ^ 24 + 24 * 2 ^ 16 + 0x24
    ∧ s.time.rate = 0x200000000#48 ∧ (∀ n, (s.time.alarm n).arm = false) ∧ s.boot.phase = .reset ∧ s.pins.pwrEn = false ∧ s.pins.tripN = true ∧ s.pins.xpOwn = false
    ∧ s.pins.paEn = 0#16 ∧ s.events = [] ∧ s.jobs = [] ∧ s.host.sessions = [] ∧ s.host.txq = [] ∧ s.kernels = [] ∧ s.twin.role = .unpaired
    ∧ (∀ k, (s.carrier k).cfg = none) ∧ (∀ c, (s.core c).owner = .none) ∧ (∀ k, (s.clusters.get k).power = .gated) ∧ (∀ i, s.security.regs.get i = 0#384)
    ∧ (∀ i, s.security.counts.get i = 0#16) ∧ (∀ p, p < 64 → s.dfe.read 4 p = 0x9A#64) ∧ (∀ c, c < 4 → s.dfe.read 3 c = 0x3405A#64 ∧ s.dfe.read 5 c = 0x500FA0C8#64)
    ∧ s.dfe.read 10 0 = 0x20000#64 ∧ s.lantern.onBkp = false ∧ (∀ a, s.mem.get a = 0#8) ∧ ∀ n, s.security.counter n ≤ 256

/-- Memory stays in its canonical form under every step, whatever the command. -/
def Obligations.MemoryStaysCanonical : Prop :=
  ∀ (s t : State), Memory.wf s.mem → step s = .next t → Memory.wf t.mem

/-- Under every step, whatever the command, an anti-rollback counter never falls and stays within its 256 fuse bits (R494), and the spare measurement registers stay zero (R500). -/
def Obligations.CountersNeverFall : Prop :=
  ∀ (s t : State), (∀ n, s.security.counter n ≤ 256) → (∀ i : Fin 16, 13 ≤ i.val → s.security.regs.get i = 0#384 ∧ s.security.counts.get i = 0#16) →
    step s = .next t →
      (∀ n, s.security.counter n ≤ t.security.counter n ∧ t.security.counter n ≤ 256)
      ∧ ∀ i : Fin 16, 13 ≤ i.val → t.security.regs.get i = 0#384 ∧ t.security.counts.get i = 0#16
end

