-- ==== Sys2Proof/Laws/Cells.lean ====
section
/-!
SUPPORT. The canonical form of memory: every memory operation keeps it.
-/
namespace Sys2Proof

theorem Cells.ofList_mem {w : Nat} (vs : List (BitVec w)) : ∀ a, ∀ p ∈ Cells.ofList a vs, a ≤ p.1 ∧ p.1 < a + vs.length ∧ p.2 ≠ 0#w := by
  induction vs with
  | nil => intro a p h; cases h
  | cons v vs ih =>
    intro a p h
    unfold Cells.ofList at h
    split at h
    · obtain ⟨h1, h2, h3⟩ := ih (a + 1) p h
      exact ⟨by omega, by simp only [List.length_cons]; omega, h3⟩
    · rcases List.mem_cons.mp h with h | h
      · subst h; exact ⟨Nat.le_refl _, by simp only [List.length_cons]; omega, by assumption⟩
      · obtain ⟨h1, h2, h3⟩ := ih (a + 1) p h
        exact ⟨by omega, by simp only [List.length_cons]; omega, h3⟩

theorem Cells.ofList_wf {w : Nat} (vs : List (BitVec w)) : ∀ a, (Cells.ofList a vs).wf := by
  induction vs with
  | nil => intro a; exact ⟨List.Pairwise.nil, fun _ h => by cases h⟩
  | cons v vs ih =>
    intro a
    unfold Cells.ofList
    split
    · exact ih (a + 1)
    · rename_i hv
      refine ⟨List.Pairwise.cons (fun p h => ?_) (ih (a + 1)).1, fun p h => ?_⟩
      · have := (Cells.ofList_mem vs (a + 1) p h).1; show a < p.1; omega
      · rcases List.mem_cons.mp h with h | h
        · subst h; exact hv
        · exact (ih (a + 1)).2 p h

theorem Cells.filter_wf {w : Nat} {c : Cells w} (h : c.wf) (f : Nat × BitVec w → Bool) : Cells.wf (List.filter f c) :=
  ⟨List.Pairwise.filter f h.1, fun p hp => h.2 p (List.mem_filter.mp hp).1⟩

theorem Cells.erase_wf {w : Nat} {c : Cells w} (h : c.wf) (a n : Nat) : (c.erase a n).wf := Cells.filter_wf h _

/-- Three parts in canonical form, each below the next, are one. -/
theorem Cells.append_wf {w : Nat} {x y z : Cells w} {a b : Nat} (hx : x.wf) (hy : y.wf) (hz : z.wf) (hab : a ≤ b) (h1 : ∀ p ∈ x, p.1 < a)
    (h2 : ∀ p ∈ y, a ≤ p.1 ∧ p.1 < b) (h3 : ∀ p ∈ z, b ≤ p.1) : Cells.wf (x ++ y ++ z) := by
  refine ⟨List.pairwise_append.mpr ⟨List.pairwise_append.mpr ⟨hx.1, hy.1, fun p hp q hq => ?_⟩, hz.1, fun p hp q hq => ?_⟩, fun p hp => ?_⟩
  · have := h1 p hp; have := (h2 q hq).1; omega
  · have := h3 q hq
    rcases List.mem_append.mp hp with hp | hp
    · have := h1 p hp; omega
    · have := (h2 p hp).2; omega
  · rcases List.mem_append.mp hp with hp | hp
    · rcases List.mem_append.mp hp with hp | hp
      · exact hx.2 p hp
      · exact hy.2 p hp
    · exact hz.2 p hp

theorem Cells.splice_wf {w : Nat} {c : Cells w} (h : c.wf) (a : Nat) (vs : List (BitVec w)) : (c.splice a vs).wf := by
  refine Cells.append_wf (a := a) (b := a + vs.length) (Cells.filter_wf h _) (Cells.ofList_wf vs a) (Cells.filter_wf h _) (Nat.le_add_right _ _)
    (fun p hp => ?_) (fun p hp => ?_) (fun p hp => ?_)
  · simpa using (List.mem_filter.mp hp).2
  · have := Cells.ofList_mem vs a p hp; exact ⟨this.1, this.2.1⟩
  · simpa using (List.mem_filter.mp hp).2

theorem Cells.set_wf {w : Nat} {c : Cells w} (h : c.wf) (k : Nat) (v : BitVec w) : (c.set k v).wf := Cells.splice_wf h k [v]

theorem Cells.build_wf {w : Nat} (n : Nat) (f : Nat → BitVec w) : (Cells.build n f).wf := Cells.ofList_wf _ 0

namespace Machine

theorem State.reset_mem_wf : Memory.wf State.reset.mem := ⟨List.Pairwise.nil, fun _ h => by cases h⟩
theorem State.writePhys_mem_wf {s : State} (h : Memory.wf s.mem) (a : Nat) (bs : List Byte) : Memory.wf (s.writePhys a bs).mem := Cells.splice_wf h a bs
theorem State.writeCore_mem_wf {s : State} (h : Memory.wf s.mem) (c : CoreId) (a : Nat) (bs : List Byte) : Memory.wf (s.writeCore c a bs).mem := Cells.splice_wf h _ bs
theorem State.erasePhys_mem_wf {s : State} (h : Memory.wf s.mem) (a n : Nat) : Memory.wf (s.erasePhys a n).mem := Cells.erase_wf h a n

theorem State.hubReset_mem_wf {s : State} (h : Memory.wf s.mem) (ddr : Bool) : Memory.wf (s.hubReset ddr).mem := by
  cases ddr
  · exact State.reset_mem_wf
  · exact Cells.filter_wf h _

theorem State.moveMem_mem_wf {s : State} (h : Memory.wf s.mem) (a b : CoreId) (n : Nat) : Memory.wf (s.moveMem a b n).mem := by
  have hm := Cells.erase_wf h (coreAddr a 0) n
  have hp := Cells.filter_wf h fun p => decide (coreAddr a 0 ≤ p.1) && decide (p.1 < coreAddr a 0 + n)
  refine Cells.append_wf (a := coreAddr b 0) (b := coreAddr b 0 + n) (Cells.filter_wf hm _) ⟨?_, ?_⟩ (Cells.filter_wf hm _) (Nat.le_add_right _ _)
    (fun p hp => ?_) (fun p hp => ?_) (fun p hp => ?_)
  · refine List.pairwise_map.mpr (hp.1.imp_of_mem ?_)
    intro x y hx hy hxy
    have h1 := (List.mem_filter.mp hx).2
    have h2 := (List.mem_filter.mp hy).2
    simp only [Bool.and_eq_true, decide_eq_true_eq] at h1 h2
    show x.1 - coreAddr a 0 + coreAddr b 0 < y.1 - coreAddr a 0 + coreAddr b 0
    omega
  · intro p hq
    obtain ⟨x, hx, rfl⟩ := List.mem_map.mp hq
    exact hp.2 x hx
  · simpa using (List.mem_filter.mp hp).2
  · obtain ⟨x, hx, rfl⟩ := List.mem_map.mp hp
    have h1 := (List.mem_filter.mp hx).2
    simp only [Bool.and_eq_true, decide_eq_true_eq] at h1
    show coreAddr b 0 ≤ x.1 - coreAddr a 0 + coreAddr b 0 ∧ x.1 - coreAddr a 0 + coreAddr b 0 < coreAddr b 0 + n
    omega
  · simpa using (List.mem_filter.mp hp).2

end Machine

end Sys2Proof
end

