-- ==== Sys2Proof/Laws/Memory.lean ====
section
/-!
SUPPORT. Operations that write memory and nothing else: what they can do, once.
-/
namespace Sys2Proof.Machine

/-- Nothing but memory differs, and memory keeps its canonical form. -/
def MemOnly (s t : State) : Prop := t = { s with mem := t.mem } ∧ (Memory.wf s.mem → Memory.wf t.mem)

theorem MemOnly.refl (s : State) : MemOnly s s := ⟨rfl, id⟩

theorem MemOnly.trans {s t u : State} (h : MemOnly s t) (k : MemOnly t u) : MemOnly s u :=
  ⟨by rw [k.1, h.1], k.2 ∘ h.2⟩

theorem MemOnly.foldl {α : Type} {f : State → α → State} (hf : ∀ s a, MemOnly s (f s a)) : ∀ (l : List α) (s : State), MemOnly s (l.foldl f s)
  | [], s => MemOnly.refl s
  | a :: l, s => (hf s a).trans (MemOnly.foldl hf l (f s a))

theorem State.writePhys_memOnly (s : State) (a : Nat) (bs : List Byte) : MemOnly s (s.writePhys a bs) :=
  ⟨rfl, fun h => State.writePhys_mem_wf h a bs⟩

theorem State.writeCore_memOnly (s : State) (c : CoreId) (a : Nat) (bs : List Byte) : MemOnly s (s.writeCore c a bs) :=
  ⟨rfl, fun h => State.writeCore_mem_wf h c a bs⟩

theorem State.erasePhys_memOnly (s : State) (a n : Nat) : MemOnly s (s.erasePhys a n) :=
  ⟨rfl, fun h => State.erasePhys_mem_wf h a n⟩

theorem State.moveMem_memOnly (s : State) (a b : CoreId) (n : Nat) : MemOnly s (s.moveMem a b n) :=
  ⟨rfl, fun h => State.moveMem_mem_wf h a b n⟩

/-- The view of a command with bypass, and the way back, touch memory alone (R181). -/
theorem State.view_memOnly (s : State) (c : CoreId) (serial place : Nat) (own : Nat → Bool) : MemOnly s (s.view c serial place own) :=
  MemOnly.foldl (fun _ _ => State.writeCore_memOnly ..) _ s

theorem State.unview_memOnly (s t : State) (c : CoreId) (serial : Nat) (own : Nat → Bool) : MemOnly t (s.unview c serial own t) :=
  MemOnly.foldl (fun _ _ => State.writeCore_memOnly ..) _ t

/-- Without a bypassed read outstanding the view is the memory itself (R181). -/
theorem State.view_eq_self (s : State) (c : CoreId) (serial place : Nat) (own : Nat → Bool)
    (h : ∀ p ∈ (s.ctx c).seen, p.serial ≠ serial) : s.view c serial place own = s := by
  have hf : (s.ctx c).seen.filter (fun p => p.serial == serial) = [] :=
    List.filter_eq_nil_iff.mpr fun p hp => by simpa using h p hp
  simp only [State.view, hf, List.foldl_nil]

theorem State.putGroup_memOnly (s : State) (g : GridAt) (plane line q : Nat) (panel : Word) (es : List Elem) :
    MemOnly s (s.putGroup g plane line q panel es) :=
  (State.writePhys_memOnly s (g.entry plane line q) _).trans (State.writePhys_memOnly _ (g.elems plane line q) _)

theorem State.putPadding_memOnly (s : State) (g : GridAt) (plane : Nat) : MemOnly s (s.putPadding g plane) :=
  MemOnly.foldl (fun s _ => MemOnly.foldl (fun s _ => State.writePhys_memOnly s _ _) _ s) _ s

/-- A plane of a grid or downlink ring: memory alone (R248, R286). -/
theorem State.putPlane_memOnly (s : State) (g : GridAt) (id : Word) (prbs plane : Nat) (panel : Word) (lines : List (List CV)) :
    MemOnly s (s.putPlane g id prbs plane panel lines) :=
  (((State.writePhys_memOnly s _ _).trans (State.writePhys_memOnly _ _ _)).trans (State.putPadding_memOnly _ g plane)).trans
    (MemOnly.foldl (fun s _ => MemOnly.foldl (fun s _ => State.putGroup_memOnly s ..) _ s) _ _)

theorem State.writeTx_memOnly (s : State) (k : CarrierId) (sym : Nat) : MemOnly s (s.writeTx k sym) := State.putPlane_memOnly ..

/-- The capture rings' bytes in DDR5 (R363): memory alone. -/
theorem State.storeRings_memOnly (s : State) (k : CarrierId) (old : Carrier) : MemOnly s (s.storeRings k old) := by
  have put : ∀ (u : State) (a n : Nat) (b : List Byte) (l : List (Nat × List Byte)),
      MemOnly u (l.foldl (fun (s : State) q => s.writePhys (a + 64 + 6528 * (q.1 % n)) q.2) (u.writePhys a b)) := fun u a n b l =>
    (State.writePhys_memOnly u a b).trans (MemOnly.foldl (fun s q => State.writePhys_memOnly s _ q.2) l _)
  have pick : ∀ (p : Prop) [Decidable p] (u v : State), MemOnly u v → MemOnly u (if p then u else v) := fun p _ u v h => by
    split
    · exact MemOnly.refl u
    · exact h
  exact (pick _ s _ (put ..)).trans (pick _ _ _ (put ..))

end Sys2Proof.Machine
end

