-- ==== Sys2Proof/Laws/State.lean ====
section
/-!
SUPPORT. One lemma per field and update: what each named update of the state leaves as it was, and what reading back what it wrote gives.
-/
namespace Sys2Proof.Machine

variable (s : State)

@[simp] theorem State.setCore_pending (c : CoreId) (k : Core) : (s.setCore c k).pending = s.pending := rfl
@[simp] theorem State.setCore_freeCtr (c : CoreId) (k : Core) : (s.setCore c k).freeCtr = s.freeCtr := rfl
@[simp] theorem State.setCore_mem (c : CoreId) (k : Core) : (s.setCore c k).mem = s.mem := rfl
@[simp] theorem State.setCore_part (c : CoreId) (k : Core) : (s.setCore c k).part = s.part := rfl
@[simp] theorem State.setCore_clusters (c : CoreId) (k : Core) : (s.setCore c k).clusters = s.clusters := rfl
@[simp] theorem State.setCore_slots (c : CoreId) (k : Core) : (s.setCore c k).slots = s.slots := rfl
@[simp] theorem State.setCore_dies (c : CoreId) (k : Core) : (s.setCore c k).dies = s.dies := rfl
@[simp] theorem State.setCore_jobs (c : CoreId) (k : Core) : (s.setCore c k).jobs = s.jobs := rfl
@[simp] theorem State.setCore_nextJob (c : CoreId) (k : Core) : (s.setCore c k).nextJob = s.nextJob := rfl
@[simp] theorem State.setCore_carriers (c : CoreId) (k : Core) : (s.setCore c k).carriers = s.carriers := rfl
@[simp] theorem State.setCore_models (c : CoreId) (k : Core) : (s.setCore c k).models = s.models := rfl
@[simp] theorem State.setCore_nextMod (c : CoreId) (k : Core) : (s.setCore c k).nextMod = s.nextMod := rfl
@[simp] theorem State.setCore_dfe (c : CoreId) (k : Core) : (s.setCore c k).dfe = s.dfe := rfl
@[simp] theorem State.setCore_dsps (c : CoreId) (k : Core) : (s.setCore c k).dsps = s.dsps := rfl
@[simp] theorem State.setCore_kernels (c : CoreId) (k : Core) : (s.setCore c k).kernels = s.kernels := rfl
@[simp] theorem State.setCore_nextKern (c : CoreId) (k : Core) : (s.setCore c k).nextKern = s.nextKern := rfl
@[simp] theorem State.setCore_seqs (c : CoreId) (k : Core) : (s.setCore c k).seqs = s.seqs := rfl
@[simp] theorem State.setCore_events (c : CoreId) (k : Core) : (s.setCore c k).events = s.events := rfl
@[simp] theorem State.setCore_host (c : CoreId) (k : Core) : (s.setCore c k).host = s.host := rfl
@[simp] theorem State.setCore_time (c : CoreId) (k : Core) : (s.setCore c k).time = s.time := rfl
@[simp] theorem State.setCore_trail (c : CoreId) (k : Core) : (s.setCore c k).trail = s.trail := rfl
@[simp] theorem State.setCore_twin (c : CoreId) (k : Core) : (s.setCore c k).twin = s.twin := rfl
@[simp] theorem State.setCore_power (c : CoreId) (k : Core) : (s.setCore c k).power = s.power := rfl
@[simp] theorem State.setCore_lantern (c : CoreId) (k : Core) : (s.setCore c k).lantern = s.lantern := rfl
@[simp] theorem State.setCore_security (c : CoreId) (k : Core) : (s.setCore c k).security = s.security := rfl
@[simp] theorem State.setCore_boot (c : CoreId) (k : Core) : (s.setCore c k).boot = s.boot := rfl
@[simp] theorem State.setCore_pins (c : CoreId) (k : Core) : (s.setCore c k).pins = s.pins := rfl
@[simp] theorem State.setCore_health (c : CoreId) (k : Core) : (s.setCore c k).health = s.health := rfl

@[simp] theorem State.modCore_pending (c : CoreId) (f : Core → Core) : (s.modCore c f).pending = s.pending := rfl
@[simp] theorem State.modCore_freeCtr (c : CoreId) (f : Core → Core) : (s.modCore c f).freeCtr = s.freeCtr := rfl
@[simp] theorem State.modCore_mem (c : CoreId) (f : Core → Core) : (s.modCore c f).mem = s.mem := rfl
@[simp] theorem State.modCore_part (c : CoreId) (f : Core → Core) : (s.modCore c f).part = s.part := rfl
@[simp] theorem State.modCore_clusters (c : CoreId) (f : Core → Core) : (s.modCore c f).clusters = s.clusters := rfl
@[simp] theorem State.modCore_slots (c : CoreId) (f : Core → Core) : (s.modCore c f).slots = s.slots := rfl
@[simp] theorem State.modCore_dies (c : CoreId) (f : Core → Core) : (s.modCore c f).dies = s.dies := rfl
@[simp] theorem State.modCore_jobs (c : CoreId) (f : Core → Core) : (s.modCore c f).jobs = s.jobs := rfl
@[simp] theorem State.modCore_nextJob (c : CoreId) (f : Core → Core) : (s.modCore c f).nextJob = s.nextJob := rfl
@[simp] theorem State.modCore_carriers (c : CoreId) (f : Core → Core) : (s.modCore c f).carriers = s.carriers := rfl
@[simp] theorem State.modCore_models (c : CoreId) (f : Core → Core) : (s.modCore c f).models = s.models := rfl
@[simp] theorem State.modCore_nextMod (c : CoreId) (f : Core → Core) : (s.modCore c f).nextMod = s.nextMod := rfl
@[simp] theorem State.modCore_dfe (c : CoreId) (f : Core → Core) : (s.modCore c f).dfe = s.dfe := rfl
@[simp] theorem State.modCore_dsps (c : CoreId) (f : Core → Core) : (s.modCore c f).dsps = s.dsps := rfl
@[simp] theorem State.modCore_kernels (c : CoreId) (f : Core → Core) : (s.modCore c f).kernels = s.kernels := rfl
@[simp] theorem State.modCore_nextKern (c : CoreId) (f : Core → Core) : (s.modCore c f).nextKern = s.nextKern := rfl
@[simp] theorem State.modCore_seqs (c : CoreId) (f : Core → Core) : (s.modCore c f).seqs = s.seqs := rfl
@[simp] theorem State.modCore_events (c : CoreId) (f : Core → Core) : (s.modCore c f).events = s.events := rfl
@[simp] theorem State.modCore_host (c : CoreId) (f : Core → Core) : (s.modCore c f).host = s.host := rfl
@[simp] theorem State.modCore_time (c : CoreId) (f : Core → Core) : (s.modCore c f).time = s.time := rfl
@[simp] theorem State.modCore_trail (c : CoreId) (f : Core → Core) : (s.modCore c f).trail = s.trail := rfl
@[simp] theorem State.modCore_twin (c : CoreId) (f : Core → Core) : (s.modCore c f).twin = s.twin := rfl
@[simp] theorem State.modCore_power (c : CoreId) (f : Core → Core) : (s.modCore c f).power = s.power := rfl
@[simp] theorem State.modCore_lantern (c : CoreId) (f : Core → Core) : (s.modCore c f).lantern = s.lantern := rfl
@[simp] theorem State.modCore_security (c : CoreId) (f : Core → Core) : (s.modCore c f).security = s.security := rfl
@[simp] theorem State.modCore_boot (c : CoreId) (f : Core → Core) : (s.modCore c f).boot = s.boot := rfl
@[simp] theorem State.modCore_pins (c : CoreId) (f : Core → Core) : (s.modCore c f).pins = s.pins := rfl
@[simp] theorem State.modCore_health (c : CoreId) (f : Core → Core) : (s.modCore c f).health = s.health := rfl

@[simp] theorem State.setCtx_pending (c : CoreId) (x : Ctx) : (s.setCtx c x).pending = s.pending := rfl
@[simp] theorem State.setCtx_freeCtr (c : CoreId) (x : Ctx) : (s.setCtx c x).freeCtr = s.freeCtr := rfl
@[simp] theorem State.setCtx_mem (c : CoreId) (x : Ctx) : (s.setCtx c x).mem = s.mem := rfl
@[simp] theorem State.setCtx_part (c : CoreId) (x : Ctx) : (s.setCtx c x).part = s.part := rfl
@[simp] theorem State.setCtx_clusters (c : CoreId) (x : Ctx) : (s.setCtx c x).clusters = s.clusters := rfl
@[simp] theorem State.setCtx_slots (c : CoreId) (x : Ctx) : (s.setCtx c x).slots = s.slots := rfl
@[simp] theorem State.setCtx_dies (c : CoreId) (x : Ctx) : (s.setCtx c x).dies = s.dies := rfl
@[simp] theorem State.setCtx_jobs (c : CoreId) (x : Ctx) : (s.setCtx c x).jobs = s.jobs := rfl
@[simp] theorem State.setCtx_nextJob (c : CoreId) (x : Ctx) : (s.setCtx c x).nextJob = s.nextJob := rfl
@[simp] theorem State.setCtx_carriers (c : CoreId) (x : Ctx) : (s.setCtx c x).carriers = s.carriers := rfl
@[simp] theorem State.setCtx_models (c : CoreId) (x : Ctx) : (s.setCtx c x).models = s.models := rfl
@[simp] theorem State.setCtx_nextMod (c : CoreId) (x : Ctx) : (s.setCtx c x).nextMod = s.nextMod := rfl
@[simp] theorem State.setCtx_dfe (c : CoreId) (x : Ctx) : (s.setCtx c x).dfe = s.dfe := rfl
@[simp] theorem State.setCtx_dsps (c : CoreId) (x : Ctx) : (s.setCtx c x).dsps = s.dsps := rfl
@[simp] theorem State.setCtx_kernels (c : CoreId) (x : Ctx) : (s.setCtx c x).kernels = s.kernels := rfl
@[simp] theorem State.setCtx_nextKern (c : CoreId) (x : Ctx) : (s.setCtx c x).nextKern = s.nextKern := rfl
@[simp] theorem State.setCtx_seqs (c : CoreId) (x : Ctx) : (s.setCtx c x).seqs = s.seqs := rfl
@[simp] theorem State.setCtx_events (c : CoreId) (x : Ctx) : (s.setCtx c x).events = s.events := rfl
@[simp] theorem State.setCtx_host (c : CoreId) (x : Ctx) : (s.setCtx c x).host = s.host := rfl
@[simp] theorem State.setCtx_time (c : CoreId) (x : Ctx) : (s.setCtx c x).time = s.time := rfl
@[simp] theorem State.setCtx_trail (c : CoreId) (x : Ctx) : (s.setCtx c x).trail = s.trail := rfl
@[simp] theorem State.setCtx_twin (c : CoreId) (x : Ctx) : (s.setCtx c x).twin = s.twin := rfl
@[simp] theorem State.setCtx_power (c : CoreId) (x : Ctx) : (s.setCtx c x).power = s.power := rfl
@[simp] theorem State.setCtx_lantern (c : CoreId) (x : Ctx) : (s.setCtx c x).lantern = s.lantern := rfl
@[simp] theorem State.setCtx_security (c : CoreId) (x : Ctx) : (s.setCtx c x).security = s.security := rfl
@[simp] theorem State.setCtx_boot (c : CoreId) (x : Ctx) : (s.setCtx c x).boot = s.boot := rfl
@[simp] theorem State.setCtx_pins (c : CoreId) (x : Ctx) : (s.setCtx c x).pins = s.pins := rfl
@[simp] theorem State.setCtx_health (c : CoreId) (x : Ctx) : (s.setCtx c x).health = s.health := rfl

@[simp] theorem State.modCtx_pending (c : CoreId) (f : Ctx → Ctx) : (s.modCtx c f).pending = s.pending := rfl
@[simp] theorem State.modCtx_freeCtr (c : CoreId) (f : Ctx → Ctx) : (s.modCtx c f).freeCtr = s.freeCtr := rfl
@[simp] theorem State.modCtx_mem (c : CoreId) (f : Ctx → Ctx) : (s.modCtx c f).mem = s.mem := rfl
@[simp] theorem State.modCtx_part (c : CoreId) (f : Ctx → Ctx) : (s.modCtx c f).part = s.part := rfl
@[simp] theorem State.modCtx_clusters (c : CoreId) (f : Ctx → Ctx) : (s.modCtx c f).clusters = s.clusters := rfl
@[simp] theorem State.modCtx_slots (c : CoreId) (f : Ctx → Ctx) : (s.modCtx c f).slots = s.slots := rfl
@[simp] theorem State.modCtx_dies (c : CoreId) (f : Ctx → Ctx) : (s.modCtx c f).dies = s.dies := rfl
@[simp] theorem State.modCtx_jobs (c : CoreId) (f : Ctx → Ctx) : (s.modCtx c f).jobs = s.jobs := rfl
@[simp] theorem State.modCtx_nextJob (c : CoreId) (f : Ctx → Ctx) : (s.modCtx c f).nextJob = s.nextJob := rfl
@[simp] theorem State.modCtx_carriers (c : CoreId) (f : Ctx → Ctx) : (s.modCtx c f).carriers = s.carriers := rfl
@[simp] theorem State.modCtx_models (c : CoreId) (f : Ctx → Ctx) : (s.modCtx c f).models = s.models := rfl
@[simp] theorem State.modCtx_nextMod (c : CoreId) (f : Ctx → Ctx) : (s.modCtx c f).nextMod = s.nextMod := rfl
@[simp] theorem State.modCtx_dfe (c : CoreId) (f : Ctx → Ctx) : (s.modCtx c f).dfe = s.dfe := rfl
@[simp] theorem State.modCtx_dsps (c : CoreId) (f : Ctx → Ctx) : (s.modCtx c f).dsps = s.dsps := rfl
@[simp] theorem State.modCtx_kernels (c : CoreId) (f : Ctx → Ctx) : (s.modCtx c f).kernels = s.kernels := rfl
@[simp] theorem State.modCtx_nextKern (c : CoreId) (f : Ctx → Ctx) : (s.modCtx c f).nextKern = s.nextKern := rfl
@[simp] theorem State.modCtx_seqs (c : CoreId) (f : Ctx → Ctx) : (s.modCtx c f).seqs = s.seqs := rfl
@[simp] theorem State.modCtx_events (c : CoreId) (f : Ctx → Ctx) : (s.modCtx c f).events = s.events := rfl
@[simp] theorem State.modCtx_host (c : CoreId) (f : Ctx → Ctx) : (s.modCtx c f).host = s.host := rfl
@[simp] theorem State.modCtx_time (c : CoreId) (f : Ctx → Ctx) : (s.modCtx c f).time = s.time := rfl
@[simp] theorem State.modCtx_trail (c : CoreId) (f : Ctx → Ctx) : (s.modCtx c f).trail = s.trail := rfl
@[simp] theorem State.modCtx_twin (c : CoreId) (f : Ctx → Ctx) : (s.modCtx c f).twin = s.twin := rfl
@[simp] theorem State.modCtx_power (c : CoreId) (f : Ctx → Ctx) : (s.modCtx c f).power = s.power := rfl
@[simp] theorem State.modCtx_lantern (c : CoreId) (f : Ctx → Ctx) : (s.modCtx c f).lantern = s.lantern := rfl
@[simp] theorem State.modCtx_security (c : CoreId) (f : Ctx → Ctx) : (s.modCtx c f).security = s.security := rfl
@[simp] theorem State.modCtx_boot (c : CoreId) (f : Ctx → Ctx) : (s.modCtx c f).boot = s.boot := rfl
@[simp] theorem State.modCtx_pins (c : CoreId) (f : Ctx → Ctx) : (s.modCtx c f).pins = s.pins := rfl
@[simp] theorem State.modCtx_health (c : CoreId) (f : Ctx → Ctx) : (s.modCtx c f).health = s.health := rfl

@[simp] theorem State.modJob_pending (i : Word) (f : Job → Job) : (s.modJob i f).pending = s.pending := rfl
@[simp] theorem State.modJob_freeCtr (i : Word) (f : Job → Job) : (s.modJob i f).freeCtr = s.freeCtr := rfl
@[simp] theorem State.modJob_mem (i : Word) (f : Job → Job) : (s.modJob i f).mem = s.mem := rfl
@[simp] theorem State.modJob_part (i : Word) (f : Job → Job) : (s.modJob i f).part = s.part := rfl
@[simp] theorem State.modJob_clusters (i : Word) (f : Job → Job) : (s.modJob i f).clusters = s.clusters := rfl
@[simp] theorem State.modJob_slots (i : Word) (f : Job → Job) : (s.modJob i f).slots = s.slots := rfl
@[simp] theorem State.modJob_dies (i : Word) (f : Job → Job) : (s.modJob i f).dies = s.dies := rfl
@[simp] theorem State.modJob_cores (i : Word) (f : Job → Job) : (s.modJob i f).cores = s.cores := rfl
@[simp] theorem State.modJob_nextJob (i : Word) (f : Job → Job) : (s.modJob i f).nextJob = s.nextJob := rfl
@[simp] theorem State.modJob_carriers (i : Word) (f : Job → Job) : (s.modJob i f).carriers = s.carriers := rfl
@[simp] theorem State.modJob_models (i : Word) (f : Job → Job) : (s.modJob i f).models = s.models := rfl
@[simp] theorem State.modJob_nextMod (i : Word) (f : Job → Job) : (s.modJob i f).nextMod = s.nextMod := rfl
@[simp] theorem State.modJob_dfe (i : Word) (f : Job → Job) : (s.modJob i f).dfe = s.dfe := rfl
@[simp] theorem State.modJob_dsps (i : Word) (f : Job → Job) : (s.modJob i f).dsps = s.dsps := rfl
@[simp] theorem State.modJob_kernels (i : Word) (f : Job → Job) : (s.modJob i f).kernels = s.kernels := rfl
@[simp] theorem State.modJob_nextKern (i : Word) (f : Job → Job) : (s.modJob i f).nextKern = s.nextKern := rfl
@[simp] theorem State.modJob_seqs (i : Word) (f : Job → Job) : (s.modJob i f).seqs = s.seqs := rfl
@[simp] theorem State.modJob_events (i : Word) (f : Job → Job) : (s.modJob i f).events = s.events := rfl
@[simp] theorem State.modJob_host (i : Word) (f : Job → Job) : (s.modJob i f).host = s.host := rfl
@[simp] theorem State.modJob_time (i : Word) (f : Job → Job) : (s.modJob i f).time = s.time := rfl
@[simp] theorem State.modJob_trail (i : Word) (f : Job → Job) : (s.modJob i f).trail = s.trail := rfl
@[simp] theorem State.modJob_twin (i : Word) (f : Job → Job) : (s.modJob i f).twin = s.twin := rfl
@[simp] theorem State.modJob_power (i : Word) (f : Job → Job) : (s.modJob i f).power = s.power := rfl
@[simp] theorem State.modJob_lantern (i : Word) (f : Job → Job) : (s.modJob i f).lantern = s.lantern := rfl
@[simp] theorem State.modJob_security (i : Word) (f : Job → Job) : (s.modJob i f).security = s.security := rfl
@[simp] theorem State.modJob_boot (i : Word) (f : Job → Job) : (s.modJob i f).boot = s.boot := rfl
@[simp] theorem State.modJob_pins (i : Word) (f : Job → Job) : (s.modJob i f).pins = s.pins := rfl
@[simp] theorem State.modJob_health (i : Word) (f : Job → Job) : (s.modJob i f).health = s.health := rfl

@[simp] theorem State.setCarrier_pending (k : CarrierId) (x : Carrier) : (s.setCarrier k x).pending = s.pending := rfl
@[simp] theorem State.setCarrier_freeCtr (k : CarrierId) (x : Carrier) : (s.setCarrier k x).freeCtr = s.freeCtr := rfl
@[simp] theorem State.setCarrier_mem (k : CarrierId) (x : Carrier) : (s.setCarrier k x).mem = s.mem := rfl
@[simp] theorem State.setCarrier_part (k : CarrierId) (x : Carrier) : (s.setCarrier k x).part = s.part := rfl
@[simp] theorem State.setCarrier_clusters (k : CarrierId) (x : Carrier) : (s.setCarrier k x).clusters = s.clusters := rfl
@[simp] theorem State.setCarrier_slots (k : CarrierId) (x : Carrier) : (s.setCarrier k x).slots = s.slots := rfl
@[simp] theorem State.setCarrier_dies (k : CarrierId) (x : Carrier) : (s.setCarrier k x).dies = s.dies := rfl
@[simp] theorem State.setCarrier_cores (k : CarrierId) (x : Carrier) : (s.setCarrier k x).cores = s.cores := rfl
@[simp] theorem State.setCarrier_jobs (k : CarrierId) (x : Carrier) : (s.setCarrier k x).jobs = s.jobs := rfl
@[simp] theorem State.setCarrier_nextJob (k : CarrierId) (x : Carrier) : (s.setCarrier k x).nextJob = s.nextJob := rfl
@[simp] theorem State.setCarrier_models (k : CarrierId) (x : Carrier) : (s.setCarrier k x).models = s.models := rfl
@[simp] theorem State.setCarrier_nextMod (k : CarrierId) (x : Carrier) : (s.setCarrier k x).nextMod = s.nextMod := rfl
@[simp] theorem State.setCarrier_dfe (k : CarrierId) (x : Carrier) : (s.setCarrier k x).dfe = s.dfe := rfl
@[simp] theorem State.setCarrier_dsps (k : CarrierId) (x : Carrier) : (s.setCarrier k x).dsps = s.dsps := rfl
@[simp] theorem State.setCarrier_kernels (k : CarrierId) (x : Carrier) : (s.setCarrier k x).kernels = s.kernels := rfl
@[simp] theorem State.setCarrier_nextKern (k : CarrierId) (x : Carrier) : (s.setCarrier k x).nextKern = s.nextKern := rfl
@[simp] theorem State.setCarrier_seqs (k : CarrierId) (x : Carrier) : (s.setCarrier k x).seqs = s.seqs := rfl
@[simp] theorem State.setCarrier_events (k : CarrierId) (x : Carrier) : (s.setCarrier k x).events = s.events := rfl
@[simp] theorem State.setCarrier_host (k : CarrierId) (x : Carrier) : (s.setCarrier k x).host = s.host := rfl
@[simp] theorem State.setCarrier_time (k : CarrierId) (x : Carrier) : (s.setCarrier k x).time = s.time := rfl
@[simp] theorem State.setCarrier_trail (k : CarrierId) (x : Carrier) : (s.setCarrier k x).trail = s.trail := rfl
@[simp] theorem State.setCarrier_twin (k : CarrierId) (x : Carrier) : (s.setCarrier k x).twin = s.twin := rfl
@[simp] theorem State.setCarrier_power (k : CarrierId) (x : Carrier) : (s.setCarrier k x).power = s.power := rfl
@[simp] theorem State.setCarrier_lantern (k : CarrierId) (x : Carrier) : (s.setCarrier k x).lantern = s.lantern := rfl
@[simp] theorem State.setCarrier_security (k : CarrierId) (x : Carrier) : (s.setCarrier k x).security = s.security := rfl
@[simp] theorem State.setCarrier_boot (k : CarrierId) (x : Carrier) : (s.setCarrier k x).boot = s.boot := rfl
@[simp] theorem State.setCarrier_pins (k : CarrierId) (x : Carrier) : (s.setCarrier k x).pins = s.pins := rfl
@[simp] theorem State.setCarrier_health (k : CarrierId) (x : Carrier) : (s.setCarrier k x).health = s.health := rfl

@[simp] theorem State.modCarrier_pending (k : CarrierId) (f : Carrier → Carrier) : (s.modCarrier k f).pending = s.pending := rfl
@[simp] theorem State.modCarrier_freeCtr (k : CarrierId) (f : Carrier → Carrier) : (s.modCarrier k f).freeCtr = s.freeCtr := rfl
@[simp] theorem State.modCarrier_mem (k : CarrierId) (f : Carrier → Carrier) : (s.modCarrier k f).mem = s.mem := rfl
@[simp] theorem State.modCarrier_part (k : CarrierId) (f : Carrier → Carrier) : (s.modCarrier k f).part = s.part := rfl
@[simp] theorem State.modCarrier_clusters (k : CarrierId) (f : Carrier → Carrier) : (s.modCarrier k f).clusters = s.clusters := rfl
@[simp] theorem State.modCarrier_slots (k : CarrierId) (f : Carrier → Carrier) : (s.modCarrier k f).slots = s.slots := rfl
@[simp] theorem State.modCarrier_dies (k : CarrierId) (f : Carrier → Carrier) : (s.modCarrier k f).dies = s.dies := rfl
@[simp] theorem State.modCarrier_cores (k : CarrierId) (f : Carrier → Carrier) : (s.modCarrier k f).cores = s.cores := rfl
@[simp] theorem State.modCarrier_jobs (k : CarrierId) (f : Carrier → Carrier) : (s.modCarrier k f).jobs = s.jobs := rfl
@[simp] theorem State.modCarrier_nextJob (k : CarrierId) (f : Carrier → Carrier) : (s.modCarrier k f).nextJob = s.nextJob := rfl
@[simp] theorem State.modCarrier_models (k : CarrierId) (f : Carrier → Carrier) : (s.modCarrier k f).models = s.models := rfl
@[simp] theorem State.modCarrier_nextMod (k : CarrierId) (f : Carrier → Carrier) : (s.modCarrier k f).nextMod = s.nextMod := rfl
@[simp] theorem State.modCarrier_dfe (k : CarrierId) (f : Carrier → Carrier) : (s.modCarrier k f).dfe = s.dfe := rfl
@[simp] theorem State.modCarrier_dsps (k : CarrierId) (f : Carrier → Carrier) : (s.modCarrier k f).dsps = s.dsps := rfl
@[simp] theorem State.modCarrier_kernels (k : CarrierId) (f : Carrier → Carrier) : (s.modCarrier k f).kernels = s.kernels := rfl
@[simp] theorem State.modCarrier_nextKern (k : CarrierId) (f : Carrier → Carrier) : (s.modCarrier k f).nextKern = s.nextKern := rfl
@[simp] theorem State.modCarrier_seqs (k : CarrierId) (f : Carrier → Carrier) : (s.modCarrier k f).seqs = s.seqs := rfl
@[simp] theorem State.modCarrier_events (k : CarrierId) (f : Carrier → Carrier) : (s.modCarrier k f).events = s.events := rfl
@[simp] theorem State.modCarrier_host (k : CarrierId) (f : Carrier → Carrier) : (s.modCarrier k f).host = s.host := rfl
@[simp] theorem State.modCarrier_time (k : CarrierId) (f : Carrier → Carrier) : (s.modCarrier k f).time = s.time := rfl
@[simp] theorem State.modCarrier_trail (k : CarrierId) (f : Carrier → Carrier) : (s.modCarrier k f).trail = s.trail := rfl
@[simp] theorem State.modCarrier_twin (k : CarrierId) (f : Carrier → Carrier) : (s.modCarrier k f).twin = s.twin := rfl
@[simp] theorem State.modCarrier_power (k : CarrierId) (f : Carrier → Carrier) : (s.modCarrier k f).power = s.power := rfl
@[simp] theorem State.modCarrier_lantern (k : CarrierId) (f : Carrier → Carrier) : (s.modCarrier k f).lantern = s.lantern := rfl
@[simp] theorem State.modCarrier_security (k : CarrierId) (f : Carrier → Carrier) : (s.modCarrier k f).security = s.security := rfl
@[simp] theorem State.modCarrier_boot (k : CarrierId) (f : Carrier → Carrier) : (s.modCarrier k f).boot = s.boot := rfl
@[simp] theorem State.modCarrier_pins (k : CarrierId) (f : Carrier → Carrier) : (s.modCarrier k f).pins = s.pins := rfl
@[simp] theorem State.modCarrier_health (k : CarrierId) (f : Carrier → Carrier) : (s.modCarrier k f).health = s.health := rfl

@[simp] theorem State.modSlot_pending (i : SlotId) (f : SlotRec → SlotRec) : (s.modSlot i f).pending = s.pending := rfl
@[simp] theorem State.modSlot_freeCtr (i : SlotId) (f : SlotRec → SlotRec) : (s.modSlot i f).freeCtr = s.freeCtr := rfl
@[simp] theorem State.modSlot_mem (i : SlotId) (f : SlotRec → SlotRec) : (s.modSlot i f).mem = s.mem := rfl
@[simp] theorem State.modSlot_part (i : SlotId) (f : SlotRec → SlotRec) : (s.modSlot i f).part = s.part := rfl
@[simp] theorem State.modSlot_clusters (i : SlotId) (f : SlotRec → SlotRec) : (s.modSlot i f).clusters = s.clusters := rfl
@[simp] theorem State.modSlot_dies (i : SlotId) (f : SlotRec → SlotRec) : (s.modSlot i f).dies = s.dies := rfl
@[simp] theorem State.modSlot_cores (i : SlotId) (f : SlotRec → SlotRec) : (s.modSlot i f).cores = s.cores := rfl
@[simp] theorem State.modSlot_jobs (i : SlotId) (f : SlotRec → SlotRec) : (s.modSlot i f).jobs = s.jobs := rfl
@[simp] theorem State.modSlot_nextJob (i : SlotId) (f : SlotRec → SlotRec) : (s.modSlot i f).nextJob = s.nextJob := rfl
@[simp] theorem State.modSlot_carriers (i : SlotId) (f : SlotRec → SlotRec) : (s.modSlot i f).carriers = s.carriers := rfl
@[simp] theorem State.modSlot_models (i : SlotId) (f : SlotRec → SlotRec) : (s.modSlot i f).models = s.models := rfl
@[simp] theorem State.modSlot_nextMod (i : SlotId) (f : SlotRec → SlotRec) : (s.modSlot i f).nextMod = s.nextMod := rfl
@[simp] theorem State.modSlot_dfe (i : SlotId) (f : SlotRec → SlotRec) : (s.modSlot i f).dfe = s.dfe := rfl
@[simp] theorem State.modSlot_dsps (i : SlotId) (f : SlotRec → SlotRec) : (s.modSlot i f).dsps = s.dsps := rfl
@[simp] theorem State.modSlot_kernels (i : SlotId) (f : SlotRec → SlotRec) : (s.modSlot i f).kernels = s.kernels := rfl
@[simp] theorem State.modSlot_nextKern (i : SlotId) (f : SlotRec → SlotRec) : (s.modSlot i f).nextKern = s.nextKern := rfl
@[simp] theorem State.modSlot_seqs (i : SlotId) (f : SlotRec → SlotRec) : (s.modSlot i f).seqs = s.seqs := rfl
@[simp] theorem State.modSlot_events (i : SlotId) (f : SlotRec → SlotRec) : (s.modSlot i f).events = s.events := rfl
@[simp] theorem State.modSlot_host (i : SlotId) (f : SlotRec → SlotRec) : (s.modSlot i f).host = s.host := rfl
@[simp] theorem State.modSlot_time (i : SlotId) (f : SlotRec → SlotRec) : (s.modSlot i f).time = s.time := rfl
@[simp] theorem State.modSlot_trail (i : SlotId) (f : SlotRec → SlotRec) : (s.modSlot i f).trail = s.trail := rfl
@[simp] theorem State.modSlot_twin (i : SlotId) (f : SlotRec → SlotRec) : (s.modSlot i f).twin = s.twin := rfl
@[simp] theorem State.modSlot_power (i : SlotId) (f : SlotRec → SlotRec) : (s.modSlot i f).power = s.power := rfl
@[simp] theorem State.modSlot_lantern (i : SlotId) (f : SlotRec → SlotRec) : (s.modSlot i f).lantern = s.lantern := rfl
@[simp] theorem State.modSlot_security (i : SlotId) (f : SlotRec → SlotRec) : (s.modSlot i f).security = s.security := rfl
@[simp] theorem State.modSlot_boot (i : SlotId) (f : SlotRec → SlotRec) : (s.modSlot i f).boot = s.boot := rfl
@[simp] theorem State.modSlot_pins (i : SlotId) (f : SlotRec → SlotRec) : (s.modSlot i f).pins = s.pins := rfl
@[simp] theorem State.modSlot_health (i : SlotId) (f : SlotRec → SlotRec) : (s.modSlot i f).health = s.health := rfl

@[simp] theorem State.modDfe_pending (f : Dfe → Dfe) : (s.modDfe f).pending = s.pending := rfl
@[simp] theorem State.modDfe_freeCtr (f : Dfe → Dfe) : (s.modDfe f).freeCtr = s.freeCtr := rfl
@[simp] theorem State.modDfe_mem (f : Dfe → Dfe) : (s.modDfe f).mem = s.mem := rfl
@[simp] theorem State.modDfe_part (f : Dfe → Dfe) : (s.modDfe f).part = s.part := rfl
@[simp] theorem State.modDfe_clusters (f : Dfe → Dfe) : (s.modDfe f).clusters = s.clusters := rfl
@[simp] theorem State.modDfe_slots (f : Dfe → Dfe) : (s.modDfe f).slots = s.slots := rfl
@[simp] theorem State.modDfe_dies (f : Dfe → Dfe) : (s.modDfe f).dies = s.dies := rfl
@[simp] theorem State.modDfe_cores (f : Dfe → Dfe) : (s.modDfe f).cores = s.cores := rfl
@[simp] theorem State.modDfe_jobs (f : Dfe → Dfe) : (s.modDfe f).jobs = s.jobs := rfl
@[simp] theorem State.modDfe_nextJob (f : Dfe → Dfe) : (s.modDfe f).nextJob = s.nextJob := rfl
@[simp] theorem State.modDfe_carriers (f : Dfe → Dfe) : (s.modDfe f).carriers = s.carriers := rfl
@[simp] theorem State.modDfe_models (f : Dfe → Dfe) : (s.modDfe f).models = s.models := rfl
@[simp] theorem State.modDfe_nextMod (f : Dfe → Dfe) : (s.modDfe f).nextMod = s.nextMod := rfl
@[simp] theorem State.modDfe_dsps (f : Dfe → Dfe) : (s.modDfe f).dsps = s.dsps := rfl
@[simp] theorem State.modDfe_kernels (f : Dfe → Dfe) : (s.modDfe f).kernels = s.kernels := rfl
@[simp] theorem State.modDfe_nextKern (f : Dfe → Dfe) : (s.modDfe f).nextKern = s.nextKern := rfl
@[simp] theorem State.modDfe_seqs (f : Dfe → Dfe) : (s.modDfe f).seqs = s.seqs := rfl
@[simp] theorem State.modDfe_events (f : Dfe → Dfe) : (s.modDfe f).events = s.events := rfl
@[simp] theorem State.modDfe_host (f : Dfe → Dfe) : (s.modDfe f).host = s.host := rfl
@[simp] theorem State.modDfe_time (f : Dfe → Dfe) : (s.modDfe f).time = s.time := rfl
@[simp] theorem State.modDfe_trail (f : Dfe → Dfe) : (s.modDfe f).trail = s.trail := rfl
@[simp] theorem State.modDfe_twin (f : Dfe → Dfe) : (s.modDfe f).twin = s.twin := rfl
@[simp] theorem State.modDfe_power (f : Dfe → Dfe) : (s.modDfe f).power = s.power := rfl
@[simp] theorem State.modDfe_lantern (f : Dfe → Dfe) : (s.modDfe f).lantern = s.lantern := rfl
@[simp] theorem State.modDfe_security (f : Dfe → Dfe) : (s.modDfe f).security = s.security := rfl
@[simp] theorem State.modDfe_boot (f : Dfe → Dfe) : (s.modDfe f).boot = s.boot := rfl
@[simp] theorem State.modDfe_pins (f : Dfe → Dfe) : (s.modDfe f).pins = s.pins := rfl
@[simp] theorem State.modDfe_health (f : Dfe → Dfe) : (s.modDfe f).health = s.health := rfl

@[simp] theorem State.setDsp_pending (d : DspId) (x : Dsp) : (s.setDsp d x).pending = s.pending := rfl
@[simp] theorem State.setDsp_freeCtr (d : DspId) (x : Dsp) : (s.setDsp d x).freeCtr = s.freeCtr := rfl
@[simp] theorem State.setDsp_mem (d : DspId) (x : Dsp) : (s.setDsp d x).mem = s.mem := rfl
@[simp] theorem State.setDsp_part (d : DspId) (x : Dsp) : (s.setDsp d x).part = s.part := rfl
@[simp] theorem State.setDsp_clusters (d : DspId) (x : Dsp) : (s.setDsp d x).clusters = s.clusters := rfl
@[simp] theorem State.setDsp_slots (d : DspId) (x : Dsp) : (s.setDsp d x).slots = s.slots := rfl
@[simp] theorem State.setDsp_dies (d : DspId) (x : Dsp) : (s.setDsp d x).dies = s.dies := rfl
@[simp] theorem State.setDsp_cores (d : DspId) (x : Dsp) : (s.setDsp d x).cores = s.cores := rfl
@[simp] theorem State.setDsp_jobs (d : DspId) (x : Dsp) : (s.setDsp d x).jobs = s.jobs := rfl
@[simp] theorem State.setDsp_nextJob (d : DspId) (x : Dsp) : (s.setDsp d x).nextJob = s.nextJob := rfl
@[simp] theorem State.setDsp_carriers (d : DspId) (x : Dsp) : (s.setDsp d x).carriers = s.carriers := rfl
@[simp] theorem State.setDsp_models (d : DspId) (x : Dsp) : (s.setDsp d x).models = s.models := rfl
@[simp] theorem State.setDsp_nextMod (d : DspId) (x : Dsp) : (s.setDsp d x).nextMod = s.nextMod := rfl
@[simp] theorem State.setDsp_dfe (d : DspId) (x : Dsp) : (s.setDsp d x).dfe = s.dfe := rfl
@[simp] theorem State.setDsp_kernels (d : DspId) (x : Dsp) : (s.setDsp d x).kernels = s.kernels := rfl
@[simp] theorem State.setDsp_nextKern (d : DspId) (x : Dsp) : (s.setDsp d x).nextKern = s.nextKern := rfl
@[simp] theorem State.setDsp_seqs (d : DspId) (x : Dsp) : (s.setDsp d x).seqs = s.seqs := rfl
@[simp] theorem State.setDsp_events (d : DspId) (x : Dsp) : (s.setDsp d x).events = s.events := rfl
@[simp] theorem State.setDsp_host (d : DspId) (x : Dsp) : (s.setDsp d x).host = s.host := rfl
@[simp] theorem State.setDsp_time (d : DspId) (x : Dsp) : (s.setDsp d x).time = s.time := rfl
@[simp] theorem State.setDsp_trail (d : DspId) (x : Dsp) : (s.setDsp d x).trail = s.trail := rfl
@[simp] theorem State.setDsp_twin (d : DspId) (x : Dsp) : (s.setDsp d x).twin = s.twin := rfl
@[simp] theorem State.setDsp_power (d : DspId) (x : Dsp) : (s.setDsp d x).power = s.power := rfl
@[simp] theorem State.setDsp_lantern (d : DspId) (x : Dsp) : (s.setDsp d x).lantern = s.lantern := rfl
@[simp] theorem State.setDsp_security (d : DspId) (x : Dsp) : (s.setDsp d x).security = s.security := rfl
@[simp] theorem State.setDsp_boot (d : DspId) (x : Dsp) : (s.setDsp d x).boot = s.boot := rfl
@[simp] theorem State.setDsp_pins (d : DspId) (x : Dsp) : (s.setDsp d x).pins = s.pins := rfl
@[simp] theorem State.setDsp_health (d : DspId) (x : Dsp) : (s.setDsp d x).health = s.health := rfl

@[simp] theorem State.modTime_pending (f : Timing → Timing) : (s.modTime f).pending = s.pending := rfl
@[simp] theorem State.modTime_freeCtr (f : Timing → Timing) : (s.modTime f).freeCtr = s.freeCtr := rfl
@[simp] theorem State.modTime_mem (f : Timing → Timing) : (s.modTime f).mem = s.mem := rfl
@[simp] theorem State.modTime_part (f : Timing → Timing) : (s.modTime f).part = s.part := rfl
@[simp] theorem State.modTime_clusters (f : Timing → Timing) : (s.modTime f).clusters = s.clusters := rfl
@[simp] theorem State.modTime_slots (f : Timing → Timing) : (s.modTime f).slots = s.slots := rfl
@[simp] theorem State.modTime_dies (f : Timing → Timing) : (s.modTime f).dies = s.dies := rfl
@[simp] theorem State.modTime_cores (f : Timing → Timing) : (s.modTime f).cores = s.cores := rfl
@[simp] theorem State.modTime_jobs (f : Timing → Timing) : (s.modTime f).jobs = s.jobs := rfl
@[simp] theorem State.modTime_nextJob (f : Timing → Timing) : (s.modTime f).nextJob = s.nextJob := rfl
@[simp] theorem State.modTime_carriers (f : Timing → Timing) : (s.modTime f).carriers = s.carriers := rfl
@[simp] theorem State.modTime_models (f : Timing → Timing) : (s.modTime f).models = s.models := rfl
@[simp] theorem State.modTime_nextMod (f : Timing → Timing) : (s.modTime f).nextMod = s.nextMod := rfl
@[simp] theorem State.modTime_dfe (f : Timing → Timing) : (s.modTime f).dfe = s.dfe := rfl
@[simp] theorem State.modTime_dsps (f : Timing → Timing) : (s.modTime f).dsps = s.dsps := rfl
@[simp] theorem State.modTime_kernels (f : Timing → Timing) : (s.modTime f).kernels = s.kernels := rfl
@[simp] theorem State.modTime_nextKern (f : Timing → Timing) : (s.modTime f).nextKern = s.nextKern := rfl
@[simp] theorem State.modTime_seqs (f : Timing → Timing) : (s.modTime f).seqs = s.seqs := rfl
@[simp] theorem State.modTime_events (f : Timing → Timing) : (s.modTime f).events = s.events := rfl
@[simp] theorem State.modTime_host (f : Timing → Timing) : (s.modTime f).host = s.host := rfl
@[simp] theorem State.modTime_trail (f : Timing → Timing) : (s.modTime f).trail = s.trail := rfl
@[simp] theorem State.modTime_twin (f : Timing → Timing) : (s.modTime f).twin = s.twin := rfl
@[simp] theorem State.modTime_power (f : Timing → Timing) : (s.modTime f).power = s.power := rfl
@[simp] theorem State.modTime_lantern (f : Timing → Timing) : (s.modTime f).lantern = s.lantern := rfl
@[simp] theorem State.modTime_security (f : Timing → Timing) : (s.modTime f).security = s.security := rfl
@[simp] theorem State.modTime_boot (f : Timing → Timing) : (s.modTime f).boot = s.boot := rfl
@[simp] theorem State.modTime_pins (f : Timing → Timing) : (s.modTime f).pins = s.pins := rfl
@[simp] theorem State.modTime_health (f : Timing → Timing) : (s.modTime f).health = s.health := rfl

@[simp] theorem State.setAlarm_pending (n : Fin 16) (a : Alarm) : (s.setAlarm n a).pending = s.pending := rfl
@[simp] theorem State.setAlarm_freeCtr (n : Fin 16) (a : Alarm) : (s.setAlarm n a).freeCtr = s.freeCtr := rfl
@[simp] theorem State.setAlarm_mem (n : Fin 16) (a : Alarm) : (s.setAlarm n a).mem = s.mem := rfl
@[simp] theorem State.setAlarm_part (n : Fin 16) (a : Alarm) : (s.setAlarm n a).part = s.part := rfl
@[simp] theorem State.setAlarm_clusters (n : Fin 16) (a : Alarm) : (s.setAlarm n a).clusters = s.clusters := rfl
@[simp] theorem State.setAlarm_slots (n : Fin 16) (a : Alarm) : (s.setAlarm n a).slots = s.slots := rfl
@[simp] theorem State.setAlarm_dies (n : Fin 16) (a : Alarm) : (s.setAlarm n a).dies = s.dies := rfl
@[simp] theorem State.setAlarm_cores (n : Fin 16) (a : Alarm) : (s.setAlarm n a).cores = s.cores := rfl
@[simp] theorem State.setAlarm_jobs (n : Fin 16) (a : Alarm) : (s.setAlarm n a).jobs = s.jobs := rfl
@[simp] theorem State.setAlarm_nextJob (n : Fin 16) (a : Alarm) : (s.setAlarm n a).nextJob = s.nextJob := rfl
@[simp] theorem State.setAlarm_carriers (n : Fin 16) (a : Alarm) : (s.setAlarm n a).carriers = s.carriers := rfl
@[simp] theorem State.setAlarm_models (n : Fin 16) (a : Alarm) : (s.setAlarm n a).models = s.models := rfl
@[simp] theorem State.setAlarm_nextMod (n : Fin 16) (a : Alarm) : (s.setAlarm n a).nextMod = s.nextMod := rfl
@[simp] theorem State.setAlarm_dfe (n : Fin 16) (a : Alarm) : (s.setAlarm n a).dfe = s.dfe := rfl
@[simp] theorem State.setAlarm_dsps (n : Fin 16) (a : Alarm) : (s.setAlarm n a).dsps = s.dsps := rfl
@[simp] theorem State.setAlarm_kernels (n : Fin 16) (a : Alarm) : (s.setAlarm n a).kernels = s.kernels := rfl
@[simp] theorem State.setAlarm_nextKern (n : Fin 16) (a : Alarm) : (s.setAlarm n a).nextKern = s.nextKern := rfl
@[simp] theorem State.setAlarm_seqs (n : Fin 16) (a : Alarm) : (s.setAlarm n a).seqs = s.seqs := rfl
@[simp] theorem State.setAlarm_events (n : Fin 16) (a : Alarm) : (s.setAlarm n a).events = s.events := rfl
@[simp] theorem State.setAlarm_host (n : Fin 16) (a : Alarm) : (s.setAlarm n a).host = s.host := rfl
@[simp] theorem State.setAlarm_trail (n : Fin 16) (a : Alarm) : (s.setAlarm n a).trail = s.trail := rfl
@[simp] theorem State.setAlarm_twin (n : Fin 16) (a : Alarm) : (s.setAlarm n a).twin = s.twin := rfl
@[simp] theorem State.setAlarm_power (n : Fin 16) (a : Alarm) : (s.setAlarm n a).power = s.power := rfl
@[simp] theorem State.setAlarm_lantern (n : Fin 16) (a : Alarm) : (s.setAlarm n a).lantern = s.lantern := rfl
@[simp] theorem State.setAlarm_security (n : Fin 16) (a : Alarm) : (s.setAlarm n a).security = s.security := rfl
@[simp] theorem State.setAlarm_boot (n : Fin 16) (a : Alarm) : (s.setAlarm n a).boot = s.boot := rfl
@[simp] theorem State.setAlarm_pins (n : Fin 16) (a : Alarm) : (s.setAlarm n a).pins = s.pins := rfl
@[simp] theorem State.setAlarm_health (n : Fin 16) (a : Alarm) : (s.setAlarm n a).health = s.health := rfl

@[simp] theorem State.modPower_pending (f : Power → Power) : (s.modPower f).pending = s.pending := rfl
@[simp] theorem State.modPower_freeCtr (f : Power → Power) : (s.modPower f).freeCtr = s.freeCtr := rfl
@[simp] theorem State.modPower_mem (f : Power → Power) : (s.modPower f).mem = s.mem := rfl
@[simp] theorem State.modPower_part (f : Power → Power) : (s.modPower f).part = s.part := rfl
@[simp] theorem State.modPower_clusters (f : Power → Power) : (s.modPower f).clusters = s.clusters := rfl
@[simp] theorem State.modPower_slots (f : Power → Power) : (s.modPower f).slots = s.slots := rfl
@[simp] theorem State.modPower_dies (f : Power → Power) : (s.modPower f).dies = s.dies := rfl
@[simp] theorem State.modPower_cores (f : Power → Power) : (s.modPower f).cores = s.cores := rfl
@[simp] theorem State.modPower_jobs (f : Power → Power) : (s.modPower f).jobs = s.jobs := rfl
@[simp] theorem State.modPower_nextJob (f : Power → Power) : (s.modPower f).nextJob = s.nextJob := rfl
@[simp] theorem State.modPower_carriers (f : Power → Power) : (s.modPower f).carriers = s.carriers := rfl
@[simp] theorem State.modPower_models (f : Power → Power) : (s.modPower f).models = s.models := rfl
@[simp] theorem State.modPower_nextMod (f : Power → Power) : (s.modPower f).nextMod = s.nextMod := rfl
@[simp] theorem State.modPower_dfe (f : Power → Power) : (s.modPower f).dfe = s.dfe := rfl
@[simp] theorem State.modPower_dsps (f : Power → Power) : (s.modPower f).dsps = s.dsps := rfl
@[simp] theorem State.modPower_kernels (f : Power → Power) : (s.modPower f).kernels = s.kernels := rfl
@[simp] theorem State.modPower_nextKern (f : Power → Power) : (s.modPower f).nextKern = s.nextKern := rfl
@[simp] theorem State.modPower_seqs (f : Power → Power) : (s.modPower f).seqs = s.seqs := rfl
@[simp] theorem State.modPower_events (f : Power → Power) : (s.modPower f).events = s.events := rfl
@[simp] theorem State.modPower_host (f : Power → Power) : (s.modPower f).host = s.host := rfl
@[simp] theorem State.modPower_time (f : Power → Power) : (s.modPower f).time = s.time := rfl
@[simp] theorem State.modPower_trail (f : Power → Power) : (s.modPower f).trail = s.trail := rfl
@[simp] theorem State.modPower_twin (f : Power → Power) : (s.modPower f).twin = s.twin := rfl
@[simp] theorem State.modPower_lantern (f : Power → Power) : (s.modPower f).lantern = s.lantern := rfl
@[simp] theorem State.modPower_security (f : Power → Power) : (s.modPower f).security = s.security := rfl
@[simp] theorem State.modPower_boot (f : Power → Power) : (s.modPower f).boot = s.boot := rfl
@[simp] theorem State.modPower_pins (f : Power → Power) : (s.modPower f).pins = s.pins := rfl
@[simp] theorem State.modPower_health (f : Power → Power) : (s.modPower f).health = s.health := rfl

@[simp] theorem State.modLantern_pending (f : Lantern → Lantern) : (s.modLantern f).pending = s.pending := rfl
@[simp] theorem State.modLantern_freeCtr (f : Lantern → Lantern) : (s.modLantern f).freeCtr = s.freeCtr := rfl
@[simp] theorem State.modLantern_mem (f : Lantern → Lantern) : (s.modLantern f).mem = s.mem := rfl
@[simp] theorem State.modLantern_part (f : Lantern → Lantern) : (s.modLantern f).part = s.part := rfl
@[simp] theorem State.modLantern_clusters (f : Lantern → Lantern) : (s.modLantern f).clusters = s.clusters := rfl
@[simp] theorem State.modLantern_slots (f : Lantern → Lantern) : (s.modLantern f).slots = s.slots := rfl
@[simp] theorem State.modLantern_dies (f : Lantern → Lantern) : (s.modLantern f).dies = s.dies := rfl
@[simp] theorem State.modLantern_cores (f : Lantern → Lantern) : (s.modLantern f).cores = s.cores := rfl
@[simp] theorem State.modLantern_jobs (f : Lantern → Lantern) : (s.modLantern f).jobs = s.jobs := rfl
@[simp] theorem State.modLantern_nextJob (f : Lantern → Lantern) : (s.modLantern f).nextJob = s.nextJob := rfl
@[simp] theorem State.modLantern_carriers (f : Lantern → Lantern) : (s.modLantern f).carriers = s.carriers := rfl
@[simp] theorem State.modLantern_models (f : Lantern → Lantern) : (s.modLantern f).models = s.models := rfl
@[simp] theorem State.modLantern_nextMod (f : Lantern → Lantern) : (s.modLantern f).nextMod = s.nextMod := rfl
@[simp] theorem State.modLantern_dfe (f : Lantern → Lantern) : (s.modLantern f).dfe = s.dfe := rfl
@[simp] theorem State.modLantern_dsps (f : Lantern → Lantern) : (s.modLantern f).dsps = s.dsps := rfl
@[simp] theorem State.modLantern_kernels (f : Lantern → Lantern) : (s.modLantern f).kernels = s.kernels := rfl
@[simp] theorem State.modLantern_nextKern (f : Lantern → Lantern) : (s.modLantern f).nextKern = s.nextKern := rfl
@[simp] theorem State.modLantern_seqs (f : Lantern → Lantern) : (s.modLantern f).seqs = s.seqs := rfl
@[simp] theorem State.modLantern_events (f : Lantern → Lantern) : (s.modLantern f).events = s.events := rfl
@[simp] theorem State.modLantern_host (f : Lantern → Lantern) : (s.modLantern f).host = s.host := rfl
@[simp] theorem State.modLantern_time (f : Lantern → Lantern) : (s.modLantern f).time = s.time := rfl
@[simp] theorem State.modLantern_trail (f : Lantern → Lantern) : (s.modLantern f).trail = s.trail := rfl
@[simp] theorem State.modLantern_twin (f : Lantern → Lantern) : (s.modLantern f).twin = s.twin := rfl
@[simp] theorem State.modLantern_power (f : Lantern → Lantern) : (s.modLantern f).power = s.power := rfl
@[simp] theorem State.modLantern_security (f : Lantern → Lantern) : (s.modLantern f).security = s.security := rfl
@[simp] theorem State.modLantern_boot (f : Lantern → Lantern) : (s.modLantern f).boot = s.boot := rfl
@[simp] theorem State.modLantern_pins (f : Lantern → Lantern) : (s.modLantern f).pins = s.pins := rfl
@[simp] theorem State.modLantern_health (f : Lantern → Lantern) : (s.modLantern f).health = s.health := rfl

@[simp] theorem State.modSec_pending (f : Security → Security) : (s.modSec f).pending = s.pending := rfl
@[simp] theorem State.modSec_freeCtr (f : Security → Security) : (s.modSec f).freeCtr = s.freeCtr := rfl
@[simp] theorem State.modSec_mem (f : Security → Security) : (s.modSec f).mem = s.mem := rfl
@[simp] theorem State.modSec_part (f : Security → Security) : (s.modSec f).part = s.part := rfl
@[simp] theorem State.modSec_clusters (f : Security → Security) : (s.modSec f).clusters = s.clusters := rfl
@[simp] theorem State.modSec_slots (f : Security → Security) : (s.modSec f).slots = s.slots := rfl
@[simp] theorem State.modSec_dies (f : Security → Security) : (s.modSec f).dies = s.dies := rfl
@[simp] theorem State.modSec_cores (f : Security → Security) : (s.modSec f).cores = s.cores := rfl
@[simp] theorem State.modSec_jobs (f : Security → Security) : (s.modSec f).jobs = s.jobs := rfl
@[simp] theorem State.modSec_nextJob (f : Security → Security) : (s.modSec f).nextJob = s.nextJob := rfl
@[simp] theorem State.modSec_carriers (f : Security → Security) : (s.modSec f).carriers = s.carriers := rfl
@[simp] theorem State.modSec_models (f : Security → Security) : (s.modSec f).models = s.models := rfl
@[simp] theorem State.modSec_nextMod (f : Security → Security) : (s.modSec f).nextMod = s.nextMod := rfl
@[simp] theorem State.modSec_dfe (f : Security → Security) : (s.modSec f).dfe = s.dfe := rfl
@[simp] theorem State.modSec_dsps (f : Security → Security) : (s.modSec f).dsps = s.dsps := rfl
@[simp] theorem State.modSec_kernels (f : Security → Security) : (s.modSec f).kernels = s.kernels := rfl
@[simp] theorem State.modSec_nextKern (f : Security → Security) : (s.modSec f).nextKern = s.nextKern := rfl
@[simp] theorem State.modSec_seqs (f : Security → Security) : (s.modSec f).seqs = s.seqs := rfl
@[simp] theorem State.modSec_events (f : Security → Security) : (s.modSec f).events = s.events := rfl
@[simp] theorem State.modSec_host (f : Security → Security) : (s.modSec f).host = s.host := rfl
@[simp] theorem State.modSec_time (f : Security → Security) : (s.modSec f).time = s.time := rfl
@[simp] theorem State.modSec_trail (f : Security → Security) : (s.modSec f).trail = s.trail := rfl
@[simp] theorem State.modSec_twin (f : Security → Security) : (s.modSec f).twin = s.twin := rfl
@[simp] theorem State.modSec_power (f : Security → Security) : (s.modSec f).power = s.power := rfl
@[simp] theorem State.modSec_lantern (f : Security → Security) : (s.modSec f).lantern = s.lantern := rfl
@[simp] theorem State.modSec_boot (f : Security → Security) : (s.modSec f).boot = s.boot := rfl
@[simp] theorem State.modSec_pins (f : Security → Security) : (s.modSec f).pins = s.pins := rfl
@[simp] theorem State.modSec_health (f : Security → Security) : (s.modSec f).health = s.health := rfl

@[simp] theorem State.modTrail_pending (f : Trail → Trail) : (s.modTrail f).pending = s.pending := rfl
@[simp] theorem State.modTrail_freeCtr (f : Trail → Trail) : (s.modTrail f).freeCtr = s.freeCtr := rfl
@[simp] theorem State.modTrail_mem (f : Trail → Trail) : (s.modTrail f).mem = s.mem := rfl
@[simp] theorem State.modTrail_part (f : Trail → Trail) : (s.modTrail f).part = s.part := rfl
@[simp] theorem State.modTrail_clusters (f : Trail → Trail) : (s.modTrail f).clusters = s.clusters := rfl
@[simp] theorem State.modTrail_slots (f : Trail → Trail) : (s.modTrail f).slots = s.slots := rfl
@[simp] theorem State.modTrail_dies (f : Trail → Trail) : (s.modTrail f).dies = s.dies := rfl
@[simp] theorem State.modTrail_cores (f : Trail → Trail) : (s.modTrail f).cores = s.cores := rfl
@[simp] theorem State.modTrail_jobs (f : Trail → Trail) : (s.modTrail f).jobs = s.jobs := rfl
@[simp] theorem State.modTrail_nextJob (f : Trail → Trail) : (s.modTrail f).nextJob = s.nextJob := rfl
@[simp] theorem State.modTrail_carriers (f : Trail → Trail) : (s.modTrail f).carriers = s.carriers := rfl
@[simp] theorem State.modTrail_models (f : Trail → Trail) : (s.modTrail f).models = s.models := rfl
@[simp] theorem State.modTrail_nextMod (f : Trail → Trail) : (s.modTrail f).nextMod = s.nextMod := rfl
@[simp] theorem State.modTrail_dfe (f : Trail → Trail) : (s.modTrail f).dfe = s.dfe := rfl
@[simp] theorem State.modTrail_dsps (f : Trail → Trail) : (s.modTrail f).dsps = s.dsps := rfl
@[simp] theorem State.modTrail_kernels (f : Trail → Trail) : (s.modTrail f).kernels = s.kernels := rfl
@[simp] theorem State.modTrail_nextKern (f : Trail → Trail) : (s.modTrail f).nextKern = s.nextKern := rfl
@[simp] theorem State.modTrail_seqs (f : Trail → Trail) : (s.modTrail f).seqs = s.seqs := rfl
@[simp] theorem State.modTrail_events (f : Trail → Trail) : (s.modTrail f).events = s.events := rfl
@[simp] theorem State.modTrail_host (f : Trail → Trail) : (s.modTrail f).host = s.host := rfl
@[simp] theorem State.modTrail_time (f : Trail → Trail) : (s.modTrail f).time = s.time := rfl
@[simp] theorem State.modTrail_twin (f : Trail → Trail) : (s.modTrail f).twin = s.twin := rfl
@[simp] theorem State.modTrail_power (f : Trail → Trail) : (s.modTrail f).power = s.power := rfl
@[simp] theorem State.modTrail_lantern (f : Trail → Trail) : (s.modTrail f).lantern = s.lantern := rfl
@[simp] theorem State.modTrail_security (f : Trail → Trail) : (s.modTrail f).security = s.security := rfl
@[simp] theorem State.modTrail_boot (f : Trail → Trail) : (s.modTrail f).boot = s.boot := rfl
@[simp] theorem State.modTrail_pins (f : Trail → Trail) : (s.modTrail f).pins = s.pins := rfl
@[simp] theorem State.modTrail_health (f : Trail → Trail) : (s.modTrail f).health = s.health := rfl

@[simp] theorem State.modSession_pending (i : Half) (f : Session → Session) : (s.modSession i f).pending = s.pending := rfl
@[simp] theorem State.modSession_freeCtr (i : Half) (f : Session → Session) : (s.modSession i f).freeCtr = s.freeCtr := rfl
@[simp] theorem State.modSession_mem (i : Half) (f : Session → Session) : (s.modSession i f).mem = s.mem := rfl
@[simp] theorem State.modSession_part (i : Half) (f : Session → Session) : (s.modSession i f).part = s.part := rfl
@[simp] theorem State.modSession_clusters (i : Half) (f : Session → Session) : (s.modSession i f).clusters = s.clusters := rfl
@[simp] theorem State.modSession_slots (i : Half) (f : Session → Session) : (s.modSession i f).slots = s.slots := rfl
@[simp] theorem State.modSession_dies (i : Half) (f : Session → Session) : (s.modSession i f).dies = s.dies := rfl
@[simp] theorem State.modSession_cores (i : Half) (f : Session → Session) : (s.modSession i f).cores = s.cores := rfl
@[simp] theorem State.modSession_jobs (i : Half) (f : Session → Session) : (s.modSession i f).jobs = s.jobs := rfl
@[simp] theorem State.modSession_nextJob (i : Half) (f : Session → Session) : (s.modSession i f).nextJob = s.nextJob := rfl
@[simp] theorem State.modSession_carriers (i : Half) (f : Session → Session) : (s.modSession i f).carriers = s.carriers := rfl
@[simp] theorem State.modSession_models (i : Half) (f : Session → Session) : (s.modSession i f).models = s.models := rfl
@[simp] theorem State.modSession_nextMod (i : Half) (f : Session → Session) : (s.modSession i f).nextMod = s.nextMod := rfl
@[simp] theorem State.modSession_dfe (i : Half) (f : Session → Session) : (s.modSession i f).dfe = s.dfe := rfl
@[simp] theorem State.modSession_dsps (i : Half) (f : Session → Session) : (s.modSession i f).dsps = s.dsps := rfl
@[simp] theorem State.modSession_kernels (i : Half) (f : Session → Session) : (s.modSession i f).kernels = s.kernels := rfl
@[simp] theorem State.modSession_nextKern (i : Half) (f : Session → Session) : (s.modSession i f).nextKern = s.nextKern := rfl
@[simp] theorem State.modSession_seqs (i : Half) (f : Session → Session) : (s.modSession i f).seqs = s.seqs := rfl
@[simp] theorem State.modSession_events (i : Half) (f : Session → Session) : (s.modSession i f).events = s.events := rfl
@[simp] theorem State.modSession_time (i : Half) (f : Session → Session) : (s.modSession i f).time = s.time := rfl
@[simp] theorem State.modSession_trail (i : Half) (f : Session → Session) : (s.modSession i f).trail = s.trail := rfl
@[simp] theorem State.modSession_twin (i : Half) (f : Session → Session) : (s.modSession i f).twin = s.twin := rfl
@[simp] theorem State.modSession_power (i : Half) (f : Session → Session) : (s.modSession i f).power = s.power := rfl
@[simp] theorem State.modSession_lantern (i : Half) (f : Session → Session) : (s.modSession i f).lantern = s.lantern := rfl
@[simp] theorem State.modSession_security (i : Half) (f : Session → Session) : (s.modSession i f).security = s.security := rfl
@[simp] theorem State.modSession_boot (i : Half) (f : Session → Session) : (s.modSession i f).boot = s.boot := rfl
@[simp] theorem State.modSession_pins (i : Half) (f : Session → Session) : (s.modSession i f).pins = s.pins := rfl
@[simp] theorem State.modSession_health (i : Half) (f : Session → Session) : (s.modSession i f).health = s.health := rfl

@[simp] theorem State.writePhys_pending (a : Nat) (b : List Byte) : (s.writePhys a b).pending = s.pending := rfl
@[simp] theorem State.writePhys_freeCtr (a : Nat) (b : List Byte) : (s.writePhys a b).freeCtr = s.freeCtr := rfl
@[simp] theorem State.writePhys_part (a : Nat) (b : List Byte) : (s.writePhys a b).part = s.part := rfl
@[simp] theorem State.writePhys_clusters (a : Nat) (b : List Byte) : (s.writePhys a b).clusters = s.clusters := rfl
@[simp] theorem State.writePhys_slots (a : Nat) (b : List Byte) : (s.writePhys a b).slots = s.slots := rfl
@[simp] theorem State.writePhys_dies (a : Nat) (b : List Byte) : (s.writePhys a b).dies = s.dies := rfl
@[simp] theorem State.writePhys_cores (a : Nat) (b : List Byte) : (s.writePhys a b).cores = s.cores := rfl
@[simp] theorem State.writePhys_jobs (a : Nat) (b : List Byte) : (s.writePhys a b).jobs = s.jobs := rfl
@[simp] theorem State.writePhys_nextJob (a : Nat) (b : List Byte) : (s.writePhys a b).nextJob = s.nextJob := rfl
@[simp] theorem State.writePhys_carriers (a : Nat) (b : List Byte) : (s.writePhys a b).carriers = s.carriers := rfl
@[simp] theorem State.writePhys_models (a : Nat) (b : List Byte) : (s.writePhys a b).models = s.models := rfl
@[simp] theorem State.writePhys_nextMod (a : Nat) (b : List Byte) : (s.writePhys a b).nextMod = s.nextMod := rfl
@[simp] theorem State.writePhys_dfe (a : Nat) (b : List Byte) : (s.writePhys a b).dfe = s.dfe := rfl
@[simp] theorem State.writePhys_dsps (a : Nat) (b : List Byte) : (s.writePhys a b).dsps = s.dsps := rfl
@[simp] theorem State.writePhys_kernels (a : Nat) (b : List Byte) : (s.writePhys a b).kernels = s.kernels := rfl
@[simp] theorem State.writePhys_nextKern (a : Nat) (b : List Byte) : (s.writePhys a b).nextKern = s.nextKern := rfl
@[simp] theorem State.writePhys_seqs (a : Nat) (b : List Byte) : (s.writePhys a b).seqs = s.seqs := rfl
@[simp] theorem State.writePhys_events (a : Nat) (b : List Byte) : (s.writePhys a b).events = s.events := rfl
@[simp] theorem State.writePhys_host (a : Nat) (b : List Byte) : (s.writePhys a b).host = s.host := rfl
@[simp] theorem State.writePhys_time (a : Nat) (b : List Byte) : (s.writePhys a b).time = s.time := rfl
@[simp] theorem State.writePhys_trail (a : Nat) (b : List Byte) : (s.writePhys a b).trail = s.trail := rfl
@[simp] theorem State.writePhys_twin (a : Nat) (b : List Byte) : (s.writePhys a b).twin = s.twin := rfl
@[simp] theorem State.writePhys_power (a : Nat) (b : List Byte) : (s.writePhys a b).power = s.power := rfl
@[simp] theorem State.writePhys_lantern (a : Nat) (b : List Byte) : (s.writePhys a b).lantern = s.lantern := rfl
@[simp] theorem State.writePhys_security (a : Nat) (b : List Byte) : (s.writePhys a b).security = s.security := rfl
@[simp] theorem State.writePhys_boot (a : Nat) (b : List Byte) : (s.writePhys a b).boot = s.boot := rfl
@[simp] theorem State.writePhys_pins (a : Nat) (b : List Byte) : (s.writePhys a b).pins = s.pins := rfl
@[simp] theorem State.writePhys_health (a : Nat) (b : List Byte) : (s.writePhys a b).health = s.health := rfl

@[simp] theorem State.erasePhys_pending (a n : Nat) : (s.erasePhys a n).pending = s.pending := rfl
@[simp] theorem State.erasePhys_freeCtr (a n : Nat) : (s.erasePhys a n).freeCtr = s.freeCtr := rfl
@[simp] theorem State.erasePhys_part (a n : Nat) : (s.erasePhys a n).part = s.part := rfl
@[simp] theorem State.erasePhys_clusters (a n : Nat) : (s.erasePhys a n).clusters = s.clusters := rfl
@[simp] theorem State.erasePhys_slots (a n : Nat) : (s.erasePhys a n).slots = s.slots := rfl
@[simp] theorem State.erasePhys_dies (a n : Nat) : (s.erasePhys a n).dies = s.dies := rfl
@[simp] theorem State.erasePhys_cores (a n : Nat) : (s.erasePhys a n).cores = s.cores := rfl
@[simp] theorem State.erasePhys_jobs (a n : Nat) : (s.erasePhys a n).jobs = s.jobs := rfl
@[simp] theorem State.erasePhys_nextJob (a n : Nat) : (s.erasePhys a n).nextJob = s.nextJob := rfl
@[simp] theorem State.erasePhys_carriers (a n : Nat) : (s.erasePhys a n).carriers = s.carriers := rfl
@[simp] theorem State.erasePhys_models (a n : Nat) : (s.erasePhys a n).models = s.models := rfl
@[simp] theorem State.erasePhys_nextMod (a n : Nat) : (s.erasePhys a n).nextMod = s.nextMod := rfl
@[simp] theorem State.erasePhys_dfe (a n : Nat) : (s.erasePhys a n).dfe = s.dfe := rfl
@[simp] theorem State.erasePhys_dsps (a n : Nat) : (s.erasePhys a n).dsps = s.dsps := rfl
@[simp] theorem State.erasePhys_kernels (a n : Nat) : (s.erasePhys a n).kernels = s.kernels := rfl
@[simp] theorem State.erasePhys_nextKern (a n : Nat) : (s.erasePhys a n).nextKern = s.nextKern := rfl
@[simp] theorem State.erasePhys_seqs (a n : Nat) : (s.erasePhys a n).seqs = s.seqs := rfl
@[simp] theorem State.erasePhys_events (a n : Nat) : (s.erasePhys a n).events = s.events := rfl
@[simp] theorem State.erasePhys_host (a n : Nat) : (s.erasePhys a n).host = s.host := rfl
@[simp] theorem State.erasePhys_time (a n : Nat) : (s.erasePhys a n).time = s.time := rfl
@[simp] theorem State.erasePhys_trail (a n : Nat) : (s.erasePhys a n).trail = s.trail := rfl
@[simp] theorem State.erasePhys_twin (a n : Nat) : (s.erasePhys a n).twin = s.twin := rfl
@[simp] theorem State.erasePhys_power (a n : Nat) : (s.erasePhys a n).power = s.power := rfl
@[simp] theorem State.erasePhys_lantern (a n : Nat) : (s.erasePhys a n).lantern = s.lantern := rfl
@[simp] theorem State.erasePhys_security (a n : Nat) : (s.erasePhys a n).security = s.security := rfl
@[simp] theorem State.erasePhys_boot (a n : Nat) : (s.erasePhys a n).boot = s.boot := rfl
@[simp] theorem State.erasePhys_pins (a n : Nat) : (s.erasePhys a n).pins = s.pins := rfl
@[simp] theorem State.erasePhys_health (a n : Nat) : (s.erasePhys a n).health = s.health := rfl

/-! ### Reading back -/

theorem get_set_self {α : Type} {n : Nat} (v : Vector α n) (c : Fin n) (k : α) : (v.set c k).get c = k := Vector.getElem_set_self ..
theorem get_set_ne {α : Type} {n : Nat} (v : Vector α n) {c d : Fin n} (k : α) (h : d ≠ c) : (v.set c k).get d = v.get d :=
  Vector.getElem_set_ne _ _ fun e => h (Fin.ext e.symm)

@[simp] theorem core_setCore (c : CoreId) (k : Core) : (s.setCore c k).core c = k := get_set_self ..
theorem core_setCore_ne {c d : CoreId} (k : Core) (h : d ≠ c) : (s.setCore c k).core d = s.core d := get_set_ne _ _ h
@[simp] theorem core_modCore (c : CoreId) (f : Core → Core) : (s.modCore c f).core c = f (s.core c) := core_setCore s c _
theorem core_modCore_ne {c d : CoreId} (f : Core → Core) (h : d ≠ c) : (s.modCore c f).core d = s.core d := core_setCore_ne s _ h
@[simp] theorem ctx_setCtx (c : CoreId) (x : Ctx) : (s.setCtx c x).ctx c = x := congrArg Core.ctx (core_setCore s c _)
@[simp] theorem ctx_modCtx (c : CoreId) (f : Ctx → Ctx) : (s.modCtx c f).ctx c = f (s.ctx c) := ctx_setCtx s c _
theorem core_setCtx_ne {c d : CoreId} (x : Ctx) (h : d ≠ c) : (s.setCtx c x).core d = s.core d := core_setCore_ne s _ h
theorem core_modCtx_ne {c d : CoreId} (f : Ctx → Ctx) (h : d ≠ c) : (s.modCtx c f).core d = s.core d := core_setCore_ne s _ h
@[simp] theorem owner_setCtx (c d : CoreId) (x : Ctx) : ((s.setCtx c x).core d).owner = (s.core d).owner := by
  by_cases h : d = c
  · subst h; rw [State.setCtx, core_setCore]
  · rw [core_setCtx_ne s x h]
@[simp] theorem owner_modCtx (c d : CoreId) (f : Ctx → Ctx) : ((s.modCtx c f).core d).owner = (s.core d).owner := owner_setCtx s c d _

@[simp] theorem carrier_setCarrier (k : CarrierId) (x : Carrier) : (s.setCarrier k x).carrier k = x := get_set_self ..
theorem carrier_setCarrier_ne {k q : CarrierId} (x : Carrier) (h : q ≠ k) : (s.setCarrier k x).carrier q = s.carrier q := get_set_ne _ _ h
@[simp] theorem carrier_modCarrier (k : CarrierId) (f : Carrier → Carrier) : (s.modCarrier k f).carrier k = f (s.carrier k) := carrier_setCarrier s k _
theorem carrier_modCarrier_ne {k q : CarrierId} (f : Carrier → Carrier) (h : q ≠ k) : (s.modCarrier k f).carrier q = s.carrier q :=
  carrier_setCarrier_ne s _ h

@[simp] theorem slot_modSlot (i : SlotId) (f : SlotRec → SlotRec) : (s.modSlot i f).slot i = f (s.slot i) := get_set_self ..
theorem slot_modSlot_ne {i j : SlotId} (f : SlotRec → SlotRec) (h : j ≠ i) : (s.modSlot i f).slot j = s.slot j := get_set_ne _ _ h

@[simp] theorem dsp_setDsp (d : DspId) (x : Dsp) : (s.setDsp d x).dsp d = x := get_set_self ..
theorem dsp_setDsp_ne {d e : DspId} (x : Dsp) (h : e ≠ d) : (s.setDsp d x).dsp e = s.dsp e := get_set_ne _ _ h

@[simp] theorem alarm_setAlarm (n : Fin 16) (a : Alarm) : (s.setAlarm n a).time.alarm n = a := get_set_self ..
theorem alarm_setAlarm_ne {n m : Fin 16} (a : Alarm) (h : m ≠ n) : (s.setAlarm n a).time.alarm m = s.time.alarm m := get_set_ne _ _ h

@[simp] theorem sreg_setSreg (x : Ctx) (r : Nat) (v : Dword) : (x.setSreg r v).sreg r = v := by
  simp [Ctx.setSreg, Ctx.sreg]

end Sys2Proof.Machine
end

