-- ==== Sys2Proof/Laws/Report.lean ====
section
/-!
SUPPORT. What the shared reporting operations can touch, said once: frames and notifications touch the host interface only, event records
also their numbers and the log, completion records also a job's count; free values touch their counter only.
-/
namespace Sys2Proof.Machine

/-! ### Free values -/

theorem State.draw_frame (s : State) : s.draw.2 = { s with freeCtr := s.draw.2.freeCtr } := rfl
theorem State.drawMany_frame (s : State) (n : Nat) : (s.drawMany n).2 = { s with freeCtr := s.freeCtr + n } := rfl
theorem State.drawBytes_frame (s : State) (n : Nat) : (s.drawBytes n).2 = { s with freeCtr := s.freeCtr + (n + 7) / 8 } := rfl

/-! ### Frames to the host -/

/-- Only the host interface differs. -/
def HostOnly (s t : State) : Prop := t = { s with host := t.host }

theorem HostOnly.refl (s : State) : HostOnly s s := rfl
theorem HostOnly.mk (s : State) (h : HostIf) : HostOnly s { s with host := h } := rfl
theorem HostOnly.trans {s t u : State} (h : HostOnly s t) (k : HostOnly t u) : HostOnly s u := by
  unfold HostOnly at *; rw [k, h]

/-- A fold of operations each of which touches the host interface only. -/
theorem HostOnly.foldl {α : Type} {f : State → α → State} (hf : ∀ s a, HostOnly s (f s a)) : ∀ (l : List α) (s : State), HostOnly s (l.foldl f s)
  | [], s => .refl s
  | a :: l, s => (hf s a).trans (HostOnly.foldl hf l (f s a))

theorem State.modSession_hostOnly (s : State) (sid : Half) (f : Session → Session) : HostOnly s (s.modSession sid f) := rfl
theorem State.touch_hostOnly (s : State) (f : Frame) : HostOnly s (s.touch f) := rfl
theorem State.discard_hostOnly (s : State) : HostOnly s s.discard := rfl

theorem State.endSession_hostOnly (s : State) (sid : Half) : HostOnly s (s.endSession sid) := by
  unfold State.endSession
  cases s.session sid <;> rfl

theorem State.sendFrame_hostOnly (s : State) (sid : Half) (typ : Nat) (resp unsol : Bool) (token st : Half) (p : List Byte) :
    HostOnly s (s.sendFrame sid typ resp unsol token st p) := by
  unfold State.sendFrame
  cases s.session sid with
  | none => exact .refl s
  | some x =>
    show HostOnly s (if x.txSeq = 0xFFFFFFFF#32 then _ else _)
    split
    · exact State.endSession_hostOnly s sid
    · rfl

theorem State.notifyOne_hostOnly (s : State) (sid : Half) (typ : Nat) (st : Half) (p : List Byte) : HostOnly s (s.notifyOne sid typ st p).1 := by
  unfold State.notifyOne
  cases s.session sid with
  | none => exact .refl s
  | some x =>
    show HostOnly s (Prod.fst (if _ then _ else _))
    split
    · rfl
    · exact (State.modSession_hostOnly s sid _).trans (State.sendFrame_hostOnly _ _ _ _ _ _ _ _)

theorem State.notify_hostOnly (s : State) (typ : Nat) (st : Half) (p : List Byte) (ok : Port → Bool) : HostOnly s (s.notify typ st p ok) :=
  HostOnly.foldl (fun _ _ => State.notifyOne_hostOnly _ _ _ _ _) _ _

theorem State.notifyT1_hostOnly (s : State) (typ : Nat) (st : Half) (p : List Byte) : HostOnly s (s.notifyT1 typ st p) := State.notify_hostOnly s typ st p _

theorem State.respond_hostOnly (s : State) (f : Frame) (st : Half) (p : List Byte) : HostOnly s (s.respond f st p) := by
  unfold State.respond
  simp only
  split
  · exact State.sendFrame_hostOnly _ _ _ _ _ _ _ _
  · rfl

theorem State.resend_hostOnly (s : State) (f : Frame) (t : Token) : HostOnly s (s.resend f t) := by
  unfold State.resend
  cases t.resp with
  | none => exact .refl s
  | some m => exact State.respond_hostOnly s f m.status m.payload

theorem State.releaseSession_hostOnly (s : State) (sid : Half) : HostOnly s (s.releaseSession sid) := by
  unfold State.releaseSession
  cases s.session sid <;> rfl

theorem State.healthOne_hostOnly (s : State) (sid : Half) (src seq : Word) (st : Half) (b : List Byte) : HostOnly s (s.healthOne sid src seq st b) := by
  unfold State.healthOne
  cases s.session sid with
  | none => exact .refl s
  | some x => exact (State.notifyOne_hostOnly s sid _ _ _).trans (State.modSession_hostOnly _ _ _)

/-! ### Event and completion records -/

/-- Only the host interface, record numbers and the event log differ. -/
def EventOnly (s t : State) : Prop := t = { s with host := t.host, seqs := t.seqs, events := t.events }

theorem EventOnly.refl (s : State) : EventOnly s s := rfl
theorem EventOnly.trans {s t u : State} (h : EventOnly s t) (k : EventOnly t u) : EventOnly s u := by
  unfold EventOnly at *; rw [k, h]
theorem HostOnly.event {s t : State} (h : HostOnly s t) : EventOnly s t := by
  unfold HostOnly at h; unfold EventOnly; rw [h]

theorem State.event_frame (s : State) (src : Word) (kind : Nat) (st : Half) (p : List Byte) : EventOnly s (s.event src kind st p) := by
  have key : ∀ (l : List (List Byte)) (q : Cells 32) (ids : List Half) (f : State → Half → State), (∀ u i, HostOnly u (f u i)) →
      EventOnly s (ids.foldl f { s with seqs := q, events := l }) := by
    intro l q ids f hf
    exact EventOnly.trans (t := { s with seqs := q, events := l }) rfl (HostOnly.foldl hf _ _).event
  exact key _ _ _ _ fun u i => State.healthOne_hostOnly u i _ _ _ _

theorem State.healthEvent_frame (s : State) (kind : Nat) (st : Half) (p : List Byte) : EventOnly s (s.healthEvent kind st p) := State.event_frame s _ kind st p

theorem State.signalOne_hostOnly (s : State) (sid : Half) (typ : Nat) (st : Half) (j : List Byte) (src seq : Word) (b : List Byte) :
    HostOnly s (s.signalOne sid typ st j src seq b) := by
  unfold State.signalOne
  cases s.session sid with
  | none => exact .refl s
  | some x =>
    simp only
    split
    · exact (State.notifyOne_hostOnly s sid _ _ _).trans (State.modSession_hostOnly _ _ _)
    · exact ((State.notifyOne_hostOnly s sid _ _ _).trans (State.notifyOne_hostOnly _ sid _ _ _)).trans (State.modSession_hostOnly _ _ _)

/-- A completion record touches reports, its source's number and its job's count (R221, R222). -/
theorem State.complete_frame (s : State) (c : CoreId) (w : CmdWord) (i : RecInfo) :
    s.complete c w i = { s with host := (s.complete c w i).host, seqs := (s.complete c w i).seqs, jobs := (s.complete c w i).jobs } := by
  have key : ∀ u : State, HostOnly (s.takeSeq i.source).2 u → u = { s with host := u.host, seqs := u.seqs, jobs := u.jobs } := by
    intro u h; unfold HostOnly at h; rw [h]; rfl
  unfold State.complete
  simp only
  split
  · split
    · exact key _ (.refl _)
    · split
      · exact key _ (HostOnly.foldl (fun _ _ => State.signalOne_hostOnly _ _ _ _ _ _ _ _) _ _)
      · rfl
  · exact key _ (.refl _)

/-! ### Streams -/

theorem State.pump_quiet (s : State) (c : CoreId) (n : Nat) (h : (s.ctx c).waiting = []) : s.pump c n = s := by
  cases n with
  | zero => rfl
  | succ n =>
    unfold State.pump
    split
    · rfl
    · rw [h]

/-- A core without a waiting command fetches nothing ahead (R195). -/
theorem State.fetchAhead_quiet (s : State) (c : CoreId) (h : (s.ctx c).waiting = []) : s.fetchAhead c = s := by
  have hk : (s.core c).ctx.waiting = [] := h
  have : s.mayFetch c = false := by simp [State.mayFetch, hk, aheadCmds]
  simp [State.fetchAhead, this]

theorem State.checkSusp_quiet (s : State) (c : CoreId) (h : (s.ctx c).waiting = []) : s.checkSusp c = s := by
  unfold State.checkSusp
  simp [h]

theorem State.resumeIssue_quiet (s : State) (c : CoreId) (h : (s.ctx c).waiting = []) : s.resumeIssue c = s := by
  unfold State.resumeIssue
  rw [State.pump_quiet s c _ h, State.checkSusp_quiet s c h, State.fetchAhead_quiet s c h]

/-- With no command waiting on any core nothing goes on. -/
theorem State.resumeAll_quiet (s : State) (h : Quiet s) : s.resumeAll = s := by
  have : ∀ l : List CoreId, l.foldl (fun (s : State) c => s.resumeIssue c) s = s := by
    intro l
    induction l with
    | nil => rfl
    | cons c l ih => simp only [List.foldl_cons, State.resumeIssue_quiet s c (h c), ih]
  unfold State.resumeAll State.resumePasses
  simp only [this allCores, Nat.lt_irrefl, if_false]

end Sys2Proof.Machine
end

