-- ==== Sys2Proof/Laws/Request.lean ====
section
/-!
SUPPORT. What happens to a request that is taken up, said once: it reaches its handler, and its response is queued.
-/
namespace Sys2Proof.Machine

@[simp] theorem Reply.need_true (st : Half) (s : State) (k : Reply) : Reply.need true st s k = k := rfl
@[simp] theorem Reply.need_false (st : Half) (s : State) (k : Reply) : Reply.need false st s k = .deny st s := rfl

@[simp] theorem State.touch_boot (s : State) (f : Frame) : (s.touch f).boot = s.boot := rfl
@[simp] theorem State.touch_txq (s : State) (f : Frame) : (s.touch f).host.txq = s.host.txq := rfl
@[simp] theorem State.touch_mem (s : State) (f : Frame) : (s.touch f).mem = s.mem := rfl
@[simp] theorem State.touch_carriers (s : State) (f : Frame) : (s.touch f).carriers = s.carriers := rfl
@[simp] theorem State.touch_jobs (s : State) (f : Frame) : (s.touch f).jobs = s.jobs := rfl

theorem State.outstanding_touch (s : State) (f : Frame) (sid : Half) (mb : Nat) : (s.touch f).outstanding sid mb = s.outstanding sid mb := rfl

/-- No remembered request stands in the way of one with a fresh token. -/
theorem find_token_none {x : Session} {f : Frame} (h : ∀ k ∈ x.tokens, ¬ (k.mailbox.toNat = f.mb ∧ k.token = f.token)) :
    (x.tokens.find? fun t => t.mailbox.toNat == f.mb && t.token == f.token) = none := by
  refine List.find?_eq_none.mpr fun k hk hc => h k hk ?_
  simpa using hc

/-- A request that is taken up is answered (R395 to R406). -/
theorem State.request_admitted {s : State} {f : Frame} {x : Session} (h : Admitted s f x) (g : Handler) : s.request f g = (s.touch f).answer x f g := by
  have hl : (f.port == Port.guy) = false := by simpa using h.line
  have ha : s.answering = true := by simp [State.answering, h.runs]
  unfold State.request
  simp only [ha, h.comes, h.formed, hl, h.prot, h.sess, h.auth, h.claim, find_token_none h.fresh, h.recent, Bool.not_true, Bool.or_false, Bool.false_and,
    if_false, Bool.false_eq_true]
  rw [State.outstanding_touch, if_neg (Nat.not_le.mpr h.room)]

/-- Its header, type, port and boot phase are in order, so that its handler decides (R397, R412, R419). -/
theorem State.judge_admitted {s : State} {f : Frame} {x : Session} (h : Admitted s f x) (u : State) (hu : u.boot = s.boot) (o : Option Session) (g : Handler) :
    u.judge o f g = g o f u := by
  have h1 : (BootPhase.running != BootPhase.hold) = true := rfl
  have h2 : (BootPhase.running != BootPhase.dieFail) = true := rfl
  unfold State.judge
  simp [h.clean, h.known, h.place, hu, h.runs, h1, h2]

/-- A slot message that is taken reaches its handler (R411). -/
theorem State.slotFrame_slotted {s : State} {f : Frame} {x : Session} (h : Slotted s f x) (t : Nat) (ht : f.typ.toNat = t) (g : Frame → State → State) :
    s.slotFrame f t g = g f (s.touch f) := by
  unfold State.slotFrame
  simp [ht, h.runs, h.comes, h.formed, h.port, h.prot, h.sess, h.auth, h.claim, h.clean]

/-- A session with sequence numbers left has the frame queued (R402). -/
theorem State.sendFrame_queues {s : State} {sid : Half} {x : Session} (hs : s.session sid = some x) (hx : x.txSeq ≠ 0xFFFFFFFF#32) (typ : Nat) (resp unsol : Bool)
    (token st : Half) (p : List Byte) :
    (s.sendFrame sid typ resp unsol token st p).host.txq = s.host.txq ++
      [({ port := x.port, session := sid, typ := BitVec.ofNat 16 typ, prot := true, resp := resp, unsol := unsol, seq := x.txSeq, token := token, status := st,
          payload := p } : Msg).protect x.keyOut x.saltOut] := by
  unfold State.sendFrame
  rw [hs]
  simp only [if_neg hx]
  rfl

end Sys2Proof.Machine
end

