-- ==== Sys2Proof/Machine/Registers.lean ====
section
/-!
DEFINITION. Read-only registers as one word each: pegs (Tables 7-5 and 7-6), DMA (Table 8-10), the coalescer (R198), trail ports (Table 17-2), alarms
(Table 15-6) and the Lantern domain (Table 18-9). DM_CH_STAT, DM_CH_PROG, TU_STAT, HM_SLOT, DS_STAT and PM_CTL stand beside their units.
-/
namespace Sys2Proof.Machine

def bit (b : Bool) (n : Nat) : Nat := if b then 2 ^ n else 0

/-- CM_PEG_ENTRY n of a core; 0 without a peg. -/
def Ctx.pegEntry (x : Ctx) (n : Nat) : Dword :=
  match x.pegs[n]? with
  | some p => BitVec.ofNat 64 (2 ^ 63 + bit p.write 62 + p.owner.toNat * 2 ^ 58 + p.half.toNat * 2 ^ 56 + p.base * 2 ^ 23 + p.len)
  | none => 0#64

/-- CM_PEG_STAT of a core. -/
def Core.pegStat (k : Core) : Dword := BitVec.ofNat 64 (k.conflictWait.toNat * 2 ^ 24 + k.fullWait.toNat * 2 ^ 8 + k.ctx.pegs.length)

/-- DM_STAT of a core. -/
def Core.dmStat (k : Core) : Dword := BitVec.ofNat 64 (k.discardKib.toNat * 2 ^ 32 + k.faults.toNat * 2 ^ 16)

/-- DD_COAL_STAT of a die: its merges. -/
def Die.coalStat (d : Die) : Dword := BitVec.ofNat 64 (d.coal.toNat * 2 ^ 32)

/-- TL_STAT of a trail port. -/
def State.tlStat (s : State) (port : Fin 4) : Dword :=
  let x := s.trail.port port.val
  BitVec.ofNat 64 (x.replays.toNat * 2 ^ 48 + x.crcErrs.toNat * 2 ^ 32 + x.fecCorr.toNat * 2 ^ 16 + x.nbrNode.toNat * 2 ^ 5 + x.nbrPort.toNat * 2 ^ 3
    + bit (s.ckptPort == some port.val) 2 + bit x.lock 1 + bit x.up 0)

/-- TU_ALARM_LO and TU_ALARM_HI of an alarm. -/
def Alarm.loWord (a : Alarm) : Word := a.lo
def Alarm.hiWord (a : Alarm) : Word := BitVec.ofNat 32 (bit a.arm 31 + a.out.toNat * 2 ^ 29 + a.target.toNat / 2 ^ 32)

/-- LN_STAT. -/
def Lantern.stat (l : Lantern) : Word :=
  BitVec.ofNat 32 (l.wakeCause.toNat * 2 ^ 8 + bit l.bkpOk 6 + bit l.mainOk 5 + bit l.onBkp 4 + bit l.switched 3)

end Sys2Proof.Machine
end

