-- ==== Sys2Proof/Tests/Slice0.lean ====
section
/-!
SUPPORT. Tests of the model on fixed values. `expect_`: values that the spec writes out, each with its place. `refuses_`: what the well-formedness
check refuses, one term for each check. `witness_`: for each statement with hypotheses, states and operands that meet them.
-/
namespace Sys2Proof.Tests

-- one theorem at a time: each waits for the kernel's check of those before it
set_option Elab.async false

open Sys2Proof.Machine

/-! ### Helpers -/

/-- A command word: opcode, unit, and fields as (value, first bit). -/
def cw (op unit : Nat) (fs : List (Nat × Nat)) : CmdWord := BitVec.ofNat 128 (fs.foldl (fun n f => n + f.1 * 2 ^ f.2) (op + 256 * unit))

/-- A datagram on a port, under a session and with a protected flag; its tag is 0. -/
def fr (port : Port) (sid : Half) (prot : Bool) (typ : Nat) (seq : Word) (b : List Byte) : Frame :=
  { port := port, vflags := if prot then 0x30#8 else 0x20#8, mailbox := BitVec.ofNat 8 (typ / 256), typ := BitVec.ofNat 16 typ, session := sid,
    length := BitVec.ofNat 16 b.length, seq := seq, token := 7#16, status := 0#16, payload := b, udpLen := 32 + b.length, ipv4 := false, tag := 0#128 }

/-- The frame with the tag that a session with no key material expects (R396). -/
def tagged (f : Frame) : Frame :=
  { f with tag := BitVec.ofNat 128 (Sha.beNat (gcmTag [] (gcmNonce [] f.seq) f.head (gcmCtr [] (gcmNonce [] f.seq) f.payload))) }

theorem tagOk_tagged {x : Session} (f : Frame) (h : x.keys = []) : x.tagOk (tagged f) = true := by
  simp only [Session.tagOk, Session.saltIn, Session.keyIn, h, List.take_nil, List.drop_nil, beq_iff_eq]; rfl

/-- A request of the open session 1 on the host port, and one of session 2 on the first 100G port. -/
def req (typ : Nat) (b : List Byte) : Frame := fr .host 1#16 true typ 1#32 b
def req2 (typ : Nat) (b : List Byte) : Frame := fr .eth0 2#16 true typ 1#32 b

def z (n : Nat) : List Byte := List.replicate n 0#8

def job1 : Job :=
  { id := 9#32, mailbox := 2#4, phase := .running, ranks := [{ entry := 0, footprint := 4096, affinity := 0#8, core := some 0 }], deterministic := false,
    seed := 5#64, faultLimit := 2000#32, bundle := 1#32, queues := [[7#64], [], [], []], binds := [], held := [0] }

def sess (id : Half) (p : Port) : Session := { id := id, port := p, isOpen := true, roles := 0x3F#8, mask := 0xFFFF#16 }

/-- A running device with two open sessions, every cluster up, and job 9 on core 0. -/
def S : State :=
  let r := State.reset
  { r with
    clusters := Vector.replicate 8 { map := sparemapReset, map0 := sparemap0Reset, live := sparemapReset, live0 := sparemap0Reset, power := .up }
    cores := r.cores.set 0 { owner := .rank 9#32 0 }
    jobs := [job1], nextJob := 10#32, boot := { r.boot with phase := .running }
    host := { r.host with sessions := [sess 1#16 .host, sess 2#16 .eth0] } }

/-- `S` with another context on core 0. -/
def onCore (x : Ctx) : State := { S with cores := S.cores.set 0 { owner := .rank 9#32 0, ctx := x } }

def readyB (s : State) (c : CoreId) (w : CmdWord) : Bool :=
  s.mayIssue c && (s.ctx c).waiting.isEmpty && !((s.ctx c).pegs.any fun p => p.hits false (s.ctx c).pc 16) && (!fenceOf w || (s.ctx c).idle)
    && opcodeFits w && resClear w && (!bypassOf w || bypassAllowed (opcodeOf w)) && decide ((s.ctx c).pc ≤ 0x3FFFF0)
    && (!s.deterministic c || (!alwaysV (opcodeOf w) && !bypassOf w)) && (match (s.core c).owner with | .carrier _ => false | _ => true)

theorem ready_of_readyB {s : State} {c : CoreId} {w : CmdWord} (h : readyB s c w = true) : Ready s c w := by
  simp only [readyB, Bool.and_eq_true, Bool.or_eq_true, Bool.not_eq_true', List.isEmpty_iff, decide_eq_true_eq] at h
  obtain ⟨⟨⟨⟨⟨⟨⟨⟨⟨h1, h2⟩, h3⟩, h4⟩, h5⟩, h6⟩, h7⟩, h8⟩, h9⟩, h10⟩ := h
  refine ⟨h1, h2, h3, fun g => by simpa [g] using h4, ⟨h5, h6⟩, fun g => by simpa [g] using h7, h8, fun g => by simpa [g] using h9, fun t _ => ?_⟩
  unfold State.inWindow
  split
  · next k hk => simp [hk] at h10
  · rfl

/-- What a check shows of each entry of a list. -/
theorem all_of {α : Type} {ws : List α} {p : α → Bool} {P : α → Prop} (h : ws.all p = true) (k : ∀ w, p w = true → P w) : ∀ w ∈ ws, P w :=
  fun w hw => k w (List.all_eq_true.mp h w hw)

theorem admitted_of {s : State} {f : Frame} {x : Session} (hx : x.keys = [])
    (h : s.boot.phase = .running ∧ s.reaches f = true ∧ f.wellFormed = true ∧ f.port ≠ .guy ∧ f.prot = true ∧ s.session f.session = some x
      ∧ (s.host.sessions.map (·.id)).Nodup ∧ (x.port == f.port && x.fresh f.seq) = true ∧ x.isOpen = true ∧ x.claim = false ∧ f.clean = true ∧ knownType f.typ.toNat = true
      ∧ portAllowed f.typ.toNat f.port = true ∧ x.tokens = [] ∧ s.outstanding f.session f.mb < 64 ∧ x.txSeq.toNat + 65536 < 2 ^ 32) :
    Admitted s (tagged f) x := by
  obtain ⟨a, b, c, d, e, g, i, j, k, l, m, n, o, p, q, r⟩ := h
  refine ⟨a, b, c, d, e, g, i, ?_, k, l, ?_, n, o, by simp [p], by simp [Session.stale, Session.topToken, p], q, r⟩
  · simp only [Bool.and_eq_true] at j
    simp only [Session.accepts, Bool.and_eq_true, Bool.or_eq_true]
    exact ⟨⟨⟨j.1, tagOk_tagged f hx⟩, j.2⟩, .inl k⟩
  · have e' : f.prot = true := e
    simp only [Frame.clean, Bool.and_eq_true] at m ⊢
    exact ⟨m.1, by have : (tagged f).prot = true := e; simp [this]⟩


/-! ### Witnesses: core commands -/

def simpleWords : List CmdWord :=
  [cw 0 0 [], cw 1 0 [(2 ^ 64 - 1, 32), (63, 122)], cw 8 0 [(1, 122)], cw 7 0 [], cw 7 0 [(0xFE, 120)], cw 9 0 [(2, 122)], cw 10 0 [(0, 120)], cw 10 0 [(3, 120)]]

theorem witness_sequencer_registers_and_sources :
    (∀ w ∈ simpleWords, Ready S 0 w ∧ Free S 0 [sdOf w] ∧ (S.ctx 0).maskIdle (cbits w 120 8) = true)
    ∧ S.coreJob 0 = some job1 ∧ job1.queues[0]? = some [7#64] ∧ job1.queues.getD 3 [] = [] :=
  ⟨all_of (p := fun w => readyB S 0 w && (S.ctx 0).regsReady [sdOf w] && (S.ctx 0).maskIdle (cbits w 120 8)) (by decide +kernel)
    (fun w h => by simp only [Bool.and_eq_true] at h; exact ⟨ready_of_readyB h.1.1, h.1.2, h.2⟩), by decide +kernel⟩

def aluWords : List CmdWord := [cw 2 0 [(1, 122), (2, 116), (3, 110)], cw 2 0 [(14, 104), (1, 109), (2 ^ 64 - 1, 32)]]

theorem witness_sequencer_arithmetic : ∀ w ∈ aluWords,
    Ready S 0 w ∧ opcodeOf w = 2 ∧ aluOp w < 15 ∧ Free S 0 ([sdOf w, aluA w] ++ if aluImm w then [] else [aluB w]) :=
  all_of (p := fun w => readyB S 0 w && decide (opcodeOf w = 2) && decide (aluOp w < 15) && (S.ctx 0).regsReady ([sdOf w, aluA w] ++ if aluImm w then [] else [aluB w]))
    (by decide +kernel) (fun w h => by simp only [Bool.and_eq_true, decide_eq_true_eq] at h; exact ⟨ready_of_readyB h.1.1.1, h.1.1.2, h.1.2, h.2⟩)

def memWords : List CmdWord := [cw 3 0 [(1, 122), (1, 121), (0x3FFFF8, 74)], cw 4 0 [(1, 122)]]

theorem witness_sequencer_memory : ∀ w ∈ memWords,
    Ready S 0 w ∧ Free S 0 (ldRegs w) ∧ ldAddress (S.ctx 0) w % ldSize w = 0 ∧ Unpegged S 0 w [(opcodeOf w == 4, ldAddress (S.ctx 0) w, ldSize w)] :=
  all_of (p := fun w => readyB S 0 w && (S.ctx 0).regsReady (ldRegs w) && decide (ldAddress (S.ctx 0) w % ldSize w = 0)
      && !(S.ctx 0).pegsBlock [(opcodeOf w == 4, ldAddress (S.ctx 0) w, ldSize w)]) (by decide +kernel)
    (fun w h => by simp only [Bool.and_eq_true, decide_eq_true_eq, Bool.not_eq_true'] at h; exact ⟨ready_of_readyB h.1.1.1, h.1.1.2, h.1.2, .inr h.2⟩)

/-- Two ranks, of which the other may have ended. -/
def S2 (ended : Bool) : State :=
  { S with jobs := [{ job1 with ranks := [{ entry := 0, footprint := 0, affinity := 0#8, core := some 0 }, { entry := 0, footprint := 0, affinity := 0#8, ended := ended }] }] }

/-- Loops over 0 and 4,095 passes, a skip of one command and one of 4,095. -/
def turnWords : List CmdWord :=
  [cw 5 0 [(1, 122), (1, 121), (2, 115), (1, 103)], cw 5 0 [(1, 122), (1, 121), (2, 115), (4095, 103), (4095, 64)], cw 6 0 [(1, 101)], cw 6 0 [(5, 113), (4095, 101)]]

theorem witness_sequencer_control_and_end :
    (∀ w ∈ turnWords, Ready S 0 w ∧ Free S 0 [loopIdx w, sdOf w, skipB w] ∧ 1 ≤ loopBody w + skipN w) ∧ (S.ctx 0).loops = []
    ∧ ∀ e ∈ [true, false], Ready (S2 e) 0 (cw 11 0 []) ∧ ((S2 e).ctx 0).idle = true ∧ ((S2 e).core 0).owner = .rank 9#32 0
      ∧ ((S2 e).job 9#32).map (fun j => (j.ranks.eraseIdx 0).map (·.ended)) = some [e] :=
  ⟨all_of (p := fun w => readyB S 0 w && (S.ctx 0).regsReady [loopIdx w, sdOf w, skipB w] && decide (1 ≤ loopBody w + skipN w)) (by decide +kernel)
    (fun w h => by simp only [Bool.and_eq_true, decide_eq_true_eq] at h; exact ⟨ready_of_readyB h.1.1, h.1.2, h.2⟩), by decide +kernel,
   all_of (p := fun e => readyB (S2 e) 0 (cw 11 0 []) && ((S2 e).ctx 0).idle && decide (((S2 e).core 0).owner = .rank 9#32 0)
      && decide (((S2 e).job 9#32).map (fun j => (j.ranks.eraseIdx 0).map (·.ended)) = some [e])) (by decide +kernel)
    (fun w h => by simp only [Bool.and_eq_true, decide_eq_true_eq] at h; exact ⟨ready_of_readyB h.1.1.1, h.1.1.2, h.1.2, h.2⟩)⟩

def engB (s : State) (c : CoreId) (w : CmdWord) : Bool :=
  let n := engNeed (s.ctx c) w ((engSel w).map (s.ctx c).engine)
  readyB s c w && (s.ctx c).regsReady n.regs && engSelOk w && ((engSel w).all fun e => !(s.ctx c).pvOwned e) && ((engSel w).all fun e => halfOk w ((s.ctx c).engine e))
    && n.ok && (decide (opcodeOf w ≠ 0x17) || imageHeaderOk (s.readCore c (imageAddr w) 64)) && ((engSel w).all fun e => !((s.ctx c).engine e).full (halfOf w)) && !(s.ctx c).pegsBlock (if bypassOf w then [] else n.ranges) && !zeroSize w

theorem engineReady_of {s : State} {c : CoreId} {w : CmdWord} (h : engB s c w = true) : EngineReady s c w := by
  simp only [engB, Bool.and_eq_true, Bool.or_eq_true, decide_eq_true_eq, Bool.not_eq_true', List.all_eq_true] at h
  obtain ⟨⟨⟨⟨⟨⟨⟨⟨⟨h1, h2⟩, h3⟩, h4⟩, h5⟩, h6⟩, hi⟩, h7⟩, h8⟩, h9⟩ := h
  exact ⟨ready_of_readyB h1, h2, h3, h4, h5, h6, fun o => hi.resolve_left (fun n => n o), h7, h8, h9⟩

/-- One engine command of each row: a tile of one cell, a group of four engines for ENG_SCALES, a copy-out to core memory. -/
def engWords : List CmdWord :=
  [cw 0x10 1 [(1, 62)], cw 0x11 2 [(1, 58)], cw 0x12 1 [(1, 77), (1, 70)], cw 0x13 1 [(1, 121), (1, 106), (1, 99), (512, 52)], cw 0x15 4 [(1, 96)],
   cw 0x16 1 [], cw 0x17 1 [], cw 0x18 1 [(3, 96)], cw 0x19 5 [(15, 124), (1, 119)]]

/-- A fill of `n` bytes at 0x1000. -/
def dFill (n : Nat) : List Byte := leBytes 8 1 |>.take 4 |>.append (leBytes 4 n ++ z 8 ++ leBytes 8 0x1000 ++ z 16 ++ leBytes 4 1 ++ z 20)
/-- `S` with that fill's descriptor at address 64 of core 0. -/
def SD (n : Nat) : State := S.writeCore 0 64 (dFill n)

theorem armReady_of {s : State} {c : CoreId} {w : CmdWord} (h : readyB s c w = true ∧ (dmaAddr w % 64 = 0 ∧ dmaAddr w + 64 ≤ 0x400000) ∧ s.deterministic c = false
    ∧ (ddOk (s.readCore c (dmaAddr w) 64) = true ∧ ddTargetOk (s.coreJob c) (s.readCore c (dmaAddr w) 64) = true)
    ∧ ((s.ctx c).addrLive (dmaAddr w) = false ∧ ((s.ctx c).chan (dmaCh w)).holder = none) ∧ (s.ctx c).pegsBlock [(false, dmaAddr w, 64)] = false
    ∧ (s.ctx c).pegsBlock ((false, dmaAddr w, 64) :: if bypassOf w then [] else ddRanges (s.readCore c (dmaAddr w) 64)) = false) :
    ArmReady s c w (s.readCore c (dmaAddr w) 64) := by
  obtain ⟨a, b, d, e, f, g, i⟩ := h
  exact ⟨ready_of_readyB a, rfl, b, fun q => (by rw [d] at q; cases q), e, f, g, i⟩

def withDesc (n : Nat) : State :=
  { SD n with cores := (SD n).cores.set 0 { owner := .rank 9#32 0, ctx := (({} : Ctx).setChan 7 { descs := [{ serial := 0, w := 0, addr := 0x100#22, bytes := z 64 }] }) } }

theorem noDmaWait_of {s : State} (h : Quiet s) : NoDmaWait s := fun c u us e => by rw [h c] at e; cases e

theorem witness_engine_and_dma_commands_issue :
    (∀ w ∈ engWords, EngineReady S 0 w)
    ∧ (NoDmaWait (SD 1) ∧ NoDmaWait (SD 0) ∧ NoDmaWait (withDesc 1))
    ∧ (ddEmpty (dFill 1) = false ∧ ArmReady (SD 1) 0 (cw 0x60 7 [(7, 125), (64, 103)]) (dFill 1) ∧ ((SD 1).ctx 0).chan 7 = {})
    ∧ (ddEmpty (dFill 0) = true ∧ ArmReady (SD 0) 0 (cw 0x61 7 [(7, 125), (64, 103)]) (dFill 0))
    ∧ (ArmReady (withDesc 1) 0 (cw 0x61 7 [(7, 125), (64, 103)]) (dFill 1) ∧ (((withDesc 1).ctx 0).chan 7).descs.length = 1)
    ∧ (∀ w ∈ [cw 0x62 7 [], cw 0x62 7 [(1, 64)], cw 0x63 7 [(15, 124), (1, 123), (2 ^ 32 - 1, 64)], cw 0x64 7 [(7, 125), (3, 96)]], Ready S 0 w ∧ Free S 0 [flagsSreg w])
    ∧ 0 ≤ ((S.ctx 0).stake 0 - 0#32).toInt ∧ ((S.ctx 0).stake 0 - 1#32).toInt < 0 :=
  ⟨fun w hw => engineReady_of (List.all_eq_true.mp (by decide +kernel : (engWords.all fun w => engB S 0 w) = true) w hw),
   ⟨noDmaWait_of (s := SD 1) (by unfold Quiet; decide +kernel), noDmaWait_of (s := SD 0) (by unfold Quiet; decide +kernel), noDmaWait_of (s := withDesc 1) (by unfold Quiet; decide +kernel)⟩,
   ⟨by decide +kernel, (by decide +kernel : (SD 1).readCore 0 64 64 = dFill 1) ▸ armReady_of (w := cw 0x60 7 [(7, 125), (64, 103)]) (by decide +kernel), by decide +kernel⟩,
   ⟨by decide +kernel, (by decide +kernel : (SD 0).readCore 0 64 64 = dFill 0) ▸ armReady_of (w := cw 0x61 7 [(7, 125), (64, 103)]) (by decide +kernel)⟩,
   ⟨(by decide +kernel : (withDesc 1).readCore 0 64 64 = dFill 1) ▸ armReady_of (w := cw 0x61 7 [(7, 125), (64, 103)]) (by decide +kernel), by decide +kernel⟩,
   all_of (p := fun w => readyB S 0 w && (S.ctx 0).regsReady [flagsSreg w]) (by decide +kernel)
     (fun w h => by simp only [Bool.and_eq_true] at h; exact ⟨ready_of_readyB h.1, h.2⟩), by decide +kernel⟩

/-- The state after a command. -/
def nx (i : Instr) (s : State) : State :=
  match exec i s with
  | .next t => t
  | _ => s

def w48 (n : Nat) : List Byte := leBytes 2 n ++ z 46

/-- `S` with a chain block of `n` tiles at address 256 and a stream descriptor of `n` planes of one element at 512. -/
def SV (n : Nat) : State :=
  (S.writeCore 0 256 (z 4 ++ w48 n ++ z 206)).writeCore 0 512
    ([1#8] ++ z 7 ++ leBytes 4 n ++ leBytes 4 1 ++ leBytes 4 1 ++ z 12 ++ (z 15 ++ [2#8]) ++ z 32 ++ leBytes 4 0x2000 ++ z 108)

def wChain := cw 0x30 6 [(256, 106)]
def wStream := cw 0x31 6 [(512, 106)]
def wBind (m : Nat) := cw 0x13 1 [(m, 106), (1, 99)]

theorem chainReady_of {s : State} {c : CoreId} {w : CmdWord} {hdr : List Byte}
    (h : readyB s c w = true ∧ opcodeOf w = 0x30 ∧ (vecAddr w % 64 = 0 ∧ vecAddr w + 256 ≤ 0x400000)
      ∧ chainFieldsOk (chainAt s c w) (s.readCore c (vecAddr w) 256) (s.jobPkgs c) = true ∧ (s.ctx c).regsReady (chainAt s c w).regs = true
      ∧ isatOk (s.ctx c) (chainAt s c w).stages = true ∧ (chainAt s c w).code = 0
      ∧ readHdr s c (chainAt s c w).out.hdr = some hdr
      ∧ (headerOk hdr = true ∧ chainHdrOk (chainAt s c w) hdr = true ∧ deferOk (chainAt s c w) hdr (chainFirst w) = true)
      ∧ chainRangesOk (chainAt s c w) hdr (chainFirst w) = true ∧ (s.ctx c).vec.length < 4
      ∧ (s.ctx c).pegsBlock (if bypassOf w then [] else (chainReads (chainAt s c w) hdr (chainFirst w)).map (fun r => (false, r))
              ++ (chainWrites (chainAt s c w) hdr (chainFirst w)).map (fun r => (true, r))) = false) : ChainReady s c w hdr := by
  obtain ⟨a, b, d, e, f, g, k, l, m, n, o, p⟩ := h
  exact ⟨ready_of_readyB a, b, d, e, f, g, by simp [k], by simp [k, isAttn], by simp [k], l, m, n, o, p, by simp [k, isSend]⟩

theorem streamReady_of {s : State} {c : CoreId} {w : CmdWord} {hdr : List Byte}
    (h : readyB s c w = true ∧ opcodeOf w = 0x31 ∧ (vecAddr w % 64 = 0 ∧ vecAddr w + 192 ≤ 0x400000)
      ∧ (streamResOk (s.readCore c (vecAddr w) 192) = true ∧ streamFieldsOk (streamAt s c w) = true)
      ∧ (s.ctx c).regsReady ((if (streamAt s c w).g.srcP = 1 then [(streamAt s c w).g.sregP] else [])
              ++ (if (streamAt s c w).g.srcQ = 1 then [(streamAt s c w).g.sregQ] else [])) = true
      ∧ isatOk (s.ctx c) [(streamAt s c w).g] = true ∧ readHdr s c (streamAt s c w).out.hdr = some hdr
      ∧ (headerOk hdr = true ∧ hdMode hdr ≠ 2 ∧ (hdMode hdr = 0 → (streamAt s c w).out.scale = 0) ∧ (scaledMode hdr = true → (streamAt s c w).planes = 1 ∧ (streamAt s c w).outLen hdr % hdG hdr = 0))
      ∧ streamRangesOk (streamAt s c w) hdr (streamFirst w) = true ∧ (s.ctx c).vec.length < 4
      ∧ (s.ctx c).pegsBlock (if bypassOf w then [] else (streamReads (streamAt s c w) (streamFirst w)).map (fun r => (false, r))
              ++ (streamWrites (streamAt s c w) hdr (streamFirst w)).map (fun r => (true, r))) = false) : StreamReady s c w hdr := by
  obtain ⟨a, b, d, e, f, g, k, l, m, n, o⟩ := h
  exact ⟨ready_of_readyB a, b, d, e, f, g, k, l, m, n, o⟩

theorem bindReady_of {s : State} {c : CoreId} {w : CmdWord}
    (h : readyB s c w = true ∧ opcodeOf w = 0x13 ∧ copyDest w = false ∧ (s.ctx c).regsReady (if copyMaskEn w then [copyMaskReg w] else []) = true ∧ engSelOk w = true
      ∧ (∀ e ∈ engSel w, (s.ctx c).pvOwned e = false) ∧ (∀ e ∈ engSel w, halfOk w ((s.ctx c).engine e) = true)
      ∧ (engNeed (s.ctx c) w ((engSel w).map (s.ctx c).engine)).ok = true
      ∧ (bindTo (s.ctx c)).any (fun v => (bindStatus v w (((s.ctx c).engine ((engSel w).headD 0)).part (halfOf w))).isNone) = true
      ∧ ∀ e ∈ engSel w, ((s.ctx c).engine e).full (halfOf w) = false) : ∃ v, BindReady s c w v := by
  obtain ⟨a, b, d, e, f, g, k, l, m, o⟩ := h
  match hv : bindTo (s.ctx c), m with
  | some v, m => exact ⟨v, ready_of_readyB a, b, d, e, f, g, k, l, hv, Option.isNone_iff_eq_none.mp m, o⟩

/-- After a chain of one tile has issued. -/
def SC : State := nx (.vecChain 0 wChain) (SV 1)

theorem witness_copyout_binds : ((∃ v, BindReady SC 0 (wBind 0) v) ∧ zeroSize (wBind 0) = true) ∧ (∃ v, BindReady SC 0 (wBind 1) v) ∧ zeroSize (wBind 1) = false :=
  ⟨⟨bindReady_of (by decide +kernel), by decide +kernel⟩, bindReady_of (by decide +kernel), by decide +kernel⟩

theorem witness_chain_issues : (ChainReady (SV 0) 0 wChain (z 64) ∧ (chainAt (SV 0) 0 wChain).count = 0)
    ∧ (ChainReady (SV 1) 0 wChain (z 64) ∧ (chainAt (SV 1) 0 wChain).count = 1) :=
  ⟨⟨chainReady_of (by decide +kernel), by decide +kernel⟩, ⟨chainReady_of (by decide +kernel), by decide +kernel⟩⟩

theorem witness_stream_issues : (StreamReady (SV 0) 0 wStream (z 64) ∧ (streamAt (SV 0) 0 wStream).tiles = 0)
    ∧ (StreamReady (SV 1) 0 wStream (z 64) ∧ (streamAt (SV 1) 0 wStream).tiles = 1) :=
  ⟨⟨streamReady_of (by decide +kernel), by decide +kernel⟩, ⟨streamReady_of (by decide +kernel), by decide +kernel⟩⟩

theorem witness_vector_flags : (Ready S 0 (cw 0x32 6 [(1, 121), (3, 96)]) ∧ (S.ctx 0).vec = [])
    ∧ (Ready SC 0 (cw 0x32 6 []) ∧ Free SC 0 [0] ∧ (SC.ctx 0).vec.map (fun o => (opcodeOf o.w, o.abort)) = [(0x30, none)]) :=
  ⟨⟨ready_of_readyB (by decide +kernel), by decide +kernel⟩,
   ⟨ready_of_readyB (by decide +kernel), (by decide +kernel : (SC.ctx 0).regsReady [0] = true), by decide +kernel⟩⟩

theorem witness_commands_rejected :
    (coreWord (.seqNop 0 (cw 0 0 [(1, 32)])) = some (0, cw 0 0 [(1, 32)]) ∧ (Instr.seqNop 0 (cw 0 0 [(1, 32)])).wf = true ∧ S.mayIssue 0 = true
      ∧ (S.ctx 0).waiting = [] ∧ (S.ctx 0).pegs = [] ∧ (S.core 0).owner = .rank 9#32 0 ∧ S.job 9#32 = some job1 ∧ job1.stop = none ∧ resClear (cw 0 0 [(1, 32)]) = false)
    ∧ (let s := { S with jobs := [{ job1 with deterministic := true }] }
       coreWord (.seqTime 0 (cw 8 0 [])) = some (0, cw 8 0 []) ∧ s.mayIssue 0 = true ∧ (s.job 9#32).map (fun j => j.deterministic && alwaysV 8) = some true) := by
  decide +kernel

/-! ### Witnesses: completions, DMA, jobs -/

/-- Engine commands with the engine that each goes to. -/
def engCmds : List (Instr × Fin 4) :=
  [(.engLoada 0 (cw 0x10 1 [(1, 62)]), 0), (.engStreamb 0 (cw 0x11 2 [(1, 58)]), 1), (.engCopyout 0 (cw 0x13 1 [(1, 121), (1, 106), (1, 99), (512, 52)]), 0),
   (.engSplit 0 (cw 0x15 4 [(1, 96)]), 3), (.engSave 0 (cw 0x16 1 []), 0), (.engRestore 0 (cw 0x17 1 []), 0), (.engFlags 0 (cw 0x18 1 [(1, 121), (3, 96)]), 0),
   (.engScales 0 (cw 0x19 5 [(15, 124), (1, 119)]), 2)]

/-- The command of an engine of core 0 that completes next. -/
def nextOf (s : State) (le : Fin 4) (up : Bool) : Option EngCmd :=
  (s.fillEngine 0 le.val (partOf ((s.ctx 0).engine le.val) up)).nextOn 0 le.val up

/-- A tile of one cell over one column and one row, its A column loaded. -/
def sTile (s : State) : State :=
  let s := nx (.engLoada 0 (cw 0x10 1 [(1, 62)])) s
  let s := nx (.engineCommandComplete 0 0 false 0#16) s
  let s := nx (.engStreamb 0 (cw 0x11 1 [(1, 58)])) s
  let s := nx (.engineCommandComplete 0 0 false 0#16) s
  nx (.engTile 0 (cw 0x12 1 [(1, 84), (1, 77), (1, 70)])) s

/-- A group-mode tile of 32 columns whose scale blocks carry tag 0 where 1 is due. -/
def sSkew : State :=
  let s := nx (.engScales 0 (cw 0x19 1 [(1, 115), (0x1000, 74), (0x2000, 52)])) S
  let s := nx (.engineCommandComplete 0 0 false 0#16) s
  let s := nx (.engLoada 0 (cw 0x10 1 [(32, 62), (64, 40)])) s
  let s := nx (.engineCommandComplete 0 0 false 0#16) s
  let s := nx (.engStreamb 0 (cw 0x11 1 [(32, 58), (64, 36)])) s
  nx (.engTile 0 (cw 0x12 1 [(1, 108), (32, 84), (1, 77), (1, 70)])) s

/-- After an empty copy-out to the chain of `SC`. -/
def sBound : State := nx (.engCopyout 0 (wBind 0)) SC
def sStream : State := nx (.vecStream 0 wStream) (SV 1)

theorem witness_engine_and_vector_complete :
    (∀ p ∈ engCmds, (nx p.1 S).unitsRun 0 = true
      ∧ ∃ q, nextOf (nx p.1 S) p.2 false = some q ∧ opcodeOf q.w ≠ 0x12 ∧ (nx p.1 S).awaitsRepair 0 q = false)
    ∧ ((nextOf (nx (.engCopyout 0 (wBind 1)) SC) 0 false).map fun q => (opcodeOf q.w, copyDest q.w)) = some (0x13, false)
    ∧ (sBound.unitsRun 0 = true ∧ (sBound.ctx 0).vec.map (fun o => (opcodeOf o.w, (chainOf o.blk).code, (chainOf o.blk).src, chainGoes (sBound.ctx 0) o (chainOf o.blk))) = [(0x30, 0, false, true)])
    ∧ ((SC.ctx 0).vec.map (fun o => (opcodeOf o.w, chainReady o (chainOf o.blk), o.sends)) = [(0x30, false, [])] ∧ SC.unitsRun 0 = true)
    ∧ ((sStream.ctx 0).vec.map (fun o => opcodeOf o.w) = [0x31] ∧ sStream.unitsRun 0 = true) :=
  ⟨all_of (p := fun p => (nx p.1 S).unitsRun 0 && (nextOf (nx p.1 S) p.2 false).any (fun q => decide (opcodeOf q.w ≠ 0x12) && !(nx p.1 S).awaitsRepair 0 q)) (by decide +kernel)
    (fun p h => by
      simp only [Bool.and_eq_true, Option.any_eq_true, decide_eq_true_eq, Bool.not_eq_true'] at h
      exact ⟨h.1, h.2⟩), by decide +kernel⟩

theorem witness_tile_completes_or_aborts :
    (let v := (sTile S).fillEngine 0 0 (partOf (((sTile S).ctx 0).engine 0) false)
     let g := (v.ctx 0).engine 0
     (v.nextOn 0 0 false).any (fun q => decide (opcodeOf q.w = 0x12 ∧ tileSkew v 0 q = none ∧ tileWorks q.w = true ∧ (sTile S).awaitsRepair 0 q = false
        ∧ (pullRows (v.rowReader 0) q.half (tileK q.w + 1) (tileK q.w) g.queue (g.part q.half).fifo).1.length = tileK q.w)) = true
      ∧ (sTile S).unitsRun 0 = true)
    ∧ (let s := nx (.engTile 0 (cw 0x12 1 [(1, 77), (1, 70)])) S
       (nextOf s 0 false).any (fun q => !tileWorks q.w && decide (0 < tileM q.w) && decide (0 < tileN q.w)) = true)
    ∧ (sSkew.skewedTile 0 0 false).isSome = true ∧ sSkew.unitsRun 0 = true := by decide +kernel

/-- A descriptor of one row of 8 bytes: op 0 copies 0x2000 to 0x1000, op 1 fills; `sp` 2 makes the destination a virtual address. -/
def dRow (op sp : Nat) : List Byte :=
  leBytes 1 op ++ leBytes 1 sp ++ z 2 ++ leBytes 4 8 ++ leBytes 8 (if op = 1 then 0 else 0x2000) ++ leBytes 8 0x1000 ++ z 16 ++ leBytes 4 1 ++ z 20

/-- `S` after that descriptor is armed on channel 7; the job's tables start at `root`. -/
def SA (root : Nat) (op sp : Nat) : State :=
  let s := nx (.dmaArm 0 (cw 0x60 7 [(7, 125), (64, 103)])) (S.writeCore 0 64 (dRow op sp))
  { s with cores := s.cores.set 0 { s.core 0 with ptRoot := BitVec.ofNat 64 root }, jobs := [{ job1 with root := BitVec.ofNat 42 root }] }

/-- The table entries that map the bottom of the virtual space to a physical address. -/
def ptes (leaf : Nat) : List (PhysAddr × Dword) := [(0x10000#42, 0x11001#64), (0x11000#42, BitVec.ofNat 64 (leaf + 7))]
def withPtes (leaf : Nat) (s : State) : State := (ptes leaf).foldl (fun (t : State) p => t.writePhys p.1.toNat (leBytes 8 p.2.toNat)) s

/-- The destination page is core 0's own memory, where another command's peg stands. -/
def SHeld : State :=
  (withPtes (coreAddr 0 0) (SA 0x10000 0 2)).modCtx 0 fun x =>
    { x with pegs := x.pegs ++ [{ serial := 99, write := true, owner := 1#4, half := 0#2, base := 0x1000, len := 8 }] }

def outcome (s : State) : Option Progress := (s.runChannel 0 7).map (·.2)

theorem witness_descriptor_completes_or_strikes :
    (∀ op ∈ [0, 1], ((SA 0x10000 op 0).unitsRun 0 = true ∧ ∀ k, ((SA 0x10000 op 0).ctx k).waiting = [])
      ∧ ((SA 0x10000 op 0).ctx 0).chan 7 = { descs := ((SA 0x10000 op 0).ctx 0).chan 7 |>.descs, addr := 64#22 }
      ∧ (((SA 0x10000 op 0).ctx 0).chan 7).descs.map (fun d => (ddNfy d.bytes, ddRows d.bytes, ddOp d.bytes, d.ahead)) = [(false, 1, op, [])]
      ∧ outcome (SA 0x10000 op 0) = some .done)
    ∧ outcome (SA 0x3FFFFFFF000 1 2) = some (.err 0 0 0x0307#16) ∧ ((SA 0x3FFFFFFF000 1 2).job 9#32).map (fun j => (j.phase, j.carrier)) = some (.running, none)
    ∧ (∀ k, ((SA 0x3FFFFFFF000 1 2).ctx k).waiting = []) ∧ (SA 0x3FFFFFFF000 1 2).unitsRun 0 = true
    ∧ outcome SHeld = some (.held 0 0) ∧ SHeld.unitsRun 0 = true ∧ ((SHeld.ctx 0).chan 7).susp = false := by decide +kernel

def SF : State := nx (.pageFault 0 7) (SA 0x10000 1 2)

theorem witness_page_faults :
    (outcome (SA 0x10000 1 2) = some (.fault 0 0 0x1000) ∧ (((SA 0x10000 1 2).ctx 0).chan 7).susp = false ∧ (SA 0x10000 1 2).unitsRun 0 = true
      ∧ (SA 0x10000 1 2).pinned 0 = false ∧ ∀ k, ((SA 0x10000 1 2).ctx k).waiting = [])
    ∧ (SF.suspendedOn 9#32 (fun a => a / 4096 == 0x1000 / 4096) = true ∧ SF.suspendedOn 9#32 (fun _ => true) = true ∧ (SF.job 9#32).map (·.phase) = some .running
      ∧ (withPtes 0 SF).mapped 0x10000#42 0x1000 = true ∧ ((SF.ctx 0).chan 7).susp = true ∧ ((SF.ctx 0).chan 7).faultVa = 0x1000#48
      ∧ ∀ k, (SF.ctx k).waiting = []) := by
  decide +kernel

/-- `S` with its job still queued. -/
def SQ : State := { S with cores := State.reset.cores, jobs := [{ job1 with phase := .queued, held := [] }] }

theorem witness_job_starts : SQ.nextPlaced.map (·.ranks.length) = some 1 ∧ SQ.coreFree 31 = true
    ∧ (SQ.nextPlaced.any fun j => j.ranks.all fun r => SQ.rankFits r 0) = true ∧ SQ.coreFree 0 = true := by decide +kernel

/-- Core 0 asked to stop, at its preemption point, and saved. -/
def SP (n : Nat) : State :=
  let s := { S with cores := S.cores.set 0 { owner := .rank 9#32 0, preempt := [.host] } }
  if n = 0 then s else if n = 1 then nx (.preemptionPoint 0) s else nx (.saveComplete 0 0x08000020000#42) (nx (.preemptionPoint 0) s)

theorem witness_preempt_save_resume :
    ((((SP 0).core 0).owner = .rank 9#32 0 ∧ ((SP 0).core 0).preempt = [.host] ∧ ((SP 0).core 0).atPoint = false ∧ ∀ k, ((SP 0).ctx k).waiting = [])
      ∧ (SP 0).mustFinish 0 = false ∧ (((SP 0).stopUnits 0).core 0).preempt = [.host] ∧ ∀ ch, ch < 8 → (((SP 0).ctx 0).chan ch).descs = [])
    ∧ (((SP 1).core 0).owner = .rank 9#32 0 ∧ ((SP 1).core 0).atPoint = true ∧ ((SP 1).job 9#32).map (·.ranks.length) = some 1 ∧ (SP 1).areaFree 0x08000020000 = true
      ∧ (SP 1).skewed 9#32 = false)
    ∧ ((SP 2).job 9#32).any (fun j => j.ranks.any fun q => q.saved.any (fun x => x.waiting.isEmpty) && decide (q.home = 0) && (SP 2).mayResume j q 0) = true
    ∧ ∀ k, ((SP 2).ctx k).waiting = [] := by decide +kernel

/-- A job that was stopped, and one that ended with regions to scrub. -/
def SK : State := { S with jobs := [{ job1 with stop := some 0x0204#16 }] }
def SZ : State :=
  { S with jobs := [{ job1 with phase := .ended, scrub := [.coreMem, .saveArea, .dieMem, .ddrFrames], pages := [(0x10000, 65536), (0x08000000000, 4096)],
                                ranks := [{ entry := 0, footprint := 4096, affinity := 0#8, area := 0x08000020000 }] }] }

theorem witness_strike_and_scrub : (SK.job 9#32).any (fun j => j.phase == .running && j.stop == some 0x0204#16 && j.carrier.isNone && SK.jobQuiet j) = true ∧ (∀ k, (SK.ctx k).waiting = [])
    ∧ (SZ.job 9#32).map (·.scrub) = some [.coreMem, .saveArea, .dieMem, .ddrFrames] ∧ (SZ.job 9#32).map (·.held) = some [0]
    ∧ (SZ.job 9#32).map (fun j => j.ranks.map (·.area)) = some [0x08000020000] ∧ (SZ.job 9#32).map (fun j => j.pages.map fun p => isDdr p.1) = some [true, false] := by decide +kernel

theorem witness_engine_faults :
    ((sTile S).faultSlot 0 0 false).map (fun p => (p.2, ((sTile S).slot p.2).faults24h (sTile S).nowNs)) = some (0, 0)
    ∧ (let s := nx (.engineFault 0 0 false none) (sTile S)
       (s.faultSlot 0 0 false).map (fun p => (p.2, (s.slot p.2).faults24h s.nowNs)) = some (0, 1) ∧ ∀ k, (s.ctx k).waiting = []) := by decide +kernel

/-- `S` with a carrier's floor core 4, at whose slot a lag is seen. -/
def SL : State := { S with carriers := S.carriers.set 0 { cfg := some (z 164), floor := [4] }, cores := S.cores.set 4 { owner := .carrier 0 } }

theorem witness_slots_retire_and_map :
    (∀ k, (S.ctx k).waiting = []) ∧ (S.slot 17).state ≠ .active ∧ (S.slot 0).state = .active ∧ S.carrierSlot 0 = false
    ∧ (S.slot 16).state = .spare ∧ (∀ k, (SL.ctx k).waiting = []) ∧ SL.carrierSlot 18 = true ∧ (SL.slot 18).state = .active
    ∧ fieldsBad (fieldsOf 0#64 0#64) 0 = true ∧ fieldsBad (fieldsOf sparemapReset sparemap0Reset) 0 = false
    ∧ S.atBoundary 0 0 = true ∧ (sTile S).atBoundary 0 0 = false ∧ (sTile S).atBoundary 0 1 = true ∧ (∀ k, ((sTile S).ctx k).waiting = []) := by decide +kernel

/-- Fifteen corrected errors of frame 1 of die 0. -/
def SE : State := { S with dies := S.dies.set 0 { corrAt := List.replicate 15 (1, 0) } }

theorem witness_memory_errors :
    (∀ k, (S.ctx k).waiting = []) ∧ (S.jobs.find? (fun j => S.jobMaps j (coreAddr 0 0))).map (·.id) = some 9#32 ∧ (BitVec.ofNat 42 (coreAddr 0 0)).toNat = coreAddr 0 0
    ∧ SE.onDdr 0 0x10000 = true ∧ (SE.dies.get 0).corrAt.countP (fun p => decide (SE.nowNs < p.2 + 86400000000000) && p.1 == 0x10000 / 65536) = 15
    ∧ SE.onDdr 0 0x20000 = true ∧ (SE.dies.get 0).corrAt.countP (fun p => decide (SE.nowNs < p.2 + 86400000000000) && p.1 == 0x20000 / 65536) = 0
    ∧ SE.jobs.find? (fun j => SE.jobMaps j 0x10000) = none := by decide +kernel

/-! ### Witnesses: carriers, the front end, learning -/

/-- A cell.configure payload (Table 16-9): 51 PRBs of 30 kHz, RX and TX path 0, home cluster 1. TDD modes have a period of one slot with symbols 0 to 6
down, 7 to 9 flexible, 10 to 13 up. -/
def cellB (mode : Nat) : List Byte :=
  let tdd := mode == 1 || mode == 3
  [0#8, BitVec.ofNat 8 mode, 1#8, 0x10#8] ++ leBytes 2 51 ++ [1#8, 1#8] ++ leBytes 8 1 ++ leBytes 8 1 ++ z 16 ++ leBytes 2 0xFFFF ++ z 10 ++ leBytes 2 0x0808 ++ leBytes 2 1
    ++ z 4 ++ leBytes 4 100 ++ z 2 ++ [if tdd then 1#8 else 0#8, 0#8]
    ++ leBytes 80 (if tdd then 2 * (2 ^ 14 + 2 ^ 16 + 2 ^ 18) + (2 ^ 20 + 2 ^ 22 + 2 ^ 24 + 2 ^ 26) else 0) ++ z 4 ++ [if 3 ≤ mode then 8#8 else 0#8] ++ z 15

/-- A carrier that is on the air in slot 0, with its schedules. -/
def car (mode : Nat) (ul dl : List Sched) : Carrier :=
  { cfg := some (cellB mode), started := true, home := 1, floor := [4], ul := ul, dl := dl, policy := policyDefault 0 }
/-- `S` with that carrier as carrier 0 on core 4. -/
def SX (x : Carrier) : State := { S with carriers := S.carriers.set 0 x, cores := S.cores.set 4 { owner := .carrier 0 } }

def slot0 : Word := 0x10000000#32
def pdu (typ : Nat) (rest : List Byte) : Pdu := { bytes := [BitVec.ofNat 8 typ, 0x28#8] ++ rest ++ z (38 - rest.length) }
def sch (ps : List Pdu) : Sched := { slot := slot0, parts := 1, got := [(0, 0, ps)], ready := true, pdus := ps, pol := policyDefault 0 }

/-- The running slot 0 with one PUSCH block that has ended; one PDU each of PUCCH, PRACH and SRS; one PUSCH with a HARQ-ACK bit; one PDSCH of 8 bytes
in four PRBs of every symbol. -/
def SU (rx : Nat) : State := SX (car 2 [{ sch [pdu 1 []] with ended := true, rx := rx }] [])
def SR (typ store : Nat) : State := SX (car 2 [sch [pdu typ (if typ = 4 then z 9 ++ [BitVec.ofNat 8 store] else [])]] [])
def SUci (n : Nat) : State := SX (car 2 [sch [pdu 1 (z 26 ++ [BitVec.ofNat 8 n])]] [])
def SDl : State := SX (car 2 [] [sch [pdu 1 ([0#8, 0#8, 0#8, 1#8, 0#8, 0#8, 4#8, 0#8, 0x0E#8] ++ z 9 ++ leBytes 4 8)]])

theorem witness_arbitration_follows_table :
    (∀ rx ∈ [0, 1, 2], (findSched ((SU rx).carrier 0).ul slot0).any (fun q => q.ready && !q.late && q.ended && !q.closed && decide (q.rx = rx)
        && q.pdus[0]?.any fun p => !p.decided && p.typ == 1) = true ∧ (SU rx).twin.role ≠ .standby)
    ∧ (S.learnedPath 0 slot0 0#32 (pdu 1 [])).isNone = true := by decide +kernel

theorem witness_uplink_reports :
    (∀ typ ∈ [2, 3, 4], ∀ store ∈ [0, 1], ((SR typ store).ulPdu 0 slot0 0).map (fun p => (p.decided, p.typ, if typ = 4 then p.nat 0x0B 1 else store)) = some (false, typ, store))
    ∧ ∀ n ∈ [0, 1], ((SUci n).ulPdu 0 slot0 0).map (fun p => (p.typ, p.hasUci, p.status)) = some (1, n == 1, 0x0000#16) := by decide +kernel

def wSlot (typ : Nat) (b : List Byte) : Frame := req2 typ b
/-- One part of a schedule of one part, with one PDU of two bytes; bytes of a transport block of 8 bytes: all of them, and past its end. -/
def partF (typ : Nat) : Frame := req2 typ (leBytes 4 slot0.toNat ++ leBytes 2 1 ++ leBytes 2 2 ++ [0#8, 1#8] ++ z 6 ++ [1#8, 2#8])
def tbF (off : Nat) : Frame := req2 0x0A29 (leBytes 4 slot0.toNat ++ z 4 ++ leBytes 4 8 ++ leBytes 4 off ++ leBytes 2 8 ++ z 14 ++ List.replicate 8 0xFF#8)

def slottedB (s : State) (f : Frame) : Bool :=
  s.boot.phase == .running && s.reaches f && f.wellFormed && isPort100G f.port && f.prot
    && (s.session f.session).any (fun x => x.port == f.port && x.fresh f.seq && x.isOpen && x.keys.isEmpty && !x.claim) && f.clean

theorem slotted_of {s : State} {f : Frame} (h : slottedB s f = true) : ∃ x, Slotted s (tagged f) x := by
  simp only [slottedB, Bool.and_eq_true, Option.any_eq_true, Bool.not_eq_true', beq_iff_eq, List.isEmpty_iff] at h
  obtain ⟨⟨⟨⟨⟨⟨a, b⟩, c⟩, d⟩, e⟩, x, hx, ⟨⟨⟨g, g'⟩, go⟩, gk⟩, k⟩, l⟩ := h
  refine ⟨x, a, b, c, d, e, hx, ?_, k, ?_⟩
  · simp only [Session.accepts, Bool.and_eq_true, Bool.or_eq_true, beq_iff_eq]
    exact ⟨⟨⟨g, tagOk_tagged f gk⟩, g'⟩, .inl go⟩
  · have e' : (tagged f).prot = true := e
    simp only [Frame.clean, Bool.and_eq_true] at l ⊢
    exact ⟨l.1, by simp [e']⟩

theorem witness_schedules_arrive : (∀ f ∈ [partF 0x0A20, partF 0x0A28], (∃ x, Slotted (SX (car 2 [] [])) (tagged f) x) ∧ ((SX (car 2 [] [])).touch (tagged f)).partOk (tagged f) = true
        ∧ ((SX (car 2 [] [])).carrier 0).inPast (SX (car 2 [] [])).nowNs slot0 = false)
    ∧ ∀ off ∈ [0, 8], (∃ x, Slotted SDl (tagged (tbF off)) x) ∧ tbOk (tbF off).payload = true ∧ refOk (SDl.carrier 0).conf slot0 = true ∧ (tbF off).port = cfgPort (SDl.carrier 0).conf
      ∧ ((SDl.carrier 0).cfg.isSome = true ∧ (SDl.carrier 0).removing = false ∧ (SDl.carrier 0).inPast SDl.nowNs slot0 = false)
      ∧ (findSched (SDl.carrier 0).dl slot0).any (fun q => !q.late && !q.ended && q.ready && q.pdus[0]?.any fun p => p.typ == 1 && !p.decided && p.tbs == 8) = true :=
  ⟨all_of (p := fun f => slottedB (SX (car 2 [] [])) f && ((SX (car 2 [] [])).touch (tagged f)).partOk (tagged f) && !((SX (car 2 [] [])).carrier 0).inPast (SX (car 2 [] [])).nowNs slot0)
    (by decide +kernel) (fun f h => by simp only [Bool.and_eq_true, Bool.not_eq_true'] at h; exact ⟨slotted_of h.1.1, h.1.2, h.2⟩),
   all_of (p := fun off => slottedB SDl (tbF off) && decide (tbOk (tbF off).payload = true ∧ refOk (SDl.carrier 0).conf slot0 = true ∧ (tbF off).port = cfgPort (SDl.carrier 0).conf
      ∧ ((SDl.carrier 0).cfg.isSome = true ∧ (SDl.carrier 0).removing = false ∧ (SDl.carrier 0).inPast SDl.nowNs slot0 = false)
      ∧ (findSched (SDl.carrier 0).dl slot0).any (fun q => !q.late && !q.ended && q.ready && q.pdus[0]?.any fun p => p.typ == 1 && !p.decided && p.tbs == 8) = true))
    (by decide +kernel) (fun f h => by simp only [Bool.and_eq_true, decide_eq_true_eq] at h; exact ⟨slotted_of h.1, h.2⟩)⟩

theorem witness_schedules_are_late :
    (let x := (SX (car 2 [] [])).carrier 0
     x.cfg.isSome = true ∧ ((findSched x.ul slot0).getD { slot := slot0 }).slot = slot0 ∧ ((findSched x.dl slot0).getD { slot := slot0 }).ready = false)
    ∧ (findSched (SDl.carrier 0).dl slot0).any (fun q => !q.late && !q.ended && q.ready && q.pdus[0]?.any fun p => p.typ == 1 && !p.decided && p.tbs == 8) = true := by decide +kernel

/-- The last slot before `slot0` runs, with a schedule. -/
def SLast : State := SX { car 2 [{ sch [pdu 1 []] with slot := slotRef 0 (cellB 2) 20479 }] [] with slotIx := 20479 }

theorem witness_deadline_and_boundary :
    (((SU 0).carrier 0).cfg.isSome = true ∧ (findSched ((SU 0).carrier 0).ul slot0).map (fun q => (q.ended, q.closed)) = some (true, false) ∧ (SU 0).twin.role ≠ .standby)
    ∧ (∀ c, ((SU 0).ctx c).waiting = []) ∧ (S.carrier 0).cfg = none ∧ ((SU 0).carrier 0).removing = false ∧ ((SU 0).carrier 0).firstIx ≤ 20480
    ∧ ((SX { car 2 [] [] with removing := true }).carrier 0).removing = true ∧ ((SX { car 2 [] [] with removing := true }).trainingJob 0).isNone = true
    ∧ ((SX { car 2 [] [] with firstIx := 20481 }).carrier 0).firstIx = 20481
    ∧ max (slotAt ((SU 0).carrier 0).conf (SU 0).nowNs) (((SU 0).carrier 0).slotIx + 1) = 20480
    ∧ (∀ c, (SLast.ctx c).waiting = []) ∧ max (slotAt (SLast.carrier 0).conf SLast.nowNs) ((SLast.carrier 0).slotIx + 1) = 20480
    ∧ ((SLast.carrier 0).started = true ∧ (SLast.carrier 0).change.isNone = true ∧ cfgMu (SLast.carrier 0).conf < 2 ∧ (findSched (SLast.carrier 0).ul (SLast.nowRef 0)).isSome = true)
    ∧ (SLast.carrier 0).live.isNone = true ∧ (SLast.carrier 0).swap.isNone = true := by decide +kernel

theorem witness_front_end_symbols :
    (∀ m ∈ [2, 4], (∀ c, ((SX (car m [] [])).ctx c).waiting = []) ∧ (SX (car m [] [])).onAir 0 = true ∧ cfg72 ((SX (car m [] [])).carrier 0).conf = (m == 4)
      ∧ symUp ((SX (car m [] [])).carrier 0).conf 0 13 = true ∧ symDown ((SX (car m [] [])).carrier 0).conf 0 13 = true ∧ ((SX (car m [] [])).carrier 0).floor.Nodup)
    ∧ (let x := (SX (car 1 [] [])).carrier 0; symDown x.conf 0 6 = true ∧ symDown x.conf 0 7 = false ∧ symUp x.conf 0 9 = false ∧ symUp x.conf 0 10 = true)
    ∧ SDl.onAir 0 = true ∧ (findSched (SDl.carrier 0).dl (SDl.nowRef 0)).any (fun q => !q.late && q.pdus[0]?.any fun p => !p.decided && (occupied (SDl.carrier 0) p).inSym 13) = true := by
  decide +kernel

/-- Carrier 0 with path 0 measured at a level, with overrange samples. -/
def SAgc (level : Int) (clips : Nat) : State := SX { car 2 [] [] with meas := [{ path := 0, level := some level, clips := clips }] }

theorem witness_agc_follows_rule :
    (∀ p ∈ [((-54 : Int), 0), (-88, 0), (-70, 0), (-70, 1000)], let s := SAgc p.1 p.2; let r := (s.dfe.agcOf 0).toNat
      s.onAir 0 = true ∧ s.twin.role ≠ .standby ∧ cfg72 (s.carrier 0).conf = false ∧ r.testBit 42 = false ∧ (s.carrier 0).gainNext = []
      ∧ (s.carrier 0).meas.map (fun m => (m.path, m.level, m.clips)) = [(0, some p.1, p.2)] ∧ bitsOf r 48 5 ≤ bitsOf r 53 5
      ∧ (p.2 = 1000 → bitsOf r 31 4 ≤ p.2))
    ∧ (({ car 2 [] [] with gainNext := [(0, 31)] } : Carrier).gainNext.find? fun q => q.1 == 0) = some (0, 31)
    ∧ (cfgRx ((SX (car 2 [] [])).carrier 0).conf).testBit 0 = true ∧ ∀ m : CarrierId, m ≠ 0 → ((SX (car 2 [] [])).carrier m).cfg = none := by decide +kernel

/-- The mask monitor of band 0 on, with a limit and a mute after `n` violations; a mute clear and DPD adaptation on path 0 waiting. -/
def SM (limit n : Nat) (d : Dpd) : State :=
  let s := SX (car 2 [] [])
  { s with dfe := { s.dfe with mask := s.dfe.mask.set 0 (BitVec.ofNat 64 (2 ^ 63 + limit * 2 ^ 19 + n * 2 ^ 14 + 2 ^ 13)), queued := [(0, 11, 0, 1#64)],
                               dpdReg := s.dfe.dpdReg.set 0 0x29A#32, dpd := s.dfe.dpd.set 0 d } }

theorem witness_mask_monitor_and_dpd :
    (∀ limit ∈ [450, 100], ∀ n ∈ [1, 15], ∀ fresh ∈ [true, false],
      let s := SM limit n { fresh := fresh, prev := some [] }
      s.twin.role ≠ .standby ∧ s.onAir 0 = true ∧ cfg72 (s.carrier 0).conf = false ∧ (cfgTx (s.carrier 0).conf).testBit 0 = true
      ∧ (lastDown (s.carrier 0).conf (s.carrier 0).slotIx).isSome = true ∧ (s.dfe.maskOf 0).toNat.testBit 63 = true
      ∧ (s.dfe.maskOf 0).toNat.testBit 18 = false ∧ bitsOf (s.dfe.maskOf 0).toNat 14 4 = n ∧ (s.dfe.viol.get 0).toNat = 0
      ∧ (∀ b, b < 4 → 1 ≤ b → (s.dfe.maskOf b).toNat.testBit 63 = false)
      ∧ (s.dfe.dpdSet 0).fresh = fresh ∧ (s.dfe.dpdSet 0).prev = some [])
    ∧ (((SM 450 1 {}).carrier 0).aclr ((SM 450 1 {}).dfe.maskOf 0).toNat 245760000 [(1, 0)]).any (fun a => decide (100 ≤ a ∧ a < 450)) = true
    ∧ (∃ e ∈ (SM 450 1 {}).dfe.queued, e.2.1 = 11 ∧ e.2.2.1 = 0)
    ∧ (SM 450 1 {}).txCarrier 0 = some 0 ∧ ((SM 450 1 {}).dfe.dpdOf 0).getLsbD 9 = true ∧ ((SM 450 1 {}).dfe.dpdOf 0).getLsbD 8 = false
    ∧ linkFast (txOpt (SM 450 1 {}).dfe.jsCfg) = true ∧ obsEn (SM 450 1 {}).dfe.jsCfg = true ∧ dpdTerms ((SM 450 1 {}).dfe.dpdOf 0).toNat = 21
    ∧ (SM 450 1 {}).dfe.dpdSet 0 = {} :=
  ⟨by decide +kernel, by decide +kernel⟩

theorem witness_lanes_and_uplane :
    (S.dfe.aligned = false ∧ S.laneUsed 0 = true ∧ S.laneUsed 17 = true ∧ S.dfe.locked.getLsbD 17 = true ∧ (0x30000#64).getLsbD 16 = true)
    ∧ (let s := SX (car 4 [] []); let x := s.carrier 0
       s.onAir 0 = true ∧ cfg72 x.conf = true ∧ (cfgRx x.conf).testBit 0 = true ∧ symUp x.conf x.slotIx 0 = true ∧ usField x.conf 0x9E 20 = 20000 ∧ usField x.conf 0xA0 43 = 43000) := by
  decide +kernel

/-- The beacon on, with a chip rate code, and RX lanes with or without lock. -/
def SB (rate : Nat) (lock : Bool) (cal : Cal) : State :=
  let s := SX { car 1 [] [] with cal := cal }
  { s with dfe := { s.dfe with calReg := s.dfe.calReg.set 0 (BitVec.ofNat 64 (2 ^ 63 + 3 * 2 ^ 61 + rate * 2 ^ 58 + 40 * 2 ^ 50 + 2 ^ 20 + 16 * 2 ^ 15 + 15 * 2 ^ 11)),
                               locked := if lock then s.dfe.locked else 0#18 } }

theorem witness_beacon_bursts_and_results :
    (∀ rate ∈ [0, 5], let s := SB rate true {}; let x := s.carrier 0; let reg := s.dfe.calOf 0
      s.onAir 0 = true ∧ s.twin.role ≠ .standby ∧ cfgMode x.conf = 1 ∧ calEn reg = true ∧ (guardLen x.conf x.slotIx 7).isSome = true
      ∧ guardNumber x.conf x.firstIx x.slotIx 7 % max 1 (bitsOf reg.toNat 20 4) = 0
      ∧ decide (2 ≤ burstRoom x.conf (s.dfe.rampOf 0) (bitsOf (s.dfe.agcOf 0).toNat 0 8) (nextRound x 0 reg).1.rx (calRate (nextRound x 0 reg).1.reg)
          ((guardLen x.conf x.slotIx 7).getD 0)) = (rate == 0))
    ∧ ((SB 0 true {}).calLanes 0 false = true ∧ (SB 0 false {}).calLanes 0 false = false)
    ∧ (let r := (nextRound ((SB 0 true {}).carrier 0) 0 ((SB 0 true {}).dfe.calOf 0)).1; r.sentSym + 1 < r.symbols)
    ∧ ∀ a ∈ [true, false], (((SB 0 true { done := [{ round := 5#16, rx := a, reg := 0#64, paths := [0], frames := [], aborted := a }] }).carrier 0).cal.done.map (·.aborted)) = [a] := by
  decide +kernel

def model1 : Model := { id := 4#32, image := z 4, digest := 7#384, trec := z 4 }
/-- A policy that captures every block, trains, and asks for no more records than there are, and for an evaluation of `eval` records. -/
def polTrain (need eval : Nat) : List Byte :=
  [0#8, 3#8, 0xFF#8, 0xFF#8] ++ ((policyDefault 0).drop 4).take 0x14 ++ leBytes 4 eval ++ ((policyDefault 0).drop 0x1C).take 0x0A ++ leBytes 2 60 ++ [2#8, 1#8] ++ leBytes 2 need
    ++ (policyDefault 0).drop 0x2C
def carT (need eval : Nat) : Carrier :=
  { car 2 [{ sch [{ pdu 1 [0x00#8, 0x00#8, 0x00#8, 0x00#8, 0#8, 0#8, 4#8, 0#8, 0x0E#8, 1#8] with decided := true, feat := [(0, z 5760)] }] with
        ended := true, closed := true, pol := polTrain need eval }] []
    with policy := polTrain need eval, live := some model1 }
/-- A training job of carrier 0 that runs, or has ended. -/
def trained (eval : Nat) (ended : Bool) : State :=
  let s := nx (.trainSubmit 0) (SX (carT 0 eval))
  if ended then { s with jobs := s.jobs.map fun j => if j.id == 10#32 then { j with phase := .ended } else j } else s

theorem witness_capture_and_training :
    ((findSched ((SX (carT 0 5)).carrier 0).ul slot0).any (fun q => q.closed && q.tiles.isEmpty && (q.capturePdu 0).any fun p =>
        (captureTiles q.pol slot0 p).contains 0 && (p.feat.find? fun e => e.1 == 0).any fun e => decide (e.2.length = 5760)) = true
      ∧ ((SX (carT 0 5)).carrier 0).train.lock = none ∧ ((SX (carT 0 5)).carrier 0).hold.lock = none
      ∧ ((SX (carT 0 5)).carrier 0).train.recs = [] ∧ ((SX (carT 0 5)).carrier 0).hold.recs = [])
    ∧ (∀ c, ((SX (carT 0 5)).ctx c).waiting = [])
    ∧ (∀ need ∈ [0, 64], let s := SX (carT need 5); let x := s.carrier 0
        x.cfg.isSome = true ∧ x.live = some model1 ∧ (s.trainingJob 0).isNone = true ∧ s.twin.formed = false ∧ polFlag x.policy 1 = true ∧ polNat x.policy 0x26 2 ≠ 0
        ∧ (s.toValidate 0).isNone = true ∧ decide (polNat x.policy 0x2A 2 ≤ x.train.valid) = (need == 0))
    ∧ ((trained 5 false).trainingJob 0).isSome = true := by decide +kernel

/-- Nothing else is known of what the bundle gives: either value of `nan` may hold, and both are stated. With no record held out the errors are 0. -/
theorem witness_candidate_and_load :
    (∀ eval ∈ [0, 5], let s := trained eval true
      (s.toValidate 0).any (fun w => decide (polNat w.policy 0x18 4 ≤ ((s.carrier 0).hold.within w.hold).length) == (eval == 0) && ((s.carrier 0).hold.within w.hold).isEmpty
        && decide (polNat w.policy 0x1C 2 ≤ 1024) && (s.carrier 0).live.map (·.id) == some w.base) = true)
    ∧ (let s := SX { car 2 [] [] with swap := some model1 }; (s.carrier 0).swap = some model1 ∧ (s.carrier 0).swapIx = none ∧ (s.carrier 0).guardSlot = none) := by decide +kernel

/-! ### Witnesses: the timing unit, registers -/

/-- A servo in a state, with TU_CTL enabling it and the transparent clock, a master, and device time at `ns`. -/
def ST (st : Servo) (ns : Nat) : State :=
  { S with time := { S.time with ctl := tuCtlReset ||| 0x2D#64, state := st, master := some 7#64, acc := BitVec.ofNat 96 (ns * 2 ^ 32) } }
def withAlarm (target : Nat) (arm : Bool) : State := { ST .locked 1000 with time := { (ST .locked 1000).time with
  alarms := (ST .locked 1000).time.alarms.set 8 { target := BitVec.ofNat 40 target, arm := arm, out := 1#2 } } }

theorem witness_alarms_fire :
    (∀ v ∈ [0x60000000, 0xE0000000], bitsOf (BitVec.ofNat 32 v).toNat 29 2 = 3) ∧ bitsOf (0xC0000010#32).toNat 29 2 = 2
    ∧ (∀ p ∈ [(1000, true), (1001, false), (2 ^ 39 + 1000, false), (2 ^ 39 + 1001, true), (2 ^ 40 - 1, true)],
        decide (0 ≤ (BitVec.ofNat 40 (withAlarm p.1 true).nowNs - ((withAlarm p.1 true).time.alarm 8).target).toInt) = p.2)
    ∧ ((withAlarm 1000 true).time.alarm 8).arm = true ∧ ((withAlarm 1000 false).time.alarm 8).arm = false
    ∧ (State.reset.listeners 0x0D hostPort = [] ∧ S.listeners 0x0D hostPort ≠ []) := by decide +kernel

theorem witness_ptp_servo :
    (∀ st ∈ [Servo.freerun, .locking, .locked, .holdover], tuSlaveEn (ST st 0).time.ctl = true ∧ (ST st 0).time.state = st ∧ (ST st 0).time.master = some 7#64)
    ∧ tuSlavePort (ST .locking 0).time.ctl = (0 : Fin 2).val ∧ tuStepLimit (ST .locking 0).time.ctl = 1000 ∧ (ST .locking 0).anyCarrier = false
    ∧ (1000 : Int) * 65536 < (65536001 : Int).natAbs ∧ ¬ (1000 : Int) * 65536 < (65536000 : Int).natAbs
    ∧ ({ ST .locking 0 with carriers := (SX (car 2 [] [])).carriers } : State).anyCarrier = true := by decide +kernel

/-- A queued response of session 1, and `S` with it. -/
def msg1 : Msg := { port := .host, session := 1#16, typ := 3#16, prot := true, resp := true, unsol := false, seq := 1#32, token := 7#16, status := 0#16, payload := [1#8] }
def SMsg : State := { S with host := { S.host with txq := [msg1] } }

theorem witness_clock_outputs_and_tick :
    tuTcEn (ST .locked 0).time.ctl = true ∧ tuPps (ST .locked 0).time.ctl = true ∧ tuPps 0#64 = false ∧ tuSyncePort (ST .locked 0).time.ctl = 0
    ∧ (∀ s ∈ [S, SMsg], s.pending = [] ∧ s.lantern.powered = true ∧ s.time.slew = 0)
    ∧ S.host.txq = [] ∧ SMsg.host.txq ≠ [] := by decide +kernel

/-- A dfe.config of entries (register, index, value). -/
def dfeF (typ : Nat) (es : List (Nat × Nat × Nat)) : Frame :=
  req typ (leBytes 2 es.length ++ z 6 ++ es.flatMap fun e => leBytes 2 e.1 ++ leBytes 2 e.2.1 ++ z 4 ++ leBytes 8 e.2.2)

theorem witness_register_writes :
    (tuCtlOk (tuCtlReset ||| 1#64) = true ∧ tuCtlOk tuCtlReset = true ∧ tuCtlOk 0#64 = false ∧ (tuCtlReset ||| 1#64).getLsbD 0 = true ∧ tuCtlReset.getLsbD 0 = false)
    ∧ (bitsOf (0x100000#64).toNat 16 5 = 16 ∧ bitsOf (0x110000#64).toNat 16 5 = 17)
    ∧ (let s := SX (car 2 [] [])
       dfeReg (.dfDpd 0) = some (4, 0) ∧ dfeReg (.dfDpd 63) = some (4, 63) ∧ s.entryStatus 4 0 0x9A = 0x0000#16 ∧ (s.entryCarrier 4 0).map (·.val) = some 0
        ∧ s.entryStatus 4 63 0x9A = 0x0000#16 ∧ s.entryCarrier 4 63 = none ∧ s.entryStatus 9 0 (6 * 2 ^ 58) ≠ 0x0000#16) := by decide +kernel

/-! ### Witnesses: messages -/

def admB (s : State) (f : Frame) : Bool :=
  (s.session f.session).any fun x => x.keys.isEmpty && decide (s.boot.phase = .running ∧ s.reaches f = true ∧ f.wellFormed = true ∧ f.port ≠ .guy ∧ f.prot = true
      ∧ (s.host.sessions.map (·.id)).Nodup ∧ (x.port == f.port && x.fresh f.seq) = true ∧ x.isOpen = true ∧ x.claim = false ∧ f.clean = true ∧ knownType f.typ.toNat = true
      ∧ portAllowed f.typ.toNat f.port = true ∧ x.tokens.isEmpty = true ∧ s.outstanding f.session f.mb < 64 ∧ x.txSeq.toNat + 65536 < 2 ^ 32)

theorem admB_admitted {s : State} {f : Frame} (h : admB s f = true) : ∃ x, Admitted s (tagged f) x := by
  simp only [admB, Option.any_eq_true, Bool.and_eq_true (a := List.isEmpty _), decide_eq_true_eq] at h
  obtain ⟨x, hx, hk, a, b, c, d, e, i, j, k, l, m, n, o, p, q, r⟩ := h
  exact ⟨x, admitted_of (by simpa using hk) ⟨a, b, c, d, e, hx, i, j, k, l, m, n, o, by simpa using p, q, r⟩⟩

/-- An owner's private key, and a signature under it. -/
def ownD : Nat := 0x1234567
def sign (msg : List Byte) : List Byte := ecdsaSign ownD 0x89ABCDE msg
/-- An object with its signature block (Table 20-2), under key 5. -/
def signed (kind : Nat) (b : List Byte) : List Byte :=
  let m := b ++ leBytes 4 0x4E474953 ++ [1#8, BitVec.ofNat 8 kind, 0xFF#8, 0#8] ++ z 4 ++ leBytes 4 b.length ++ leBytes 8 5 ++ z 8
  m ++ sign m

/-- A kernel image of one core, 16 bytes of text and a scratch window of 64 bytes (Table 12-13). -/
def kernImg : List Byte := leBytes 4 0x5053444B ++ [1#8, 0#8, 1#8, 1#8] ++ leBytes 4 16 ++ z 20 ++ (z 4 ++ leBytes 4 64 ++ z 8) ++ z 16

/-- Object 1 is the given bytes, sealed; 4 a weight set, 5 a set of the wrong size, 6 16 unsealed bytes written whole, 7 16 bytes not written. -/
def objs (b : List Byte) : List (Nat × Bool × List Byte) := [(1, true, b), (4, true, z 2080), (5, true, z 2079), (6, false, z 16), (7, false, z 16)]

/-- `S` with those objects and the owner's key, of every role. -/
def SOf (b : List Byte) : State :=
  let s := { S with security := { S.security with owners := [{ id := 5#64, roles := 0x3F#8, key := eccPublic ownD }] } }
  (objs b).foldl (fun (s : State) o => (fun (t : State) => { t with host := { t.host with objects := t.host.objects ++
      [{ id := BitVec.ofNat 32 o.1, die := 0, size := o.2.2.length, base := 65536 * o.1, written := if o.1 = 7 then [] else [(0, o.2.2.length)], isSealed := o.2.1 }] } })
    (s.writePhys (65536 * o.1) o.2.2)) s
def SO : State := SOf (z 16)
/-- With a configured carrier 0. -/
def withCar (x : Carrier) (s : State) : State := { s with carriers := s.carriers.set 0 x, cores := s.cores.set 4 { owner := .carrier 0 } }
def SOX (x : Carrier) : State := withCar x SO

/-- Requests that only read. -/
def reading : List Frame :=
  [req 2 [], req 3 [], req 3 (z 64), req 0x0B02 [], req 0x0D01 (z 8), req 0x0D01 (1#8 :: z 7), req 0x0D01 ([1#8, 7#8] ++ z 6), req 0x0D01 ([2#8, 3#8] ++ z 6),
   dfeF 0x0A07 [(4, 63, 0), (10, 0, 0)], req 0x0101 [0#8], req 0x0101 [4#8], req 0x0101 [5#8], req 0x0A14 [3#8], req 0x0205 (leBytes 4 9)]

/-- The key store holds a quote key, and certificate 5 over three bytes. -/
def SQuote : State := { S with lantern := { S.lantern with quoteKey := some 5#384, cert5 := ([1#8, 2#8, 3#8], ecdsaSign S.part.hubPriv.toNat 77 [1#8, 2#8, 3#8]) } }
/-- The flash certificate 4 is the one-byte string 1. -/
def SCert : State := { S with part := { S.part with certs := S.part.certs.set 4 (Sha.digest [1#8]) } }

theorem witness_reading_requests :
    (∀ f ∈ reading, ∃ x, Admitted S (tagged f) x)
    ∧ dfeShape (dfeF 0x0A07 [(4, 63, 0), (10, 0, 0)]) = true ∧ (dfeEntries (dfeF 0x0A07 [(4, 63, 0), (10, 0, 0)])).all (fun e => dfeIndexOk e.1 e.2.1) = true
    ∧ ((∃ x, Admitted SCert (tagged (req 0x0101 [4#8])) x) ∧ SCert.part.certs.toList.getD 4 0#384 = Sha.digest [1#8] ∧ SCert.part.certs.toList.getD 0 0#384 ≠ Sha.digest [1#8])
    ∧ ((∃ x, Admitted SQuote (tagged (req 0x0101 [5#8])) x) ∧ SQuote.lantern.quoteKey.isSome = true ∧ ecdsaOk SQuote.hubKey SQuote.lantern.cert5.1 SQuote.lantern.cert5.2 = true)
    ∧ (S.job 9#32).map (·.mailbox) = some 2#4 ∧ isJobType 0x0205 = true :=
  ⟨all_of (p := fun f => admB S f) (by decide +kernel) (fun f h => admB_admitted h), by decide +kernel, by decide +kernel,
   ⟨admB_admitted (by decide +kernel), by decide +kernel⟩, ⟨admB_admitted (by decide +kernel), by decide +kernel⟩, by decide +kernel⟩

theorem witness_cell_status_answers : (∀ b ∈ [0#8, 1#8, 3#8, 4#8], ∃ x, Admitted (SX (car 2 [] [])) (tagged (req 0x0A14 [b])) x)
    ∧ (((SX (car 2 [] [])).carrier 0).cfg.isSome ∧ ((SX (car 2 [] [])).carrier 1).cfg.isNone) :=
  ⟨all_of (p := fun b => admB (SX (car 2 [] [])) (req 0x0A14 [b])) (by decide +kernel) (fun f h => admB_admitted h), by decide +kernel⟩

def wgtF (set obj : Nat) : Frame := req 0x0A03 ([0#8, 0#8] ++ leBytes 2 set ++ leBytes 4 obj)

theorem witness_cell_weights_store_sets :
    (∀ f ∈ [wgtF 511 4, wgtF 512 4, wgtF 511 5], (∃ x, Admitted (SOX (car 2 [] [])) (tagged f) x) ∧ (f.payload.length = 8 ∧ f.zero 1 1 = true ∧ f.nat 0 1 = 0))
    ∧ ((SOX (car 2 [] [])).sealedBytes 4#32).map List.length = some 2080 ∧ ((SOX (car 2 [] [])).sealedBytes 5#32).map List.length = some 2079 :=
  ⟨all_of (p := fun f => admB (SOX (car 2 [] [])) f && decide (f.payload.length = 8 ∧ f.zero 1 1 = true ∧ f.nat 0 1 = 0)) (by decide +kernel)
    (fun f h => by simp only [Bool.and_eq_true, decide_eq_true_eq] at h; exact ⟨admB_admitted h.1, h.2⟩), by decide +kernel⟩

/-- cell.configure of carrier 0 with `n` PRBs. -/
def cellF (n : Nat) : Frame := req 0x0A01 ((cellB 2).take 4 ++ leBytes 2 n ++ (cellB 2).drop 6)
def active (s : State) : State := { s with power := { s.power with state := .active } }
def stby (s : State) : State := { s with power := { s.power with state := .standby } }

theorem witness_cell_control :
    (∀ f ∈ [cellF 51, cellF 1, req 0x0A02 [0#8], req 0x0A04 (z 8), req 0x0A04 ([0#8, 1#8] ++ z 6)], (∃ x, Admitted (stby S) (tagged f) x) ∧ (∃ x, Admitted (active S) (tagged f) x)
      ∧ ∃ x, Admitted (active (SX (car 2 [] []))) (tagged f) x)
    ∧ (cellOk (cellF 51).payload = true ∧ cellOk (cellF 1).payload = true ∧ (active S).cellFits (cellF 51).payload = true ∧ (active S).cellFits (cellF 1).payload = false)
    ∧ ((stby S).power.state ≠ .active ∧ (active S).power.state = .active)
    ∧ (cellKeeps (cellB 2) (cellF 51).payload = true ∧ cellKeeps (cellB 2) (cellF 1).payload = false) :=
  ⟨all_of (p := fun f => admB (stby S) f && admB (active S) f && admB (active (SX (car 2 [] []))) f) (by decide +kernel)
    (fun f h => by simp only [Bool.and_eq_true] at h; exact ⟨admB_admitted h.1.1, admB_admitted h.1.2, admB_admitted h.2⟩), by decide +kernel⟩

theorem witness_dfe_config :
    (let s := SX (car 2 [] [])
     let f := dfeF 0x0A06 [(4, 0, 0x9A), (5, 0, 0x500FA0C8)]
     let g := dfeF 0x0A06 [(4, 0, 0x9A), (9, 0, 6 * 2 ^ 58)]
     (∃ x, Admitted s (tagged f) x) ∧ (∃ x, Admitted s (tagged g) x) ∧ dfeShape f = true ∧ dfeShape g = true
      ∧ (dfeEntries f).map (fun e => s.entryStatus e.1 e.2.1 e.2.2) = [0#16, 0#16] ∧ (dfeEntries f).map (fun e => (s.entryCarrier e.1 e.2.1).isSome) = [true, true]
      ∧ (dfeEntries g).map (fun e => decide (s.entryStatus e.1 e.2.1 e.2.2 = 0#16)) = [true, false]) :=
  ⟨admB_admitted (by decide +kernel), admB_admitted (by decide +kernel), by decide +kernel⟩

def netF (b : List Byte) : Frame := req 4 b
theorem witness_settings_by_message :
    (∀ f ∈ [req 4 (z 8), req 4 ([0#8, 1#8] ++ z 6), req 4 ([2#8, 0#8, 32#8, 0#8] ++ z 4), req 5 (z 2), req 5 [0xFF#8, 0xFF#8],
        req 0x0B01 (leBytes 8 tuCtlReset.toNat), req 0x0B01 (leBytes 8 (tuCtlReset.toNat + 1)),
        req 0x0B03 ([8#8, 2#8, 1#8] ++ z 13), req 0x0B03 ([15#8] ++ z 15)], ∃ x, Admitted S (tagged f) x)
    ∧ (tuCtlOk tuCtlReset = true ∧ tuCtlReset &&& 0xFFC0#64 = 0#64)
    ∧ (S.host.net .eth0).mode = false ∧ (∃ y ∈ S.host.sessions, y.isOpen = true ∧ y.port = .eth0 ∧ y.id ≠ 1#16) :=
  ⟨all_of (p := fun f => admB S f) (by decide +kernel) (fun f h => admB_admitted h), by decide +kernel⟩

/-- bulk.alloc of 65,536 bytes, bulk.put of the last byte of object 6, bulk.commit under a digest, bulk.get, bulk.free. -/
def bulkF (typ id : Nat) (b : List Byte) : Frame := req2 typ (leBytes 4 id ++ b)
def dig16 : List Byte := Sha.sha384 (z 16)

theorem witness_bulk_objects :
    (∀ f ∈ [req2 0x10 (leBytes 8 65536 ++ z 8), bulkF 0x11 6 (z 4 ++ leBytes 8 15 ++ [1#8]), bulkF 0x12 6 (z 4 ++ dig16), bulkF 0x12 6 (z 52), bulkF 0x12 7 (z 52),
        bulkF 0x13 6 (z 4 ++ z 8 ++ leBytes 8 16), bulkF 0x15 6 [], bulkF 0x15 1 []], ∃ x, Admitted SO (tagged f) x)
    ∧ SO.roomAt 0 0x100000 65536 = true ∧ (SO.object 6#32).map (fun o => (o.isSealed, o.size, o.complete)) = some (false, 16, true)
    ∧ (SO.object 7#32).map (fun o => (o.isSealed, o.complete)) = some (false, false)
    ∧ Sha.sha384 (SO.readPhys (65536 * 6) 16) = dig16 ∧ dig16 ≠ z 48 ∧ SO.boundReadOnly 6#32 = false ∧ SO.boundByJob 6#32 = false ∧ SO.host.objects.length < 4096
    ∧ (let s := { SO with jobs := [{ job1 with binds := [{ obj := 1#32, writable := false, va := 0#64 }] }] }; s.boundByJob 1#32 = true ∧ s.boundReadOnly 1#32 = true) :=
  ⟨all_of (p := fun f => admB SO f) (by decide +kernel) (fun f h => admB_admitted h), by decide +kernel⟩

/-- `S` with the owner's key, and session 3 on the host port, not confirmed. -/
def SH : State :=
  { S with host := { S.host with sessions := S.host.sessions ++ [{ sess 3#16 .host with isOpen := false }] },
           security := { S.security with owners := [{ id := 5#64, roles := 0x3F#8, key := eccPublic ownD }] } }
/-- A session.open with a host key of the curve, and a session.confirm with a signature. -/
def openF : Frame := fr .host 0#16 false 0x0102 0#32 (eccPublic 3 ++ z 35)
def confF (sig : List Byte) : Frame := fr .host 3#16 true 0x0103 1#32 (leBytes 8 5 ++ sig)

theorem witness_sessions_open_and_end :
    (S.boot.phase = .running ∧ S.reaches openF = true ∧ openF.wellFormed = true ∧ openF.port ≠ .guy ∧ openF.prot = false ∧ openF.clean = true ∧ portAllowed 0x0102 openF.port = true
      ∧ S.session 4#16 = none ∧ openF.payload.length = 132 ∧ openF.zero 97 3 = true ∧ S.host.sessions.countP (·.isOpen) < 8 ∧ (eccDecode (openF.payload.take 97)).isSome = true)
    ∧ (∀ ok ∈ [true, false],
       let f := tagged (confF (if ok then sign (ascii "PLSK1 host") else z 96))
       (SH.boot.phase = .running ∧ SH.reaches f = true ∧ f.wellFormed = true ∧ f.port ≠ .guy ∧ f.prot = true ∧ f.clean = true
        ∧ (SH.session 3#16).any (fun x => decide (x.isOpen = false ∧ x.port = .host ∧ x.fresh f.seq = true ∧ x.tokens.isEmpty = true ∧ x.txSeq.toNat + 65536 < 2 ^ 32)) = true
        ∧ SH.outstanding 3#16 1 < 64 ∧ f.payload.length = 104 ∧ f.nat 0 8 = 5
        ∧ (SH.security.owners.find? (fun k => k.id == BitVec.ofNat 64 (f.nat 0 8) && k.roles.getLsbD 0)).any (fun k => ecdsaOk k.key (ascii "PLSK1 host") (f.payload.drop 8) == ok) = true
        ∧ portAllowed 0x0103 f.port = true))
    ∧ (∀ ok ∈ [true, false], ({ sess 3#16 .host with isOpen := false } : Session).tagOk (tagged (confF (if ok then sign (ascii "PLSK1 host") else z 96))) = true)
    ∧ (∃ x, Admitted S (tagged (req 0x0104 [])) x)
    ∧ (let s := nx (.linkUp 0) { S with host := { S.host with sessions := [] } }; (s.host.net (t1Port 0)).up = true ∧ (s.host.net (t1Port 0)).hello = true) :=
  ⟨by decide +kernel, by decide +kernel, fun _ _ => tagOk_tagged _ rfl, admB_admitted (by decide +kernel), by decide +kernel⟩

/-- job.submit of one rank, with a read-only binding of object 1 and that object as queue 3. -/
def subF : Frame :=
  req 0x0201 (leBytes 4 1 ++ [1#8, 1#8, 1#8, 0#8] ++ leBytes 8 99 ++ leBytes 4 2000 ++ z 4 ++ z 12 ++ leBytes 4 1 ++ (leBytes 4 1 ++ z 4 ++ leBytes 8 0x10000) ++ (leBytes 4 0 ++ leBytes 4 4096 ++ z 8))

/-- Job 9 as given, and its core to be stopped or not. -/
def SJob (j : Job) : State := { S with jobs := [j] }

/-- Object 1 is a signed job bundle. -/
def SBundle : State := SOf (signed 2 (z 16))

theorem witness_job_messages :
    ((∃ x, Admitted SBundle (tagged subF) x) ∧ isJobType subF.typ.toNat = true ∧ (∀ c, (SBundle.ctx c).waiting = []) ∧ submitOk subF = true ∧ (bindsOf subF).all SBundle.bindable = true
      ∧ (∀ n, n < 4 → queueObj subF n ≠ 0#32 → (SBundle.sealedBytes (queueObj subF n)).isSome = true) ∧ SBundle.bindsOk (bindsOf subF) = true
      ∧ (SBundle.sealedBytes (BitVec.ofNat 32 (subF.nat 0 4))).any (fun b => SBundle.checkSigned 2 b == 0x0000#16) = true
      ∧ SBundle.placeable (ranksOf subF) SBundle.jobCores = true ∧ SBundle.queuedJobs subF.mb < 64)
    ∧ (∀ n ∈ [2, 3, 4], ∀ j ∈ [job1, { job1 with hostSusp := true }, { job1 with phase := .ended }], ∃ x, Admitted (SJob j) (tagged (req (0x0200 + n) (leBytes 4 9))) x)
    ∧ [job1, { job1 with hostSusp := true }, { job1 with phase := .ended }].map (fun j => ((SJob j).job 9#32).map (fun j => (j.phase, j.suspended, j.hostSusp)))
        = [some (.running, false, false), some (.running, true, true), some (.ended, false, false)] :=
  ⟨⟨admB_admitted (by decide +kernel), by decide +kernel⟩,
   fun n hn => all_of (p := fun j => admB (SJob j) (req (0x0200 + n) (leBytes 4 9))) (by revert n; decide +kernel) (fun f h => admB_admitted h), by decide +kernel⟩

/-- A carrier with model 4 as its candidate or as its loaded model; object 1 is a signed model image. -/
def SMd (c l : Bool) (s : State) : State := withCar { car 2 [] [] with cand := if c then some model1 else none, loaded := if l then some model1 else none } s
def SImg : State := SOf (signed 3 (z 16))
def modF (typ id : Nat) : Frame := req typ (z 4 ++ leBytes 4 id)
def polF (ok : Bool) : Frame := req 0x0A0C (if ok then signed 4 (policyDefault 0) else policyDefault 0 ++ z 128)

theorem witness_model_messages :
    (∀ f ∈ [modF 0x0A0A 1, modF 0x0A0B 4, polF true, polF false], (∃ x, Admitted (SMd true false SImg) (tagged f) x) ∧ ∃ x, Admitted (SMd false true SImg) (tagged f) x)
    ∧ ((SMd true false SImg).sealedBytes 1#32).any (fun b => (SMd true false SImg).checkSigned 3 b == 0x0000#16) = true
    ∧ ((SMd true false SO).sealedBytes 1#32).any (fun b => (SMd true false SO).checkSigned 3 b != 0x0000#16) = true
    ∧ (model1.id = BitVec.ofNat 32 ((modF 0x0A0B 4).nat 4 4) ∧ ((SMd true false S).carrier 0).cand = some model1 ∧ ((SMd false true S).carrier 0).loaded = some model1
      ∧ ((SMd false true S).carrier 0).cand = none ∧ ((SMd true false S).carrier 0).swap = none)
    ∧ (∀ ok ∈ [true, false], (polF ok).payload.length = 192 ∧ policyOk ((polF ok).payload.take 64) = true
      ∧ ((SMd true false SO).checkSigned 4 (polF ok).payload == 0x0000#16) = ok) :=
  ⟨all_of (p := fun f => admB (SMd true false SImg) f && admB (SMd false true SImg) f) (by decide +kernel)
    (fun f h => by simp only [Bool.and_eq_true] at h; exact ⟨admB_admitted h.1, admB_admitted h.2⟩), by decide +kernel⟩

/-- Session 1 has taken frame 1, with token 7 of mailbox 0, and answered it. -/
def SSeen : State :=
  { S with host := { S.host with sessions := [{ sess 1#16 .host with rxHigh := 1#32, txSeq := 2#32, tokens := [{ mailbox := 0#4, token := 7#16, resp := some msg1 }] }] } }

theorem witness_replays_have_no_effect :
    (let f := tagged { req 3 [1#8] with seq := 2#32 }
     let g := tagged { req 3 [1#8] with seq := 2#32, token := 0xFF87#16 }
     let h := { tagged { req 3 [1#8] with seq := 2#32 } with tag := 0#128 }
     SSeen.boot.phase = .running ∧ SSeen.reaches f = true ∧ f.wellFormed = true ∧ f.port ≠ .guy ∧ f.prot = true ∧ (Instr.devPing f).wf = true ∧ (Instr.devPing g).wf = true
      ∧ (SSeen.session 1#16).any (fun x => decide (x.fresh 1#32 = false ∧ x.accepts f = true ∧ x.accepts g = true ∧ x.tagOk h = false ∧ x.isOpen = true ∧ x.claim = false
            ∧ x.txSeq ≠ 0xFFFFFFFF#32)
          && (x.tokens.find? fun t => t.mailbox.toNat == f.mb && t.token == f.token).any (·.resp.isSome)
          && decide (x.tokens.map (fun k => (k.mailbox, k.token)) = [(0#4, 7#16)] ∧ x.stale g.mb g.token = true)) = true)
    ∧ (∀ f, frameOf (.devPing f) = some f) ∧ slotRow (.devPing (req 3 [])) = false :=
  ⟨by decide +kernel, fun _ => rfl, rfl⟩

/-! ### Witnesses: the twin, the trail -/

def twF (typ seq : Nat) (b : List Byte) : Frame := { fr .guy 0#16 true typ (BitVec.ofNat 32 seq) b with vflags := 0x30#8 }

/-- A twin in a role, its pair formed or not, under a peer that reports itself in step. -/
def TW (r : TwinRole) (formed : Bool) (take plan : Option Nat) : State :=
  { S with twin := { S.twin with role := r, formed := formed, takeAt := take, planAt := plan, peer := [0#8, 4#8] ++ z 62 } }
/-- The same with a configured carrier 0, whose digest the peer's heartbeat gives or not. -/
def TWC (agrees : Bool) : State :=
  let s := { SX (car 2 [] []) with twin := (TW .standby true (some 1) none).twin }
  { s with twin := { s.twin with peer := z 32 ++ (if agrees then leBytes 8 (s.cfgDigest 0) else z 8) ++ z 24 } }

def guyB (s : State) (f : Frame) : Bool :=
  s.boot.phase == .running && f.wellFormed && f.prot && s.twin.guy.keys.isEmpty && (s.twin.role == .active || s.twin.role == .standby) && s.twin.guy.fresh f.seq

theorem guyOk_of {s : State} {f : Frame} (h : guyB s f = true) : s.guyOk (tagged f) = true := by
  simp only [guyB, Bool.and_eq_true, List.isEmpty_iff] at h
  obtain ⟨⟨⟨⟨⟨a, b⟩, c⟩, d⟩, e⟩, g⟩ := h
  simp only [State.guyOk, Bool.and_eq_true]
  exact ⟨⟨⟨⟨⟨a, b⟩, c⟩, tagOk_tagged f d⟩, e⟩, g⟩

/-- A twin.pair with a role and a peer key of the curve. -/
def pairF (role : Nat) : Frame := req 0x0C01 ([BitVec.ofNat 8 role, 0#8, 0#8, 0#8] ++ z 16 ++ eccPublic 3 ++ z 3)
/-- Heartbeats of a role, with the loss flag; the last one has a reserved bit set. -/
def beatF (role flags : Nat) : Frame := twF 0x0C02 1 (BitVec.ofNat 8 role :: BitVec.ofNat 8 flags :: z 62)

/-- What the obligation asks of a heartbeat beside its authenticity. -/
abbrev beatFits (role : Nat) (f : Frame) : Prop :=
  f.port = .guy ∧ f.typ = 0x0C02#16 ∧ f.payload.length = 64 ∧ f.nat 0 1 = role ∧ (f.nat 1 1).testBit 0 = true ∧ beatClean f = true

theorem beatFits_tagged {role : Nat} {f : Frame} (h : beatFits role f) : beatFits role (tagged f) := by cases f; exact h

theorem beats_fit : ∀ p ∈ [(TwinRole.active, 2), (TwinRole.active, 1), (TwinRole.standby, 1), (TwinRole.standby, 2)],
    (TW p.1 false none none).guyOk (tagged (beatF p.2 1)) = true ∧ beatFits p.2 (tagged (beatF p.2 1)) := by
  intro p h
  have g : guyB (TW p.1 false none none) (beatF p.2 1) = true :=
    all_of (p := fun p => guyB (TW p.1 false none none) (beatF p.2 1)) (P := fun p => guyB (TW p.1 false none none) (beatF p.2 1) = true) (by decide +kernel) (fun _ h => h) p h
  have b : beatFits p.2 (beatF p.2 1) :=
    all_of (p := fun p => decide (beatFits p.2 (beatF p.2 1))) (P := fun p => beatFits p.2 (beatF p.2 1)) (by decide +kernel) (fun _ h => of_decide_eq_true h) p h
  exact ⟨guyOk_of g, beatFits_tagged b⟩

theorem witness_twin_pairs :
    (∀ r ∈ [0, 1, 2], (∃ x, Admitted S (tagged (pairF r)) x) ∧ ((pairF r).payload.length = 120 ∧ (pairF r).nat 0 1 = r ∧ (pairF r).zero 2 2 = true ∧ (pairF r).zero 0x75 3 = true
        ∧ (eccDecode (((pairF r).payload.drop 0x14).take 97)).isSome = true))
    ∧ (∃ x, Admitted S (tagged (req 0x0C02 [])) x)
    ∧ (∀ r ∈ [TwinRole.active, .standby], (TW r false none none).twin.role = r ∧ (TW r false none none).boot.phase = .running)
    ∧ (∀ p ∈ [(TwinRole.active, 2), (TwinRole.active, 1), (TwinRole.standby, 1), (TwinRole.standby, 2)],
        (TW p.1 false none none).guyOk (tagged (beatF p.2 1)) = true ∧ beatFits p.2 (tagged (beatF p.2 1)))
    ∧ ((TW .active false none none).guyOk (tagged (beatF 2 8)) = true ∧ beatClean (beatF 2 8) = false)
    ∧ (TW .active false none none).guyOk { twF 0x0C02 0 (z 64) with vflags := 0x20#8 } = false ∧ (twF 0x0C02 1 (z 63)).payload.length ≠ 64 :=
  ⟨all_of (p := fun r => admB S (pairF r) && decide ((pairF r).payload.length = 120 ∧ (pairF r).nat 0 1 = r ∧ (pairF r).zero 2 2 = true ∧ (pairF r).zero 0x75 3 = true
        ∧ (eccDecode (((pairF r).payload.drop 0x14).take 97)).isSome = true)) (by decide +kernel)
    (fun f h => by simp only [Bool.and_eq_true, decide_eq_true_eq] at h; exact ⟨admB_admitted h.1, h.2⟩), admB_admitted (by decide +kernel), by decide +kernel,
   beats_fit,
   ⟨guyOk_of (by decide +kernel), by decide +kernel⟩, by decide +kernel⟩

/-- A checkpoint record of carrier 0 for a slot, with no section and with one of kind 5. -/
def ckpt (slot : Nat) (sec : Bool) : List Byte :=
  leBytes 4 (slot0.toNat + 8192 * slot) ++ leBytes 4 (if sec then 128 else 96) ++ leBytes 2 (if sec then 1 else 0) ++ z 86 ++ if sec then [5#8] ++ z 7 ++ leBytes 4 8 ++ z 4 ++ z 16 else []

/-- twin.switch on the guy line, with or without a reserved byte set. -/
def switchF (r : Nat) : Frame := twF 0x0C03 1 (leBytes 8 2000000 ++ leBytes 8 r)

theorem witness_twin_switches :
    (∀ c, ((TWC true).ctx c).waiting = [])
    ∧ (∀ r ∈ [TwinRole.active, .standby], (∀ c, ((TW r true none (some 700000)).ctx c).waiting = []) ∧ (TW r true none (some 700000)).twin.role = r
        ∧ (TW r true none (some 700000)).twin.planAt = some 700000 ∧ (TW r true none (some 700000)).nowNs + 600000 < 700000
        ∧ (TW r true none (some 1)).twin.planAt = some 1 ∧ (TW r true none (some 1)).nowNs < 1 ∧ (TW r true none (some 0)).nowNs = 0)
    ∧ (((TWC true).digestAgrees 0 = true ∧ (TWC false).digestAgrees 0 = false) ∧ (TWC true).twin.takeAt = some 1 ∧ (TWC true).nowNs < 1 ∧ (TW .standby true (some 0) none).twin.takeAt = some 0)
    ∧ ((∃ x, Admitted (TW .active true none none) (tagged (req 0x0C03 (leBytes 8 2000000 ++ z 8))) x) ∧ (∃ x, Admitted (TW .standby true none none) (tagged (req 0x0C03 (z 16))) x))
    ∧ ((fieldAt (TW .active true none none).twin.peer 1 1).testBit 2 = true ∧ (TW .active true none none).allBoundary 2000000 = true
        ∧ (SX (car 2 [] [])).allBoundary 2000000 = true ∧ (SX (car 2 [] [])).allBoundary 2000001 = false)
    ∧ (∀ r ∈ [0, 1], (TW .standby true none none).guyOk (tagged (switchF r)) = true ∧ guyClean (switchF r) = true ∧ (switchF r).zero 8 8 = (r == 0))
    ∧ (∀ b ∈ [false, true], ((TWC true).carrier 0).ckptOk 0 (ckpt 16 b) = true
        ∧ ((ckptSections (fieldAt (ckpt 16 b) 8 2) ((ckpt 16 b).drop 96)).map fun q => q.map (·.1)) = some (if b then [5] else []))
    ∧ ckptSections 1 [] = none ∧ ((TWC true).carrier 0).cfg.isSome = true :=
  ⟨by decide +kernel, by decide +kernel, by decide +kernel, ⟨admB_admitted (by decide +kernel), admB_admitted (by decide +kernel)⟩, by decide +kernel,
   all_of (p := fun r => guyB (TW .standby true none none) (switchF r) && decide (guyClean (switchF r) = true ∧ (switchF r).zero 8 8 = (r == 0))) (by decide +kernel)
    (fun f h => by simp only [Bool.and_eq_true, decide_eq_true_eq] at h; exact ⟨guyOk_of h.1, h.2⟩), by decide +kernel⟩

/-- A flit of a whole message of 4 bytes from node 2 to a node, with its sequence number. -/
def flitB (dst : BitVec 3) (seq : BitVec 12) : List Byte := ({ typ := 1#8, cls := 0#2, dst := dst, src := 2#3, msg := 0xC0#8, payload := z 4 } : TrailFlit).bytes seq false 0#12
/-- Port 0 up, towards node 2, with or without message 7 of node 2 already taken. -/
def STr (taken : Bool) : State :=
  { S with trail := { (S.trail.setPort 0 { nbrNode := 2#3, lock := true, up := true }) with taken := if taken then [(2#3, 7)] else [] } }

theorem length_leBytes (n v : Nat) : (leBytes n v).length = n := by
  induction n generalizing v with
  | zero => rfl
  | succ n ih => simp [leBytes, ih]

theorem leNat_leBytes (n v : Nat) : leNat (leBytes n v) = v % 256 ^ n := by
  induction n generalizing v with
  | zero => simp [leBytes, leNat, Nat.mod_one]
  | succ n ih => simp [leBytes, leNat, ih, Nat.pow_succ, Nat.mul_comm (256 ^ n) 256, Nat.mod_mul]

/-- 252 bytes under their CRC are a flit that passes. -/
theorem flitCrcOk_of {b : List Byte} (h : b.length = 252) : flitCrcOk (b ++ leBytes 4 (crc32 b).toNat) = true := by
  have ht : (b ++ leBytes 4 (crc32 b).toNat).take 252 = b := by rw [← h, List.take_left']; rfl
  have hd : (b ++ leBytes 4 (crc32 b).toNat).drop 252 = leBytes 4 (crc32 b).toNat := by rw [← h, List.drop_left']; rfl
  simp only [flitCrcOk, fieldAt, ht, hd, Bool.and_eq_true, beq_iff_eq]
  refine ⟨by simp [h, length_leBytes], ?_⟩
  rw [List.take_of_length_le (by simp [length_leBytes]), leNat_leBytes]
  exact Nat.mod_eq_of_lt (crc32 b).isLt

theorem flitB_ok : ∀ p ∈ [(0#3, 0#12), (1#3, 0#12), (0#3, 1#12)], flitCrcOk (flitB p.1 p.2) = true := by
  intro p hp
  unfold flitB TrailFlit.bytes
  refine flitCrcOk_of ?_
  simp only [List.length_append, length_leBytes, List.length_cons, List.length_nil, List.length_take, List.length_replicate, z]
  omega

theorem witness_trail_delivers :
    (∀ c, ((STr false).ctx c).waiting = []) ∧ ((STr false).trail.port 0).up = true ∧ ((STr false).trail.port 1).up = false ∧ (STr false).node = 0#3
    ∧ (∀ p ∈ [(0#3, 0#12), (1#3, 0#12), (0#3, 1#12)], flitCrcOk (flitB p.1 p.2) = true)
    ∧ (∀ d ∈ [0#3, 1#3], flitFieldsOk (flitB d 0#12) = true ∧ fieldAt (flitB d 0#12) 0 1 = 1 ∧ flitSeq (flitB d 0#12) = ((STr false).trail.port 0).rxSeq
        ∧ (flitOf (flitB d 0#12)).dst = d ∧ (flitOf (flitB d 0#12)).msg = 0xC0#8 ∧ (flitOf (flitB d 0#12)).src = 2#3)
    ∧ flitSeq (flitB 0 1#12) ≠ ((STr false).trail.port 0).rxSeq ∧ flitCrcOk (z 255) = false
    ∧ ((2#3, 7) ∉ (STr false).trail.taken ∧ (2#3, 7) ∈ (STr true).trail.taken) ∧ S.trail.unacked = []
    ∧ (let j := { job1 with pkgs := 2, nodes := [0, 2] }; let s := nx (.trailPortDown 0 []) { STr false with jobs := [j] }
       ({ STr false with jobs := [j] } : State).job 9#32 = some j ∧ j.phase ≠ .ended ∧ 1 < j.pkgs ∧ ∃ n ∈ j.nodes, n ≠ (STr false).node.toNat ∧ n ∉ s.reachable) :=
  ⟨by decide +kernel, by decide +kernel, by decide +kernel, by decide +kernel, flitB_ok, by decide +kernel, by decide +kernel, by decide +kernel,
   by decide +kernel, by decide +kernel, by decide +kernel, by decide +kernel⟩

/-! ### Witnesses: power, boot, security -/

/-- A power.set frame: state, ceiling, cap, wake mask, wake time. -/
def pwF (want ceil cap mask : Nat) : Frame := req 7 (leBytes 1 want ++ leBytes 1 ceil ++ leBytes 2 cap ++ leBytes 1 mask ++ z 3 ++ leBytes 8 5)
/-- `S` with no job, in standby or active, tripped or not. -/
def SPw (active tripped : Bool) : State :=
  { S with jobs := [], cores := State.reset.cores, power := { S.power with state := if active then .active else .standby, tripped := tripped } }

theorem witness_power_messages :
    (∃ x, Admitted (SPw true false) (tagged (req 8 [])) x)
    ∧ (∀ f ∈ [pwF 0 4 150 7, pwF 1 0 60 0, pwF 2 1 0 7], (∃ x, Admitted (SPw true false) (tagged f) x) ∧ (∃ x, Admitted (SPw false true) (tagged f) x)
        ∧ (f.payload.length = 16 ∧ f.nat 0 1 ≤ 2 ∧ f.nat 1 1 ≤ 4 ∧ (f.nat 2 2 = 0 ∨ (60 ≤ f.nat 2 2 ∧ f.nat 2 2 ≤ 150)) ∧ f.nat 4 1 < 8 ∧ f.zero 5 3 = true))
    ∧ ((SPw true false).anyCarrier = false ∧ (SPw true false).noJobRuns = true ∧ (SPw true false).mayBivouac = true ∧ S.noJobRuns = false ∧ S.mayBivouac = false
      ∧ (SPw true false).power.state = .active ∧ (SPw false true).power.state = .standby ∧ (SPw false true).power.tripped = true ∧ (SPw false false).power.tripped = false) :=
  ⟨admB_admitted (by decide +kernel),
   all_of (p := fun f => admB (SPw true false) f && admB (SPw false true) f && decide (f.payload.length = 16 ∧ f.nat 0 1 ≤ 2 ∧ f.nat 1 1 ≤ 4
      ∧ (f.nat 2 2 = 0 ∨ (60 ≤ f.nat 2 2 ∧ f.nat 2 2 ≤ 150)) ∧ f.nat 4 1 < 8 ∧ f.zero 5 3 = true)) (by decide +kernel)
    (fun f h => by simp only [Bool.and_eq_true, decide_eq_true_eq] at h; exact ⟨admB_admitted h.1.1, admB_admitted h.1.2, h.2⟩), by decide +kernel⟩

/-- Power with a cap of 100 W, a step, a duty and evaluations below the cap. -/
def SLp (step : BitVec 2) (duty below : Nat) : State :=
  { S with power := { S.power with capW := 100#8, ceiling := 3#2, step := step, duty := duty, below := below, rising := none } }

theorem witness_power_loop :
    ((SLp 3 16 0).boot.phase = .running ∧ (SLp 3 16 0).power.rising = none ∧ (SLp 3 16 0).power.capW.toNat * 1000 < (100001#32).toNat
      ∧ (SLp 0 16 0).power.step.toNat = 0 ∧ (95000#32).toNat * 100 = (SLp 3 16 0).power.capW.toNat * 1000 * 95 ∧ (SLp 1 16 49).power.step.toNat < (SLp 1 16 49).power.ceiling.toNat
      ∧ (SLp 3 15 49).power.duty < 16 ∧ (SLp 3 15 48).power.below < 49 ∧ (SLp 3 16 0).power.hot = false)
    ∧ (nx (.capEvaluation 0#32 0#32) (SLp 1 16 49)).power.rising = some 2#2
    ∧ ((1680#16).toInt = 1680 ∧ (1679#16).toInt < 1680 ∧ S.power.tripped = false)
    ∧ ((SPw true false).clusterIdle 7 = true ∧ ((SPw true false).clusters.get 7).power = .up)
    ∧ (let g := fun (p : ClusterPower) => ({ S with clusters := S.clusters.set 7 { S.clusters.get 7 with power := p } } : State)
       (∀ c, ((g .waking).ctx c).waiting = []) ∧ ((g .waking).clusters.get 7).power = .waking ∧ (∀ c, ((g (.starting 0)).ctx c).waiting = [])
        ∧ ((g (.starting 0)).clusters.get 7).power = .starting 0 ∧ S.activeSlots 7 = 16) := by decide +kernel

def inPhase (p : BootPhase) : State := { S with boot := { S.boot with phase := p }, lantern := { S.lantern with powered := true, wakeMask := 7#3, wakeTime := 1#64 } }

theorem witness_supplies_and_resets :
    ((∀ p ∈ [BootPhase.reset, .running, .bivouac, .halt], (inPhase p).boot.phase = p) ∧ (inPhase .reset).lantern.powered = true)
    ∧ ((inPhase .bivouac).lantern.wakeMask.getLsbD 2 = true ∧ S.lantern.wakeMask.getLsbD 0 = false ∧ (inPhase .bivouac).lantern.wakeTime ≠ 0#64
      ∧ ({ inPhase .bivouac with time := (ST .locked 1).time } : State).nowNs = 1)
    ∧ ((∀ c, (S.ctx c).waiting = []) ∧ S.session 0#16 = none ∧ S.lantern.powered = true ∧ S.lantern.onBkp = false ∧ (nx (.backupSwitch true) S).lantern.onBkp = true) := by
  decide +kernel

/-- A finding in which everything is sound, and its changes. -/
def found : BootFinding :=
  { bankAOk := true, bankBOk := true, slowA := false, slowB := false, die0Ok := true, die1Ok := true, ddr0Ok := true, ddr1Ok := true, ownerOk := true, repairOk := true,
    digestOk := true, romDigest := 1#384, fsDigest := 2#384, fwDigest := 3#384, cert0 := 4#384, cert1 := 5#384, owner := 6#384 }

/-- A powered package before its boot, with banks of numbers `a` and `b`. -/
def SBt (a b : Nat) (warm : Bool) : State :=
  { State.reset with boot := { State.reset.boot with phase := .enabled, warm := warm, booted := some false, bankA := { valid := true, seq := BitVec.ofNat 32 a },
                                                       bankB := { valid := true, seq := BitVec.ofNat 32 b } } }

theorem witness_boot_runs :
    (∀ w, (SBt 1 2 w).boot.phase = .enabled ∧ (SBt 1 2 w).boot.warm = w)
    ∧ ((SBt 1 2 false).eligible true = true ∧ (SBt 1 2 false).eligible false = true ∧ (SBt 1 2 false).boot.bankA.seq.toNat < (SBt 1 2 false).boot.bankB.seq.toNat
      ∧ (SBt 2 2 false).boot.bankB.seq.toNat ≤ (SBt 2 2 false).boot.bankA.seq.toNat)
    ∧ found.die0Ok = true ∧ ({ found with ddr1Ok := false } : BootFinding).ddr1Ok = false ∧ ({ found with die1Ok := false } : BootFinding).die1Ok = false
    ∧ ({ found with slowB := true } : BootFinding).slowB = true ∧ ({ found with bankAOk := false, bankBOk := false } : BootFinding).bankAOk = false
    ∧ ({ found with digestOk := false } : BootFinding).digestOk = false
    ∧ ((nx (.pwrGoodRise 0#16 { found with slowB := true }) (SBt 1 2 false)).boot.phase = .booting true)
    ∧ (nx (.pwrGoodRise 0#16 found) (SBt 1 2 false)).boot.booted = some true := by decide +kernel

/-! A bank image with two signed images, of which the second starts at 0x50000. -/

theorem get_ofList (vs : List Byte) (f : Nat × Byte → Bool) : ∀ (a k : Nat), (∀ i, a ≤ i → i < a + vs.length → ∀ b, f (i, b) = true) → k < vs.length →
    Cells.get ((Cells.ofList a vs).filter f) (a + k) = vs.getD k 0#8 := by
  induction vs with
  | nil => intro a k _ h; simp at h
  | cons v vs ih =>
    intro a k hf h
    simp only [Cells.ofList]
    cases k with
    | zero =>
      by_cases hv : v = 0#8
      · subst hv
        simp only [if_pos, Nat.add_zero, List.getD_cons_zero]
        have hn : ∀ (ws : List Byte) (c : Nat), a < c → Cells.get ((Cells.ofList c ws).filter f) a = 0#8 := by
          intro ws
          induction ws with
          | nil => intro c _; rfl
          | cons w ws iw =>
            intro c hc
            simp only [Cells.ofList]
            split
            · exact iw (c + 1) (by omega)
            · by_cases hw : f (c, w) = true
              · have he : (c == a) = false := beq_false_of_ne (by omega)
                simpa [Cells.get, List.filter_cons, hw, List.find?_cons, he] using iw (c + 1) (by omega)
              · simpa [List.filter_cons, hw] using iw (c + 1) (by omega)
        exact hn vs (a + 1) (by omega)
      · have := hf a (Nat.le_refl _) (by simp) v
        simp [hv, Cells.get, this]
    | succ k =>
      have hk : a + (k + 1) = a + 1 + k := by omega
      have hf' : ∀ i, a + 1 ≤ i → i < a + 1 + vs.length → ∀ b, f (i, b) = true := fun i h1 h2 b => hf i (by omega) (by simp; omega) b
      have ih' := ih (a + 1) k hf' (by simpa using h)
      rw [hk, List.getD_cons_succ]
      split
      · exact ih'
      · have hx := hf a (Nat.le_refl _) (by simp) v
        have hne : (a == a + 1 + k) = false := beq_false_of_ne (by omega)
        rw [List.filter_cons, if_pos hx, ← ih']
        simp [Cells.get, hne]

/-- Bytes laid into an empty memory read back. -/
theorem slice_ofList (a : Nat) (vs : List Byte) : (Cells.ofList a vs).slice a vs.length = vs := by
  apply List.ext_getElem (by simp [Cells.slice])
  intro k h1 h2
  have := get_ofList vs (fun p => decide (a ≤ p.1) && decide (p.1 < a + vs.length)) a k (fun i h h' b => by simp [h, h']) h2
  simp only [Cells.slice, List.getElem_map, List.getElem_range]
  rw [this]; simp [h2]

/-- An object 8 with these bytes at the bottom of memory, under the first signer's key of a part. -/
def withBank (b : List Byte) (writing : Bool) : State :=
  { S with mem := Cells.ofList 0 b, part := { S.part with fwSlots := S.part.fwSlots.set 0 (Sha.digest (eccPublic ownD)), revoked := 0#4 },
           boot := { S.boot with writing := writing, booted := some false },
           host := { S.host with objects := [{ id := 8#32, die := 0, size := b.length, base := 0, written := [], isSealed := true }] } }

theorem withBank_sealed (b : List Byte) (w : Bool) : (withBank b w).sealedBytes 8#32 = some b := by
  simp [State.sealedBytes, State.object, withBank, State.readPhys, slice_ofList]

theorem imageStatus_at (s : State) (pre img post : List Byte) (off len : Nat) (ho : pre.length = off) (hl : img.length = len) :
    s.imageStatus (pre ++ (img ++ post)) off len = s.imageStatus img 0 len := by
  subst ho; subst hl
  have hd : (pre ++ (img ++ post)).drop pre.length = img ++ post := List.drop_left' rfl
  have ht : (img ++ post).take img.length = img := List.take_left' rfl
  simp only [State.imageStatus, hd, ht, List.drop_zero, List.take_length]

/-- An image of 304 bytes with a sound signature or with none, and a bank image that holds it at both places (Table 20-7). -/
def fwImg (ok : Bool) : List Byte :=
  let m := z 64 ++ eccPublic ownD ++ z 15 ++ leBytes 4 0x4E474953 ++ [1#8, 1#8, 0#8, 0#8] ++ z 4 ++ leBytes 4 176 ++ leBytes 8 (keyIdOf (eccPublic ownD)).toNat ++ z 8
  m ++ if ok then sign m else z 96
def fwHead : List Byte := leBytes 4 0x4B4E4142 ++ z 4 ++ leBytes 4 304 ++ leBytes 4 304
def fwBank (ok : Bool) : List Byte := (fwHead ++ z 65520) ++ (fwImg ok ++ (z 261840 ++ fwImg ok))

theorem fwBank_second (ok : Bool) : fwBank ok = (fwHead ++ z 65520 ++ fwImg ok ++ z 261840) ++ (fwImg ok ++ []) := by simp [fwBank]

def ownF (n : Nat) (auth : Dword) (ok : Bool) : Frame :=
  let m := [1#8, 0x3F#8, 0#8, 0#8] ++ leBytes 4 n ++ eccPublic 3 ++ z 7 ++ z 8 ++ leBytes 8 auth.toNat
  req 0x0107 (m ++ if ok then sign (ascii "PLSK1 owner" ++ S.serialBytes ++ m) else z 96)

theorem length_z (n : Nat) : (z n).length = n := List.length_replicate

theorem imageStatus_congr {s t : State} (hp : s.part = t.part) (hs : s.security = t.security) (b : List Byte) (off len : Nat) :
    s.imageStatus b off len = t.imageStatus b off len := by
  cases s; cases t; simp only at hp hs; subst hp; subst hs; rfl

theorem status_withBank (b c : List Byte) (w : Bool) : (withBank b w).imageStatus c 0 304 = (withBank [] w).imageStatus c 0 304 :=
  imageStatus_congr (by simp only [withBank]) (by simp only [withBank]) _ _ _

theorem fwBank_status (ok w : Bool) : (withBank (fwBank ok) w).imageStatus (fwBank ok) 0x10000 304 = (withBank [] w).imageStatus (fwImg ok) 0 304
    ∧ (withBank (fwBank ok) w).imageStatus (fwBank ok) 0x50000 304 = (withBank [] w).imageStatus (fwImg ok) 0 304 := by
  have hi : (fwImg ok).length = 304 := by cases ok <;> decide +kernel
  have hh : fwHead.length = 16 := by decide +kernel
  refine ⟨(imageStatus_at (withBank (fwBank ok) w) (fwHead ++ z 65520) (fwImg ok) _ _ _ (by simp only [List.length_append, length_z, hh]) hi).trans (status_withBank _ _ _), ?_⟩
  refine (congrArg (fun b => (withBank (fwBank ok) w).imageStatus b 0x50000 304) (fwBank_second ok)).trans ?_
  exact (imageStatus_at (withBank (fwBank ok) w) (fwHead ++ z 65520 ++ fwImg ok ++ z 261840) (fwImg ok) [] _ _ (by simp only [List.length_append, length_z, hh, hi]) hi).trans (status_withBank _ _ _)

theorem fwImg_status : ∀ ok ∈ [true, false], (withBank [] false).imageStatus (fwImg ok) 0 304 = (if ok then 0x0000#16 else 0x0701#16, 0) := by decide +kernel

theorem fwBank_head (ok : Bool) : fieldAt (fwBank ok) 0 4 = 0x4B4E4142 ∧ fieldAt (fwBank ok) 8 4 = 304 ∧ fieldAt (fwBank ok) 0x0C 4 = 304
    ∧ ∀ i, i < 48 → (fwBank ok).getD (16 + i) 0#8 = 0#8 := by
  cases ok <;> decide +kernel

theorem witness_security_messages :
    (∀ n ∈ [0, 1, 15], ∃ x, Admitted (SX (car 2 [] [])) (tagged (req 0x0105 (z 34 ++ leBytes 1 n ++ z 5))) x)
    ∧ ((1).testBit 0 = true ∧ ((SX (car 2 [] [])).carrier 0).cfg.isSome = true ∧ (15).testBit 1 = true ∧ ((SX (car 2 [] [])).carrier 1).cfg = none)
    ∧ ((∀ w ok, ∃ x, Admitted (withBank (fwBank ok) w) (tagged (req 0x0106 (leBytes 4 8))) x) ∧ (∀ w ok, (withBank (fwBank ok) w).sealedBytes 8#32 = some (fwBank ok))
      ∧ (∀ ok, fieldAt (fwBank ok) 0 4 = 0x4B4E4142 ∧ fieldAt (fwBank ok) 8 4 = 304 ∧ fieldAt (fwBank ok) 0x0C 4 = 304 ∧ ∀ i, i < 48 → (fwBank ok).getD (16 + i) 0#8 = 0#8)
      ∧ (∀ ok ∈ [true, false], (withBank (fwBank ok) false).imageStatus (fwBank ok) 0x10000 304 = (if ok then 0x0000#16 else 0x0701#16, 0)
          ∧ (withBank (fwBank ok) false).imageStatus (fwBank ok) 0x50000 304 = (if ok then 0x0000#16 else 0x0701#16, 0))
      ∧ ∀ w ok, (withBank (fwBank ok) w).boot.writing = w ∧ (withBank (fwBank ok) w).boot.booted ≠ some true)
    ∧ ((∀ p ∈ [(ownF 1 5#64 true, true), (ownF 1 5#64 false, false), (ownF 2 5#64 false, false), (ownF 1 6#64 false, false)],
          (∃ x, Admitted SH (tagged p.1) x) ∧ (ownerFieldsOk p.1 = true ∧ p.1.nat 0 1 = 1 ∧ SH.ownerSigOk p.1 = p.2))
      ∧ SH.owned = true ∧ SH.security.counter 1 = 0 ∧ (∃ k ∈ SH.security.owners, k.id = 5#64 ∧ k.admin = true) ∧ (∀ k ∈ SH.security.owners, k.id = 6#64 → k.admin = false)
      ∧ (ownersAfter (ownF 1 5#64 true) SH.security.owners).length ≤ 16 ∧ (ownersAfter (ownF 1 5#64 true) SH.security.owners).any (·.admin) = true)
    ∧ (∀ w, ∃ x, Admitted (withBank [] w) (tagged (req 6 (z 8))) x) :=
  ⟨all_of (p := fun n => admB (SX (car 2 [] [])) (req 0x0105 (z 34 ++ leBytes 1 n ++ z 5))) (by decide +kernel) (fun f h => admB_admitted h), by decide +kernel,
   ⟨fun w ok => admB_admitted (by cases w <;> cases ok <;> decide +kernel), fun w ok => withBank_sealed (fwBank ok) w, fwBank_head,
    fun ok h => ⟨(fwBank_status ok false).1.trans (fwImg_status ok h), (fwBank_status ok false).2.trans (fwImg_status ok h)⟩,
    fun w ok => by cases w <;> cases ok <;> decide⟩,
   ⟨all_of (p := fun p => admB SH p.1 && decide (ownerFieldsOk p.1 = true ∧ p.1.nat 0 1 = 1 ∧ SH.ownerSigOk p.1 = p.2)) (by decide +kernel)
      (fun f h => by simp only [Bool.and_eq_true, decide_eq_true_eq] at h; exact ⟨admB_admitted h.1, h.2⟩), by decide +kernel⟩,
   fun w => admB_admitted (by cases w <;> decide +kernel)⟩

/-! ### Witnesses: radio DSP cores -/

/-- A slot word: opcode and fields as (value, first bit). -/
def dw (op : Nat) (fs : List (Nat × Nat)) : Word := BitVec.ofNat 32 (fs.foldl (fun n f => n + f.1 * 2 ^ f.2) (op * 2 ^ 26))

/-- `S` with core 12 running, in a given state. -/
def SDs (x : Dsp) : State := { S with dsps := S.dsps.set 12 { x with ctl := 0x80000000#32 ||| x.ctl, halted := false } }
def dsp0 : Dsp := { pc := 64#17 }

def bundleB (s : State) (d : DspId) (a b : Word) : Bool :=
  (s.dsp d).runs && (s.dsp d).held.isNone && (s.dsp d).cycle.legal a b && ((s.dsp d).cycle.faultA (s.winOk d) a).isNone && !(s.dsp d).cycle.holdA a

theorem bundle_of {s : State} {d : DspId} {a b : Word} (h : bundleB s d a b = true) : BundleReady s d a b := by
  simp only [bundleB, Bool.and_eq_true, Bool.not_eq_true', Option.isNone_iff_eq_none] at h
  exact ⟨h.1.1.1.1, h.1.1.1.2, h.1.1.2, h.1.2, h.2⟩

def aluOps : List Nat := [0x10, 0x11, 0x12, 0x13, 0x14, 0x15, 0x16, 0x17, 0x18, 0x19]

theorem witness_dsp_arithmetic :
    ∀ w ∈ aluOps.map (fun o => dw o [(3, 22)]) ++ aluOps.map (fun o => dw o [(3, 22), (1, 13)]) ++ [dw 0x1B [(1, 13)], dw 0x1D [(0xFFFF, 0)], dw 0x1E [(0x8000, 0)], dw 0x1E [(1, 16)], dw 0x1A [], dw 0x1A [(1, 13)]],
      BundleReady (SDs dsp0) 12 0#32 w :=
  all_of (p := fun w => bundleB (SDs dsp0) 12 0#32 w) (by decide +kernel) (fun w h => bundle_of h)

def accWords : List Word :=
  [dw 0x20 [(1, 25), (1, 16), (1, 15)], dw 0x20 [(1, 14)], dw 0x21 [(1, 14)], dw 0x22 [(39, 14)], dw 0x22 [(1, 13), (2, 20)], dw 0x22 [(1, 12)], dw 0x23 [(8, 14)], dw 0x23 [(1, 12)],
   dw 0x3F [(7, 17)], dw 0x3F [(28, 17)], dw 0x3F [(29, 17)], dw 0x3F [(30, 17)], dw 0x3F [(31, 17), (1, 16)]]

theorem witness_dsp_accumulators : ∀ w ∈ accWords, BundleReady (SDs dsp0) 12 0#32 w :=
  all_of (p := fun w => bundleB (SDs dsp0) 12 0#32 w) (by decide +kernel) (fun w h => bundle_of h)

def straightB (x : Dsp) : Bool := x.branch.isNone && [1, 4].all fun b => !decide ((x.ctlReg (b + 2)).toNat = x.pc.toNat) || decide ((x.ctlReg b).toNat ≤ 1)

theorem straight_of {x : Dsp} (h : straightB x = true) : Straight x := by
  simp only [straightB, List.all_cons, List.all_nil, Bool.and_true, Bool.and_eq_true, Bool.or_eq_true, Bool.not_eq_true', decide_eq_false_iff_not, decide_eq_true_eq,
    Option.isNone_iff_eq_none] at h
  refine ⟨h.1, fun b hb e => ?_⟩
  rcases hb with rfl | rfl
  · exact h.2.1.resolve_left (fun n => n e)
  · exact h.2.2.resolve_left (fun n => n e)

/-- Loads and stores of every size and mode, AMOV, loops of 0 and 1 pass, branches, a DMA of 0 and of 8 bytes, WAIT, SIG. -/
def slotAWords : List Word :=
  [0#32, dw 1 [], dw 1 [(1, 14), (1, 12)], dw 1 [(2, 14), (2, 12), (0xFFF, 0)], dw 1 [(2, 14), (0, 12), (3, 22)], dw 2 [(1, 14)], dw 2 [(2, 14), (1, 12)], dw 2 [], dw 3 [(1, 25), (1, 21), (0x1FFFF, 0)],
   dw 4 [(1, 0)], dw 4 [(1, 25), (255, 0), (1, 8)], dw 5 [(9, 22), (0x3FFFFF, 0)], dw 6 [], dw 7 [], dw 8 [], dw 9 [(3, 24)], dw 9 [(7, 19)], dw 0xA [], dw 0xB [(0xFFFF, 0)]]

/-- A kernel of core 12 with a scratch window of 64 bytes, and a descriptor at address 0 that copies 8 bytes into it. -/
def kern1 : Kernel := { id := 1#32, cores := [12], windows := [.scratch 64 []] }
def desc8 (out : Bool) : List Byte := z 4 ++ [if out then 0x10#8 else 0#8] ++ [8#8, 0#8, 0#8] ++ z 8
def dspD (h : Option (List Byte)) : Dsp :=
  { dsp0 with a := dsp0.a.set 7 64#17, mem := Cells.ofList 0 (desc8 true), chans := dsp0.chans.set 0 { run := h } }
def SDk (x : Dsp) : State := { SDs x with kernels := [kern1] }

theorem witness_dsp_slot_a :
    (∀ w ∈ slotAWords, BundleReady (SDk { dspD none with a := dsp0.a.set 7 64#17 }) 12 w 0#32) ∧ Straight ((SDk (dspD none)).dsp 12).cycle
    ∧ descBytes (((SDk (dspD none)).dsp 12).mem.slice 64 16) = 0 ∧ descBytes (((SDk (dspD none)).dsp 12).mem.slice 0 16) = 8 :=
  ⟨all_of (p := fun w => bundleB (SDk { dspD none with a := dsp0.a.set 7 64#17 }) 12 w 0#32) (by decide +kernel) (fun w h => bundle_of h),
   straight_of (by decide +kernel), by decide +kernel⟩

def inBranch (left : Nat) (rti : Bool) : Dsp := { dsp0 with branch := some { left := left, target := 0x100#17, taken := true, rti := rti } }
/-- At the last bundle of loop 0 (registers 1 to 3) or 1 (4 to 6), with two passes left. -/
def inLoop (n : Nat) : Dsp := ((dsp0.setCtl n 2#32).setCtl (n + 1) 0x20#32).setCtl (n + 2) 64#32

theorem witness_dsp_turns :
    (∀ x ∈ [inBranch 2 false, inBranch 1 true, inBranch 1 false, inLoop 1, inLoop 4], BundleReady (SDs x) 12 0#32 0#32)
    ∧ (isBranch (dw 5 []) = true ∧ (∀ n ∈ [1, 4], ((inLoop n).ctlReg (n + 2)).toNat = 64 ∧ 1 < ((inLoop n).ctlReg n).toNat) ∧ ((inLoop 1).ctlReg 6).toNat ≠ 64) :=
  ⟨all_of (p := fun x => bundleB (SDs x) 12 0#32 0#32) (by decide +kernel) (fun w h => bundle_of h), by decide +kernel⟩

/-- Core 12 with a transfer under way on channel 0. -/
def SBusy : State := SDk (dspD (some (desc8 true)))

theorem witness_dsp_holds :
    ([dw 9 [], dw 0xA [(1, 16)]].all fun w => (SBusy.dsp 12).runs && (SBusy.dsp 12).held.isNone && (SBusy.dsp 12).cycle.legal w 0#32
      && ((SBusy.dsp 12).cycle.faultA (SBusy.winOk 12) w).isNone && (SBusy.dsp 12).cycle.holdA w) = true := by decide +kernel

theorem witness_dsp_events :
    (let x := (SDs { (dsp0.setCtl 27 2#32).setCtl 0 0x20#32 with ipend := 2#3 }).dsp 12
     x.runs = true ∧ x.cycle.fl.getLsbD 5 = true ∧ x.branch = none ∧ x.shadow = 0 ∧ (x.cycle.ctlReg 27).getLsbD 1 = true ∧ x.ipend.getLsbD 1 = true)
    ∧ (∀ c : DspId, (c = 12 ∨ c = 0) → let x := ({ S with dsps := S.dsps.set c { dsp0 with ctl := 0x80000001#32, halted := false, a := dsp0.a.set 0 1#17 } } : State).dsp c
        x.runs = true ∧ x.held = none ∧ x.cycle.legal (dw 0x3E []) 0#32 = false ∧ x.cycle.legal (dw 1 []) 0#32 = true ∧ (x.cycle.address (dw 1 []) 0#64).1 % 2 ≠ 0
        ∧ bitsOf x.ctl.toNat 0 24 ≠ 0)
    ∧ (let x := (SDk { dspD none with mem := Cells.ofList 0 [1#8] }).dsp 12
       x.cycle.legal (dw 9 []) 0#32 = true ∧ x.cycle.holdA (dw 9 []) = false ∧ dspDescOk (x.mem.slice (x.cycle.ar 0).toNat 16) = false)
    ∧ (∀ o ∈ [true, false], let s := SDk (dspD (some (desc8 o))); ((s.dsp 12).chan 0).run = some (desc8 o) ∧ (s.dsp 12).held = none ∧ (s.dsp 12).stopping = false
        ∧ s.kernelOf 12 = some kern1 ∧ kern1.windows[descWindow (desc8 o)]? = some (.scratch 64 []) ∧ descOut (desc8 o) = o)
    ∧ (0x80000000#32).getLsbD 31 = true := by decide +kernel

/-- The same under counter 0, with security version 2. -/
def signedAt (kind : Nat) (b : List Byte) : List Byte :=
  let m := b ++ leBytes 4 0x4E474953 ++ [1#8, BitVec.ofNat 8 kind, 0#8, 0#8] ++ leBytes 2 2 ++ z 2 ++ leBytes 4 b.length ++ leBytes 8 5 ++ z 8
  m ++ sign m
def SOs (b : List Byte) : State := { SOf b with kernels := [kern1], dsps := (SDk (dspD none)).dsps }
def SOk : State := SOs (signed 5 kernImg)
/-- `SOs` with counter 0 raised to `n`. -/
def SOr (n : Nat) : State := (SOs (signedAt 5 kernImg)).modSec (·.raise 0 n)

theorem witness_kernels :
    (∀ f ∈ [req 0x0A0E (leBytes 4 1), req 0x0A0F (leBytes 4 1), req 0x0A10 (leBytes 4 1), req 0x0A11 (leBytes 4 1), req 0x0A12 (leBytes 4 1 ++ z 4 ++ leBytes 8 60 ++ leBytes 4 4 ++ leBytes 4 6)],
      (∃ x, Admitted SOk (tagged f) x) ∧ ∃ x, Admitted (SOr 1) (tagged f) x)
    ∧ SOk.sealedBytes 1#32 = some (signed 5 kernImg) ∧ (SOr 1).sealedBytes 1#32 = some (signedAt 5 kernImg)
    ∧ (let b := signed 5 kernImg
       SOk.checkSigned 5 b = 0x0000#16 ∧ SOk.checkSigned 4 b ≠ 0x0000#16 ∧ kernelOk b (b.length - 128) SOk.freeDsps.length = true ∧ kernelOk b (b.length - 128) 0 = false
        ∧ (sigOf b).any (fun g => g.counter == 255) = true ∧ SOk.kernels.foldl (fun n k => n + scratchTotal k.windows) 0 + scratchTotal ((imageWindows b).filterMap id) ≤ 0x400000)
    ∧ (let b := signedAt 5 kernImg
       (sigOf b).any (fun g => g.counter == 0) = true ∧ (SOr 1).checkSigned 5 b = 0x0000#16 ∧ (SOr 0).checkSigned 5 b = 0x0000#16 ∧ kernelOk b (b.length - 128) (SOr 1).freeDsps.length = true
        ∧ fieldAt b 0x14 4 < (SOr 1).security.counter 0 ∧ (SOr 0).security.counter 0 ≤ fieldAt b 0x14 4)
    ∧ SOk.kernels.find? (fun k => k.id.toNat == 1) = some kern1 ∧ (SOk.dsp 12).runs = true ∧ (S.dsp 12).runs = false
    ∧ (SOk.object 6#32).map (fun o => (o.isSealed, o.size)) = some (false, 16) :=
  ⟨fun f h => ⟨all_of (p := fun f => admB SOk f) (by decide +kernel) (fun f h => admB_admitted h) f h,
    all_of (p := fun f => admB (SOr 1) f) (by decide +kernel) (fun f h => admB_admitted h) f h⟩, by decide +kernel⟩

/-! ### Witnesses: invariants -/

theorem witness_invariants :
    Memory.wf S.mem ∧ (SD 8).mem ≠ [] ∧ Memory.wf (SD 8).mem
    ∧ (∀ n, n < 64 → S.security.counter n ≤ 256) ∧ (∀ i : Fin 16, 13 ≤ i.val → S.security.regs.get i = 0#384 ∧ S.security.counts.get i = 0#16)
    ∧ ({ S with pending := [.devPing (req 3 [])] } : State).pending ≠ [] := by decide +kernel

/-! ### Values that the spec writes out -/

def opTile (mode fa fb kbase gsize : Nat) (grp : Bool) : TileOp :=
  { mode := mode, fmtA := fa, fmtB := fb, grp := grp, acc := false, conjA := false, conjB := false, kbase := kbase, gsize := gsize }

/-- 01, the example of R24: core memory of core 31. -/
theorem expect_core_memory_base : coreAddr 31 0 = 0x0881F000000 := by decide +kernel

/-- 02, the example of R45: two E4M3 products on 2^24. -/
theorem expect_steps_round_one_by_one :
    (runSteps (opTile 0 4 4 0 0 false) 0 [0x38, 0x38] [0x38, 0x38] { re := 0x4B800000#32, im := 0#32, idx := 0#6 }).re = 0x4B800000#32 := by decide +kernel

/-- 02, the example of R48: SQDIST on CI8, 37 - 12j against 45 - 15j. -/
theorem expect_sqdist : (runSteps (opTile 1 9 9 0 0 false) 0 [0xF425] [0xF12D] { re := 0#32, im := 0#32, idx := 0#6 }).re = 73#32 := by decide +kernel

/-- 02, the example of R49: MINPLUS with kbase 8, and with a last sum of 1 already held. -/
theorem expect_minplus :
    let c : CellSt := { re := 0x7FFFFFFF#32, im := 0#32, idx := 0#6 }
    let r := runSteps (opTile 3 1 1 8 0 false) 0 [5, 2, 7, 3] [0xFF, 3, 0xFA, 0] c
    let q := runSteps (opTile 3 1 1 8 0 false) 0 [5, 2, 7, 1] [0xFF, 3, 0xFA, 0] c
    r.re = 1#32 ∧ r.idx = 10#6 ∧ q.idx = 10#6 := by decide +kernel

/-- 02, the encoding example of ENG_TILE: bits [127:64]. -/
theorem expect_tile_fields :
    let w : CmdWord := BitVec.ofNat 128 (0xF0000110 * 2 ^ 96 + 0x20081000 * 2 ^ 64 + 0x512)
    opcodeOf w = 0x12 ∧ unitOf w = 5 ∧ engMaskOf w = 15 ∧ tileMode w = 0 ∧ tileFmtA w = 1 ∧ tileFmtB w = 1 ∧ tileK w = 512 ∧ tileM w = 64 ∧ tileN w = 64 ∧ tileAcc w = false
      ∧ resClear w = true := by decide +kernel

/-- 03, the example of R78: 40,000 as a CI16 lane and as FP16. -/
theorem expect_conversions :
    convLane 10 (FV.ofInt 40000) = { code := 32767, sat := true } ∧ convReal 7 {} (FV.ofInt 40000) = { code := 0x78E2 } := by decide +kernel

/-- 03, the example of R81: 0x3F804CCD to BF16 with the draws around 45,875, and to nearest even. -/
theorem expect_stochastic_rounding :
    (convReal 6 { draw := some 45875 } (f32 0x3F804CCD#32)).code = 0x3F81 ∧ (convReal 6 { draw := some 45874 } (f32 0x3F804CCD#32)).code = 0x3F80
      ∧ (convReal 6 {} (f32 0x3F804CCD#32)).code = 0x3F80 := by decide +kernel

/-- 04, the example of R91: a group sum under scales 0x2C and 0x41, then panels 0.0625 and 0.5 and BF16. -/
theorem expect_group_scales :
    groupLane 0x447A2000#32 (FV.ofInt 12345) (decodeMag ue4m3F false 0x2C) (decodeMag ue4m3F false 0x41) = (0x46326260#32, 0#8)
      ∧ (convReal 6 {} (f32 (rowScaleLane 0x46326260#32 (f32 0x3D800000#32) (f32 0x3F000000#32)))).code = 0x43B2 := by decide +kernel

/-- 04, the example of R98: 3.1 and -0.02 in a group under panel scale 1. -/
theorem expect_group_write :
    writeGroup 4 0x3F800000#32 false false (fun _ => 0) [{ col := 0, re := f32 0x40466666#32 }, { col := 1, re := f32 0xBCA3D70A#32 }] = (0x04, [(0, 0x7C), (1, 0xC2)], [(0, 0#8), (1, 0#8)]) := by decide +kernel

/-- 05, the example of R120: a rotate by 10 over segments of 96 in 200 lanes. -/
theorem expect_rotate :
    let g : Stage := { stageOf 0 with func := 0x12, sub := 1, seg := 96 }
    permSrc g 200 (fun _ => 10) 90 = 4 ∧ permSrc g 200 (fun _ => 10) 185 = 99 ∧ permSrc g 200 (fun _ => 10) 192 = 202 ∧ permSrc g 200 (fun _ => 10) 199 = 209 := by
  decide +kernel

/-- 08, the example of R188: a stake of 0x18 against two targets. -/
theorem expect_stake_difference : (0x18#32 - 0x18#32).toInt = 0 ∧ (0x18#32 - 0xFFFFFFF8#32).toInt = 0x20 := by decide +kernel

/-- 08, the example of R202: the walk of VA 0x180_4045_2340, and of a 2 MiB leaf. -/
theorem expect_translation :
    let tables := [(0x10000 + 0x18, 0x11001), (0x11000 + 0x08, 0x12001), (0x12000 + 0x10, 0x13001), (0x13000 + 0x28, 0x3A150007)]
    let s := tables.foldl (fun (t : State) p => t.writePhys p.1 (leBytes 8 p.2)) S
    s.walk 0x18040452340 true 4 0 0x10000 = .ok 0x3A152340
      ∧ (s.writePhys (0x12000 + 0x10) (leBytes 8 0x80000007)).walk 0x18040452340 true 4 0 0x10000 = .ok 0x80052340 := by decide +kernel

/-- 10, the example of R266: the fallback test with f_C = 40 and f_L = 61 or 92. -/
theorem expect_fallback_test :
    ∀ p ∈ [(61, 0), (92, 0)],
      let s := SX { car 2 [] [] with rx := .learned, pairs := 4096, failL := p.1, failC := 40, winPolicy := (4096, 10) }
      ((s.evalWindow 0 slot0).carrier 0).rx.code = if p.1 = 61 then 2 else 3 := by decide +kernel

/-- 11, the example of R311: gains of 16 and 17 dB from 20 and 16 dB. -/
theorem expect_agc :
    let r := (Dfe.agcOf State.reset.dfe 0).toNat
    agcStep r (-54) 0 = -4 ∧ agcGain r 20 (-4) = 16 ∧ agcStep r (-70) 0 = 0 ∧ agcStep r (-88) 0 = 1 ∧ agcGain r 16 1 = 17 := by decide +kernel

/-- 11, the example of R317: the lane 5,000 at 9 bits. -/
theorem expect_block_floating_point : fhPrb 9 [0x459C4000#32] = some (5#4, [156]) := by decide +kernel

/-- 12, the example of R331: the circular buffer of 192 bytes at 0x4000. -/
theorem expect_circular_buffer :
    let x : Dsp := { ((dsp0.setCtl 10 0x4000#32).setCtl 18 192#32) with a := dsp0.a.set 2 0x40B8#17, o := dsp0.o.set 2 16#17 }
    x.address (dw 1 [(2, 19), (2, 14)]) 0#64 = (0x40B8, some 0x4008) := by decide +kernel

/-- 12, the example of R326: the words of a load and of a conjugate complex MAC. -/
theorem expect_dsp_words :
    dw 1 [(5, 22), (2, 19), (2, 16), (1, 14)] = 0x05524000#32 ∧ dw 0x20 [(5, 21), (6, 17), (1, 16)] = 0x80AD0000#32
      ∧ legalA 0x05524000#32 = true ∧ legalB 0x80AD0000#32 = true ∧ destsA 0x05524000#32 = [.d 5, .a 2] := by decide +kernel

/-- 13, the example of R347: the first four chips of sequence 0. -/
theorem expect_beacon_chips : (beaconSequence 0).take 4 = [false, true, true, true] := by decide +kernel

/-- 13, the example of R349: path 17 of carrier 1 with src_tag 2 in round 300. -/
theorem expect_beacon_header : calHeader 2 false 1 17 300 = 0x1228AC#24 := by decide +kernel

/-- DDDSU at 30 kHz with 273 PRBs; the special slot has symbols 10 and 11 flexible, 12 and 13 up. -/
def dddsu : List Byte :=
  (cellB 1).take 4 ++ leBytes 2 273 ++ ((cellB 1).drop 6).take 60 ++ [5#8, 0#8] ++ z 12 ++ leBytes 4 (2 * 2 ^ 20 + 2 * 2 ^ 22 + 2 ^ 24 + 2 ^ 26) ++ leBytes 4 0x5555555 ++ z 60
    ++ (cellB 1).drop 148

/-- 13, the example of R351: a guard of two symbols that holds five beacon symbols at rate 0. -/
theorem expect_burst_room :
    (guardLen dddsu 3 10).map (burstRoom dddsu 0x500FA0C8#32 32 false 0) = some 5 ∧ guardLen dddsu 3 9 = none ∧ guardLen dddsu 4 0 = none := by decide +kernel

/-- 14, the example of R370: 3,010 and 3,070 errors against 3,120. -/
theorem expect_validation : candidatePasses (policyDefault 0) 8000 3120 3010 = true ∧ candidatePasses (policyDefault 0) 8000 3120 3070 = false := by decide +kernel

/-- 15, the example of R385: 25 ns leave as 1,274.75 ns. -/
theorem expect_transparent_clock :
    addResidence 0x190000#64 (BitVec.ofNat 64 (5000123456 * 65536 + 0x8000)) (BitVec.ofNat 64 (5000124706 * 65536 + 0x4000)) = 0x4FAC000#64 := by decide +kernel

/-- 15, the example of R387: the alarm before and after the wrap, 2^39 + 1 ns ahead, and 2^39 ns ahead. -/
theorem expect_alarm_differences :
    let due := fun (now target : BitVec 40) => decide (0 ≤ (now - target).toInt)
    due 0xFFFFFFFF00#40 0x100#40 = false ∧ (0xFFFFFFFF00#40 - 0x100#40).toInt = -512 ∧ due 0#40 0x8000000001#40 = true ∧ due 0#40 0x8000000000#40 = false := by decide +kernel

/-- 17, the example of R430: 2^24, 1, 1 and 2 folded in rank order. -/
theorem expect_reduction_order :
    [0x3F800000#32, 0x3F800000#32, 0x40000000#32].foldl fadd 0x4B800000#32 = 0x4B800001#32 := by decide +kernel

/-- 19, the example of R466: cluster 3 with bad slots 5 and 16, as either grade. -/
theorem expect_bad_slots :
    let bad : BitVec 144 := BitVec.ofNat 144 (2 ^ (54 + 5) + 2 ^ (54 + 16))
    let p := { State.reset.part with badSlots := bad }
    fusedFields { p with sh9632 := false } 3 = [0, 1, 2, 3, 4, 17, 6, 7, 8, 9, 10, 11, 12, 13, 14, 15]
      ∧ fusedFields { p with sh9632 := true } 3 = [0, 1, 2, 31, 4, 6, 7, 31, 8, 9, 10, 31, 12, 13, 14, 31]
      ∧ [3, 11, 15, 17].map (fusedState { p with sh9632 := true } 3) = [.fusedOff, .fusedOff, .spare, .spare] := by decide +kernel

/-- 20, the example of R493: the block of a DSP kernel image of 5,312 bytes. -/
theorem expect_signature_block :
    (sigBlockOf 5312 (leBytes 4 0x4E474953 ++ [1#8, 5#8, 0xFF#8, 0#8] ++ z 4 ++ leBytes 4 5184 ++ z 112)).map (fun k => (k.kind, k.counter)) = some (5, 255) := by decide +kernel

/-- CRC-32 of the digits 1 to 9 (R421 names the polynomial; the value is the well-known check value). -/
theorem expect_crc32 : crc32 [0x31#8, 0x32#8, 0x33#8, 0x34#8, 0x35#8, 0x36#8, 0x37#8, 0x38#8, 0x39#8] = 0xCBF43926#32 := by decide +kernel

/-- The example of R431: 2^24, 1.0, 1.0 and 2.0 fold to 16,777,218 in rank order; the other order gives 16,777,220. -/
theorem expect_collective_fold : foldRanks false [0x4B800000#32, 0x3F800000#32, 0x3F800000#32, 0x40000000#32] = 0x4B800001#32
    ∧ foldRanks false [0x3F800000#32, 0x3F800000#32, 0x40000000#32, 0x4B800000#32] = 0x4B800002#32 := by decide +kernel

/-! ### Ill-formed terms -/

theorem refuses_wrong_opcode : (Instr.seqNop 0 (cw 1 0 [])).wf = false ∧ (Instr.seqNop 0 (cw 0 0 [])).wf = true := by decide
theorem refuses_wrong_dsp_opcode : (Instr.dspNop 0 (dw 1 []) 0#32).wf = false ∧ (Instr.dspNop 0 0#32 0#32).wf = true := by decide
theorem refuses_wrong_type : (Instr.devPing (req 2 [])).wf = false ∧ (Instr.devPing (req 3 [])).wf = true := by decide
theorem refuses_wrong_version : (Instr.devPing { req 3 [] with vflags := 0x10#8 }).wf = false := by decide
theorem refuses_wrong_mailbox : (Instr.devPing { req 3 [] with mailbox := 1#8 }).wf = false := by decide
theorem refuses_long_payload : (Instr.devPing (req 3 (z 1409))).wf = false := by decide +kernel
theorem refuses_wrong_length : (Instr.devPing { req 3 [0#8] with length := 2#16 }).wf = false := by decide
theorem refuses_wrong_datagram_size : (Instr.devPing { req 3 [0#8] with udpLen := 34 }).wf = false := by decide
theorem refuses_wrong_job_type : (Instr.jobKill (req 0x0203 [])).wf = false ∧ (Instr.jobKill (req 0x0A04 [])).wf = false ∧ (Instr.jobKill (req 0x0104 [])).wf = false
    ∧ (Instr.jobKill (req 0x0204 [])).wf = true := by decide
theorem refuses_empty_placement : (Instr.jobPlace [] 0#42 [] []).wf = false := by decide
theorem refuses_unmatched_placement : (Instr.jobPlace [0] 0#42 [] []).wf = false ∧ (Instr.jobPlace [0] 0#42 [] [[]]).wf = true := by decide
theorem refuses_long_image : placeFits [0] [z 0x400001] = false := by
  simp only [placeFits, List.all_cons, length_z]; decide
theorem refuses_many_lines : (Instr.dfeRxSymbol 0 0 (List.replicate 65 [])).wf = false ∧ (Instr.prachDetect 0 0#32 0#16 (List.replicate 65 [])).wf = false
    ∧ (Instr.calBurst 0 0 (List.replicate 65 [])).wf = false ∧ (Instr.calBurst 0 0 [[]]).wf = true := by decide +kernel
theorem refuses_part_windows : (Instr.maskMonitor 0 0 [(0, 0)] []).wf = false ∧ (Instr.maskMonitor 0 0 [] [(0, 0)]).wf = false ∧ (Instr.maskMonitor 0 0 [] []).wf = true := by
  decide +kernel
theorem refuses_other_bursts : (Instr.dpdAdapt 0 [(0, 0)]).wf = false := by decide +kernel
theorem refuses_short_flit : (Instr.trailFlit 0 (z 255) 0 .other).wf = false ∧ (Instr.trailFlit 0 (z 256) 0 .other).wf = true := by decide +kernel

end Sys2Proof.Tests
end

section
/-!
Reading back what was written to sparse memory, bytes of numbers, and halves of words.
-/
namespace Sys2Proof

/-! ### Sparse memory -/

namespace Cells

variable {w : Nat}

theorem get_eq_zero {c : Cells w} {k : Nat} (h : ∀ p ∈ c, p.1 ≠ k) : c.get k = 0#w := by
  have hn : c.find? (fun p => p.1 == k) = none := List.find?_eq_none.mpr fun p hp => by simpa using h p hp
  simp [Cells.get, hn]

theorem get_append_left (x : Cells w) {y : Cells w} {k : Nat} (h : ∀ p ∈ y, p.1 ≠ k) : Cells.get (x ++ y) k = x.get k := by
  have hn : y.find? (fun p => p.1 == k) = none := List.find?_eq_none.mpr fun p hp => by simpa using h p hp
  simp [Cells.get, List.find?_append, hn]

theorem get_append_right {x : Cells w} (y : Cells w) {k : Nat} (h : ∀ p ∈ x, p.1 ≠ k) : Cells.get (x ++ y) k = y.get k := by
  have hn : x.find? (fun p => p.1 == k) = none := List.find?_eq_none.mpr fun p hp => by simpa using h p hp
  simp [Cells.get, List.find?_append, hn]

/-- A part of the memory that holds every place `k` of it reads the same there. -/
theorem get_filter (c : Cells w) {f : Nat × BitVec w → Bool} {k : Nat} (h : ∀ v, f (k, v) = true) : Cells.get (c.filter f) k = c.get k := by
  have hf : (c.filter f).find? (fun p => p.1 == k) = c.find? fun p => p.1 == k := by
    rw [List.find?_filter]
    congr 1
    funext ⟨i, v⟩
    by_cases hi : i = k
    · subst hi; simp [h v]
    · simp [hi]
  simp only [Cells.get, hf]

theorem get_ofList (vs : List (BitVec w)) : ∀ a i, (Cells.ofList a vs).get (a + i) = vs.getD i 0#w := by
  induction vs with
  | nil => intro a i; rfl
  | cons v vs ih =>
    intro a i
    have hlater : ∀ p ∈ Cells.ofList (a + 1) vs, p.1 ≠ a := fun p hp => by
      have := (Cells.ofList_mem vs (a + 1) p hp).1; omega
    cases i with
    | zero =>
      by_cases hv : v = 0#w
      · simp [Cells.ofList, hv, get_eq_zero hlater]
      · simp [Cells.ofList, hv, Cells.get]
    | succ i =>
      have hi := ih (a + 1) i
      rw [show a + 1 + i = a + (i + 1) by omega] at hi
      by_cases hv : v = 0#w
      · simpa [Cells.ofList, hv] using hi
      · simpa [Cells.ofList, hv, Cells.get] using hi

theorem get_splice_outside (c : Cells w) {a k : Nat} (vs : List (BitVec w)) (h : k < a ∨ a + vs.length ≤ k) : (c.splice a vs).get k = c.get k := by
  have hnew : ∀ p ∈ Cells.ofList a vs, p.1 ≠ k := fun p hp => by
    have := Cells.ofList_mem vs a p hp; omega
  unfold Cells.splice
  rcases h with h | h
  · have hhi : ∀ p ∈ c.filter (fun p => decide (a + vs.length ≤ p.1)), p.1 ≠ k := fun p hp => by
      have := of_decide_eq_true (List.mem_filter.mp hp).2; omega
    rw [get_append_left _ hhi, get_append_left _ hnew, get_filter c fun v => by simpa using h]
  · have hlo : ∀ p ∈ c.filter (fun p => decide (p.1 < a)), p.1 ≠ k := fun p hp => by
      have := of_decide_eq_true (List.mem_filter.mp hp).2; omega
    rw [List.append_assoc, get_append_right _ hlo, get_append_right _ hnew, get_filter c fun v => by simpa using h]

theorem get_splice_inside (c : Cells w) {a i : Nat} (vs : List (BitVec w)) (h : i < vs.length) : (c.splice a vs).get (a + i) = vs[i] := by
  have hlo : ∀ p ∈ c.filter (fun p => decide (p.1 < a)), p.1 ≠ a + i := fun p hp => by
    have := of_decide_eq_true (List.mem_filter.mp hp).2; omega
  have hhi : ∀ p ∈ c.filter (fun p => decide (a + vs.length ≤ p.1)), p.1 ≠ a + i := fun p hp => by
    have := of_decide_eq_true (List.mem_filter.mp hp).2; omega
  unfold Cells.splice
  rw [get_append_left _ hhi, get_append_right _ hlo, get_ofList, List.getD_eq_getElem?_getD, List.getElem?_eq_getElem h, Option.getD_some]

theorem slice_eq_map_get (c : Cells w) (a n : Nat) : c.slice a n = (List.range n).map fun i => c.get (a + i) := by
  unfold Cells.slice
  refine List.map_congr_left fun i hi => get_filter c fun v => ?_
  have := List.mem_range.mp hi
  simpa using this

@[simp] theorem length_slice (c : Cells w) (a n : Nat) : (c.slice a n).length = n := by simp [slice_eq_map_get]

theorem slice_splice_same (c : Cells w) (a : Nat) (vs : List (BitVec w)) : (c.splice a vs).slice a vs.length = vs := by
  refine List.ext_getElem (by simp) fun i _ h => ?_
  simp [slice_eq_map_get, get_splice_inside c vs h]

theorem slice_add (c : Cells w) (a m n : Nat) : c.slice a (m + n) = c.slice a m ++ c.slice (a + m) n := by
  simp [slice_eq_map_get, List.range_add, Nat.add_assoc]

end Cells

/-! ### Little-endian numbers -/

@[simp] theorem leBytes_length (n v : Nat) : (leBytes n v).length = n := by
  induction n generalizing v with
  | zero => rfl
  | succ n ih => simp [leBytes, ih]

theorem leBytes_add (m n v : Nat) : leBytes (m + n) v = leBytes m v ++ leBytes n (v / 256 ^ m) := by
  induction m generalizing v with
  | zero => simp [leBytes]
  | succ m ih =>
    rw [show m + 1 + n = (m + n) + 1 by omega]
    simp [leBytes, ih, Nat.div_div_eq_div_mul, Nat.pow_succ, Nat.mul_comm]

theorem leBytes_add_mul (n v k : Nat) : leBytes n (v + 256 ^ n * k) = leBytes n v := by
  induction n generalizing v with
  | zero => rfl
  | succ n ih =>
    have hpow : 256 ^ (n + 1) * k = 256 * (256 ^ n * k) := by rw [Nat.pow_succ', Nat.mul_assoc]
    have hdiv : (v + 256 * (256 ^ n * k)) / 256 = v / 256 + 256 ^ n * k := Nat.add_mul_div_left _ _ (by decide)
    have hbyte : BitVec.ofNat 8 (v + 256 * (256 ^ n * k)) = BitVec.ofNat 8 v :=
      BitVec.eq_of_toNat_eq (by simp only [BitVec.toNat_ofNat]; omega)
    rw [hpow]
    simp only [leBytes, hdiv, hbyte, ih]

theorem leNat_append (x y : List Byte) : leNat (x ++ y) = leNat x + 256 ^ x.length * leNat y := by
  induction x with
  | nil => simp [leNat]
  | cons b x ih => 
    simp only [List.cons_append, leNat, ih, List.length_cons]
    rw [Nat.pow_succ', Nat.mul_assoc, Nat.mul_add, Nat.add_assoc]

theorem leNat_lt (x : List Byte) : leNat x < 256 ^ x.length := by
  induction x with
  | nil => simp [leNat]
  | cons b x ih =>
    have := b.isLt
    simp only [leNat, List.length_cons, Nat.pow_succ]
    omega

theorem leNat_slice_lt (c : Cells 8) (a n : Nat) : leNat (c.slice a n) < 256 ^ n := by
  simpa using leNat_lt (c.slice a n)

/-! ### Fields and signed numbers -/

namespace Machine

theorem fOf_lt (w : Word) (lo n : Nat) : fOf w lo n < 2 ^ n := Nat.mod_lt _ (Nat.two_pow_pos n)

/-- A field of one bit is 0 or 1. -/
theorem fOf_one_eq (w : Word) (lo : Nat) : fOf w lo 1 = 0 ∨ fOf w lo 1 = 1 := by
  have := fOf_lt w lo 1; omega

theorem signExt_toNat {n : Nat} (hn : 0 < n) (v : BitVec n) : signExt n v.toNat = v.toInt := by
  obtain ⟨m, rfl⟩ : ∃ m, n = m + 1 := ⟨n - 1, by omega⟩
  have := v.isLt
  simp only [signExt, BitVec.toInt_eq_toNat_cond, Nat.mod_eq_of_lt v.isLt, Nat.add_sub_cancel]
  have h2 : 2 ^ (m + 1) = 2 * 2 ^ m := by rw [Nat.pow_succ, Nat.mul_comm]
  split <;> split <;> omega

theorem emod_two_pow_nonneg (n : Nat) (v : Int) : 0 ≤ v % 2 ^ n := Int.emod_nonneg _ (Int.ne_of_gt (Int.pow_pos (by decide)))

theorem toNat_emod_two_pow_lt (n : Nat) (v : Int) : (v % 2 ^ n).toNat < 2 ^ n := by
  have h1 : v % 2 ^ n < 2 ^ n := Int.emod_lt_of_pos _ (Int.pow_pos (by decide))
  rw [Int.toNat_lt (emod_two_pow_nonneg n v), Int.natCast_pow]
  exact h1

/-- The bit pattern of an integer, as the model forms it. -/
theorem ofNat_emod (n : Nat) (v : Int) : BitVec.ofNat n (v % 2 ^ n).toNat = BitVec.ofInt n v := by
  refine BitVec.eq_of_toNat_eq ?_
  rw [BitVec.toNat_ofNat, BitVec.toNat_ofInt, Nat.mod_eq_of_lt (toNat_emod_two_pow_lt n v), Int.natCast_pow]
  rfl

theorem toInt_ofInt_of_range {n : Nat} (hn : 0 < n) {v : Int} (h1 : -(2 ^ (n - 1)) ≤ v) (h2 : v < 2 ^ (n - 1)) : (BitVec.ofInt n v).toInt = v := by
  rw [BitVec.toInt_ofInt]
  obtain ⟨m, rfl⟩ : ∃ m, n = m + 1 := ⟨n - 1, by omega⟩
  rw [Nat.add_sub_cancel] at h1 h2
  refine Int.bmod_eq_of_le ?_ ?_ <;> rw [Nat.pow_succ] <;> push_cast <;> omega

end Machine
end Sys2Proof
end

section
/-!
How a radio DSP core issues a bundle: what each slot and the step of the program counter may touch, said once, and the whole of it as `Bundle`.
-/
namespace Sys2Proof.Machine

/-! ### Control registers -/

theorem Dsp.ctlReg_congr {x y : Dsp} (h : y.cr = x.cr) (i : Nat) : y.ctlReg i = x.ctlReg i := by
  unfold Dsp.ctlReg; simp only [h]

theorem Dsp.ctlReg_setCtl (x : Dsp) (i j : Nat) (v : Word) : (x.setCtl i v).ctlReg j = if i % 32 = j % 32 then v else x.ctlReg j := by
  simp only [Dsp.setCtl, Dsp.ctlReg, Vector.getElem_set]

@[simp] theorem Dsp.ctlReg_setCtl_same (x : Dsp) (i : Nat) (v : Word) : (x.setCtl i v).ctlReg i = v := by
  rw [Dsp.ctlReg_setCtl, if_pos rfl]

theorem Dsp.ctlReg_setCtl_ne (x : Dsp) {i j : Nat} (v : Word) (h : i % 32 ≠ j % 32) : (x.setCtl i v).ctlReg j = x.ctlReg j := by
  rw [Dsp.ctlReg_setCtl, if_neg h]

theorem Dsp.ctlReg_setSat (x : Dsp) (b : Bool) {i : Nat} (h : i % 32 ≠ 0) : (x.setSat b).ctlReg i = x.ctlReg i := by
  cases b
  · rfl
  · exact x.ctlReg_setCtl_ne _ (Ne.symm h)

@[simp] theorem Dsp.setSat_pend (x : Dsp) (b : Bool) : (x.setSat b).pend = x.pend := by cases b <;> rfl

/-- The sticky saturation flag is no condition of a branch. -/
theorem condHolds_sat (c : Nat) (v : Word) : condHolds c (v ||| 0x10#32) = condHolds c v := by
  have hz : ∀ i < 4, (0x10#32).getLsbD i = false := by decide
  have h : ∀ i < 4, (v ||| 0x10#32).getLsbD i = v.getLsbD i := fun i hi => by rw [BitVec.getLsbD_or, hz i hi, Bool.or_false]
  simp only [condHolds, h 0 (by decide), h 1 (by decide), h 2 (by decide), h 3 (by decide)]

theorem Dsp.condHolds_setSat (x : Dsp) (b : Bool) (c : Nat) : condHolds c (x.setSat b).fl = condHolds c x.fl := by
  cases b
  · rfl
  · exact (congrArg (condHolds c) (x.ctlReg_setCtl_same 0 _)).trans (condHolds_sat c x.fl)

/-! ### What a part of a bundle's issue touches -/

/-- From `x` to `y` a bundle with slot A word `a` is being issued: results queue for destinations among `ds`; memory, channels and control
registers move only where slot A may move them. -/
structure Dsp.Issues (a : Word) (ds : List DspDest) (x y : Dsp) : Prop where
  regs  : y.d = x.d ∧ y.a = x.a ∧ y.o = x.o ∧ y.ac = x.ac
  mem   : opOf a ≠ 0x02 → y.mem = x.mem
  chans : opOf a ≠ 0x09 → opOf a ≠ 0x0A → y.chans = x.chans
  ctl   : ∀ i, i < 32 → i = 0 ∨ (1 ≤ i ∧ i ≤ 6) ∨ i = 31 ∨ y.ctlReg i = x.ctlReg i
  sent  : ∃ l, y.pend = x.pend ++ l ∧ ∀ p ∈ l, homeDest p.dest ∈ ds
  still : y.ctl = x.ctl ∧ y.halted = x.halted ∧ y.cause = x.cause

namespace Dsp.Issues

variable {a : Word} {ds : List DspDest} {x y z : Dsp}

theorem refl (a : Word) (ds : List DspDest) (x : Dsp) : Issues a ds x x where
  regs  := ⟨rfl, rfl, rfl, rfl⟩
  mem   := fun _ => rfl
  chans := fun _ _ => rfl
  ctl   := fun _ _ => .inr (.inr (.inr rfl))
  sent  := ⟨[], by simp⟩
  still := ⟨rfl, rfl, rfl⟩

theorem trans (h : Issues a ds x y) (k : Issues a ds y z) : Issues a ds x z where
  regs  := ⟨k.regs.1.trans h.regs.1, k.regs.2.1.trans h.regs.2.1, k.regs.2.2.1.trans h.regs.2.2.1, k.regs.2.2.2.trans h.regs.2.2.2⟩
  mem   := fun n => (k.mem n).trans (h.mem n)
  chans := fun n m => (k.chans n m).trans (h.chans n m)
  ctl   := fun i hi => by
    have h1 := h.ctl i hi
    have h2 := k.ctl i hi
    grind
  sent  := by
    obtain ⟨l, hl, hd⟩ := h.sent
    obtain ⟨m, hm, he⟩ := k.sent
    refine ⟨l ++ m, by rw [hm, hl, List.append_assoc], fun p hp => ?_⟩
    exact (List.mem_append.mp hp).elim (hd p) (he p)
  still := ⟨k.still.1.trans h.still.1, k.still.2.1.trans h.still.2.1, k.still.2.2.trans h.still.2.2⟩

theorem mono {es : List DspDest} (h : Issues a ds x y) (hd : ds ⊆ es) : Issues a es x y :=
  { h with sent := h.sent.imp fun _ hl => ⟨hl.1, fun p hp => hd (hl.2 p hp)⟩ }

/-- A result queues. -/
theorem push {dest : DspDest} (h : Issues a ds x y) (n : Nat) (v : BitVec 64) (mac : Bool) (hd : homeDest dest ∈ ds) :
    Issues a ds x (y.push n dest v mac) :=
  h.trans { refl a ds y with sent := ⟨[_], rfl, fun p hp => by rwa [List.mem_singleton.mp hp]⟩ }

/-- FL, the loop registers and the link register may be written. -/
theorem setCtl {i : Nat} (h : Issues a ds x y) (v : Word) (hi : i ≤ 6 ∨ i = 31) : Issues a ds x (y.setCtl i v) :=
  h.trans { refl a ds y with
    ctl := fun j hj => by
      by_cases e : i = j
      · omega
      · exact .inr (.inr (.inr (y.ctlReg_setCtl_ne v (by omega)))) }

/-- The program counter and its branch, the MAC operands, the counters of cycles and of the shadow of MOVC, and the pending causes are not
of the registers that a bundle leaves alone. -/
theorem inner (h : Issues a ds x y) (p : BitVec 17) (b : Option DspBranch) (n : Nat) (u v c : Word) (q : BitVec 3) :
    Issues a ds x { y with pc := p, branch := b, shadow := n, x := u, y := v, cyc := c, ipend := q } :=
  ⟨h.regs, h.mem, h.chans, h.ctl, h.sent, h.still⟩

end Dsp.Issues

/-! ### Slot B: the row of each opcode -/

section
variable {x : Dsp} {core : Nat} {w : Word} {f0 f1 : Dword}

theorem Dsp.slotB_whole (h : 0x10 ≤ opOf w ∧ opOf w ≤ 0x19) (hh : fOf w 13 1 = 0) : x.slotB core w f0 f1 =
    x.push 1 (.d (fOf w 22 4)) ((BitVec.ofNat 32 (aluLane (opOf w) 32 false (x.dr (fOf w 18 4)).toNat (x.dr (fOf w 14 4)).toNat).1).setWidth 64) :=
  (if_pos h).trans (if_neg (by omega))

theorem Dsp.slotB_lanes (h : 0x10 ≤ opOf w ∧ opOf w ≤ 0x19) (hh : fOf w 13 1 = 1) : x.slotB core w f0 f1 =
    (x.push 1 (.d (fOf w 22 4)) ((onLanes (aluLane (opOf w) 16 true) (x.dr (fOf w 18 4)) (x.dr (fOf w 14 4))).1.setWidth 64)).setSat
      (onLanes (aluLane (opOf w) 16 true) (x.dr (fOf w 18 4)) (x.dr (fOf w 14 4))).2 :=
  (if_pos h).trans (if_pos hh)

theorem Dsp.slotB_cmp (h : opOf w = 0x1A) : x.slotB core w f0 f1 =
    x.push 1 .flags (BitVec.ofNat 64 (cmpFlags (x.dr (fOf w 18 4)) (x.dr (fOf w 14 4)))) :=
  (if_neg (by omega)).trans (if_pos h)

theorem Dsp.slotB_pf (h : opOf w = 0x1B) : x.slotB core w f0 f1 =
    x.push 1 (.d (fOf w 22 4)) ((onLanes (fun a b => (pfLane a b, false)) (x.dr (fOf w 18 4)) (x.dr (fOf w 14 4))).1.setWidth 64) :=
  (if_neg (by omega)).trans <| (if_neg (by omega)).trans (if_pos h)

theorem Dsp.slotB_addi (h : opOf w = 0x1D) : x.slotB core w f0 f1 =
    x.push 1 (.d (fOf w 22 4)) ((x.dr (fOf w 18 4) + BitVec.ofInt 32 (signExt 16 (fOf w 0 16))).setWidth 64) :=
  (if_neg (by omega)).trans <| (if_neg (by omega)).trans <| (if_neg (by omega)).trans (if_pos h)

theorem Dsp.slotB_movi (h : opOf w = 0x1E) : x.slotB core w f0 f1 = x.push 1 (.d (fOf w 22 4))
    ((if fOf w 16 1 = 0 then BitVec.ofInt 32 (signExt 16 (fOf w 0 16))
      else BitVec.ofNat 32 (fOf w 0 16 * 2 ^ 16 + (x.dr (fOf w 22 4)).toNat % 2 ^ 16)).setWidth 64) :=
  (if_neg (by omega)).trans <| (if_neg (by omega)).trans <| (if_neg (by omega)).trans <| (if_neg (by omega)).trans (if_pos h)

end

/-! ### Slot B: what it touches -/

/-- Slot B took `x` to `y`: results queue for destinations among `ds`, a saturation may be recorded, the MAC operands, the cycle counter
and the shadow of MOVC may change, and nothing else does. -/
def Dsp.AfterB (ds : List DspDest) (x y : Dsp) : Prop :=
  ∃ cr l u v c n, y = { x with cr := cr, pend := x.pend ++ l, x := u, y := v, cyc := c, shadow := n }
    ∧ (∀ p ∈ l, homeDest p.dest ∈ ds) ∧ (cr = x.cr ∨ cr = (x.setSat true).cr)

namespace Dsp.AfterB

variable {ds : List DspDest} {x y : Dsp}

theorem refl (ds : List DspDest) (x : Dsp) : AfterB ds x x := ⟨x.cr, [], x.x, x.y, x.cyc, x.shadow, by simp, by simp, .inl rfl⟩

theorem push {dest : DspDest} (h : AfterB ds x y) (n : Nat) (v : BitVec 64) (mac : Bool) (hd : homeDest dest ∈ ds) :
    AfterB ds x (y.push n dest v mac) := by
  obtain ⟨cr, l, u, r, c, k, rfl, hl, hc⟩ := h
  refine ⟨cr, l ++ [_], u, r, c, k, congrArg (fun p => { x with cr := cr, pend := p, x := u, y := r, cyc := c, shadow := k }) (List.append_assoc ..), ?_, hc⟩
  intro p hp
  rcases List.mem_append.mp hp with hp | hp
  · exact hl p hp
  · rwa [List.mem_singleton.mp hp]

theorem operands (h : AfterB ds x y) (u v : Word) : AfterB ds x { y with x := u, y := v } := by
  obtain ⟨cr, l, _, _, c, k, rfl, hl, hc⟩ := h
  exact ⟨cr, l, u, v, c, k, rfl, hl, hc⟩

theorem counters (h : AfterB ds x y) (c : Word) (k : Nat) : AfterB ds x { y with cyc := c, shadow := k } := by
  obtain ⟨cr, l, u, v, _, _, rfl, hl, hc⟩ := h
  exact ⟨cr, l, u, v, c, k, rfl, hl, hc⟩

theorem setSat (h : AfterB ds x y) (f : Bool) : AfterB ds x (y.setSat f) := by
  cases f
  · exact h
  obtain ⟨cr, l, u, v, c, k, rfl, hl, hc⟩ := h
  refine ⟨_, l, u, v, c, k, rfl, hl, .inr ?_⟩
  rcases hc with rfl | rfl
  · rfl
  · simp [Dsp.setSat, Dsp.setCtl, Dsp.fl, Dsp.ctlReg, BitVec.or_assoc]

theorem macAdd {i : Nat} (h : AfterB ds x y) (w : Word) (v : Int) (hd : .ac i ∈ ds) : AfterB ds x (y.macAdd w i v) :=
  (h.push 3 _ true (dest := .ac i) hd).setSat _

end Dsp.AfterB

theorem Dsp.slotB_touches (x : Dsp) (core : Nat) (w : Word) (f0 f1 : Dword) : AfterB (destsB w) x (x.slotB core w f0 f1) := by
  have start := AfterB.refl (destsB w) x
  by_cases alu : 0x10 ≤ opOf w ∧ opOf w ≤ 0x19
  · have hd : homeDest (.d (fOf w 22 4)) ∈ destsB w := by simp [destsB, homeDest, alu]
    rcases fOf_one_eq w 13 with hh | hh
    · exact slotB_whole alu hh ▸ start.push 1 _ false hd
    · exact slotB_lanes alu hh ▸ (start.push 1 _ false hd).setSat _
  by_cases cmp : opOf w = 0x1A
  · exact slotB_cmp cmp ▸ start.push 1 _ false (by simp [destsB, homeDest, cmp])
  by_cases pf : opOf w = 0x1B
  · exact slotB_pf pf ▸ start.push 1 _ false (by simp [destsB, homeDest, pf])
  by_cases addi : opOf w = 0x1D
  · exact slotB_addi addi ▸ start.push 1 _ false (by simp [destsB, homeDest, addi])
  by_cases movi : opOf w = 0x1E
  · exact slotB_movi movi ▸ start.push 1 _ false (by simp [destsB, homeDest, movi])
  unfold Dsp.slotB
  simp only [if_neg alu, if_neg cmp, if_neg pf, if_neg addi, if_neg movi]
  by_cases mac : opOf w = 0x20 ∨ opOf w = 0x21
  · have hd : .ac (2 * fOf w 25 1) ∈ destsB w ∧ .ac (2 * fOf w 25 1 + 1) ∈ destsB w := by rcases mac with mac | mac <;> simp [destsB, mac]
    simp only [if_pos mac]
    split
    · exact ((start.operands _ _).macAdd w _ hd.1).macAdd w _ hd.2
    · exact ((start.operands _ _).macAdd w _ hd.1).macAdd w _ hd.2
  by_cases accrd : opOf w = 0x22
  · have hd : homeDest (.d (fOf w 22 4)) ∈ destsB w := by simp [destsB, homeDest, accrd]
    simp only [if_neg mac, if_pos accrd]
    split
    · exact start.push 2 _ false hd
    · exact start.push 2 _ false hd
    · exact (start.push 2 _ false hd).setSat _
    · exact (start.push 2 _ false hd).setSat _
  by_cases accwr : opOf w = 0x23
  · simp only [if_neg mac, if_neg accrd, if_pos accwr]
    split
    · exact start.push 2 _ false (by simp [destsB, homeDest, accwr])
    · exact start.push 2 _ false (by simp [destsB, homeDest, accwr])
  by_cases movc : opOf w = 0x3F
  · simp only [if_neg mac, if_neg accrd, if_neg accwr, if_pos movc]
    by_cases dir : fOf w 16 1 = 1
    · have sent := start.push 2 ((x.dr (fOf w 22 4)).setWidth 64) false (dest := .cr (fOf w 17 5)) (by simp [destsB, homeDest, movc, dir])
      simp only [if_pos dir]
      split
      · exact sent.counters _ 3
      · exact sent
    · have hd : homeDest (.d (fOf w 22 4)) ∈ destsB w := by simp [destsB, homeDest, movc, (fOf_one_eq w 16).resolve_right dir]
      simp only [if_neg dir]
      split
      · exact (start.counters _ x.shadow).push 1 _ false hd
      · exact start.push 1 _ false hd
  · simpa only [if_neg mac, if_neg accrd, if_neg accwr, if_neg movc] using start

namespace Dsp.AfterB

variable {ds : List DspDest} {x y : Dsp}

theorem issues (h : AfterB ds x y) (a : Word) : Issues a ds x y := by
  obtain ⟨cr, l, u, v, c, k, rfl, hl, hc⟩ := h
  refine ⟨⟨rfl, rfl, rfl, rfl⟩, fun _ => rfl, fun _ _ => rfl, fun i hi => ?_, ⟨l, rfl, hl⟩, rfl, rfl, rfl⟩
  rcases hc with rfl | rfl
  · exact .inr (.inr (.inr rfl))
  · exact ((Issues.refl a ds x).setCtl _ (.inl (by decide : 0 ≤ 6))).ctl i hi

/-- Slot A finds the core as slot B found it, but for the results on their way and FL.sat. -/
theorem same (h : AfterB ds x y) : y.mem = x.mem ∧ y.chans = x.chans ∧ y.pc = x.pc ∧ y.branch = x.branch ∧ y.ipend = x.ipend := by
  obtain ⟨cr, l, u, v, c, k, rfl, -⟩ := h
  exact ⟨rfl, rfl, rfl, rfl, rfl⟩

theorem ctlReg (h : AfterB ds x y) {i : Nat} (hi : i % 32 ≠ 0) : y.ctlReg i = x.ctlReg i := by
  obtain ⟨cr, l, u, v, c, k, rfl, -, rfl | rfl⟩ := h
  · rfl
  · exact x.ctlReg_setSat true hi

theorem condHolds (h : AfterB ds x y) (c : Nat) : Machine.condHolds c y.fl = Machine.condHolds c x.fl := by
  obtain ⟨cr, l, u, v, c, k, rfl, -, rfl | rfl⟩ := h
  · rfl
  · exact x.condHolds_setSat true _

end Dsp.AfterB

/-! ### Slot A: the row of each opcode -/

/-- The update of an address register queues, where the mode has one. -/
def Dsp.update (x : Dsp) (j : Nat) (up : Option Int) : Dsp :=
  match up with
  | some v => x.pushInt 1 (.a j) v
  | none => x

/-- The data of a load queue (R327, Table 12-5). -/
def Dsp.loaded (x : Dsp) (w : Word) (upper : Dword) : Dsp :=
  let v := leNat (x.mem.slice (x.address w 0#64).1 (accSize w))
  if accSize w = 8 then
    (x.push 4 (.d (fOf w 22 4 / 2 * 2)) (BitVec.ofNat 64 (v % 2 ^ 32))).push 4 (.d (fOf w 22 4 / 2 * 2 + 1)) (BitVec.ofNat 64 (v / 2 ^ 32))
  else if accSize w = 4 then x.push 4 (.d (fOf w 22 4)) (BitVec.ofNat 64 v)
  else x.push 4 (.d (fOf w 22 4)) (BitVec.ofNat 64 (upper.toNat % 2 ^ 16 * 2 ^ 16 + v))

/-- The number that a store writes: a register, or a pair of them for 8 bytes. -/
def Dsp.storeVal (x : Dsp) (w : Word) : Nat :=
  if accSize w = 8 then (x.dr (fOf w 22 4 / 2 * 2)).toNat + (x.dr (fOf w 22 4 / 2 * 2 + 1)).toNat * 2 ^ 32 else (x.dr (fOf w 22 4)).toNat

/-- The bytes of a store are in memory. -/
def Dsp.stored (x : Dsp) (w : Word) : Dsp :=
  { x with mem := x.mem.splice (x.address w 0#64).1 (leBytes (accSize w) (x.storeVal w)) }

/-- The new value of the register that AMOV names. -/
def Dsp.amovVal (x : Dsp) (w : Word) : Int :=
  let old : Int := if fOf w 25 1 = 1 then (x.or (fOf w 22 3)).toInt else ((x.ar (fOf w 22 3)).toNat : Nat)
  if fOf w 21 1 = 1 then old + signExt 17 (fOf w 0 17) else (fOf w 0 17 : Nat)

/-- The pass count, the first and the last bundle of a loop (R333). -/
def Dsp.loopCount (x : Dsp) (w : Word) : Word := if fOf w 24 1 = 1 then x.dr (fOf w 20 4) else BitVec.ofNat 32 (fOf w 8 12)
def Dsp.loopLast (x : Dsp) (w : Word) : BitVec 17 := x.pc + 8#17 + BitVec.ofNat 17 (8 * (fOf w 0 8 - 1))

/-- The registers of the loop that LOOP names are set up (R333). -/
def Dsp.looped (x : Dsp) (w : Word) : Dsp :=
  ((x.setCtl (3 * fOf w 25 1 + 1) (x.loopCount w)).setCtl (3 * fOf w 25 1 + 1 + 1) ((x.pc + 8#17).setWidth 32)).setCtl
    (3 * fOf w 25 1 + 1 + 2) ((x.loopLast w).setWidth 32)

/-- The target of BR and CALL (R334). -/
def Dsp.target (x : Dsp) (w : Word) : BitVec 17 := BitVec.ofInt 17 ((x.pc.toNat : Int) + 8 * signExt 22 (fOf w 0 22))

/-- The descriptor that a DMA names. -/
def Dsp.desc (x : Dsp) (w : Word) : List Byte := x.mem.slice (x.ar (fOf w 19 3)).toNat 16

/-- Only the update of a bit-reversed mode can depend on the free value. -/
theorem Dsp.address_fst (x : Dsp) (w : Word) (free : Dword) : (x.address w free).1 = (x.address w 0#64).1 := by
  unfold Dsp.address
  split <;> rfl

section
variable {x : Dsp} {w : Word} {u f : Dword}

theorem Dsp.slotA_ld (h : opOf w = 0x01) : x.slotA w u f = (x.loaded w u).update (fOf w 19 3) (x.address w f).2 := by
  unfold Dsp.loaded
  rw [← x.address_fst w f]
  simp only [Dsp.slotA, h]
  cases (x.address w f).2 <;> rfl

theorem Dsp.slotA_st (h : opOf w = 0x02) : x.slotA w u f = (x.stored w).update (fOf w 19 3) (x.address w f).2 := by
  unfold Dsp.stored
  rw [← x.address_fst w f]
  simp only [Dsp.slotA, h]
  cases (x.address w f).2 <;> rfl

theorem Dsp.slotA_amov (h : opOf w = 0x03) :
    x.slotA w u f = x.pushInt 1 (if fOf w 25 1 = 1 then .o (fOf w 22 3) else .a (fOf w 22 3)) (x.amovVal w) := by
  simp only [Dsp.slotA, h, Dsp.amovVal]

theorem Dsp.slotA_loop (h : opOf w = 0x04) : x.slotA w u f = x.looped w := by
  simp only [Dsp.slotA, h, Dsp.looped, Dsp.loopCount, Dsp.loopLast]

theorem Dsp.slotA_br (h : opOf w = 0x05) :
    x.slotA w u f = { x with branch := some { left := 3, target := x.target w, taken := condHolds (fOf w 22 4) x.fl, rti := false } } := by
  simp only [Dsp.slotA, h, Dsp.target]

theorem Dsp.slotA_call (h : opOf w = 0x06) : x.slotA w u f =
    { x.setCtl 31 ((x.pc + 24#17).setWidth 32) with branch := some { left := 3, target := x.target w, taken := true, rti := false } } := by
  simp only [Dsp.slotA, h, Dsp.target]

theorem Dsp.slotA_ret (h : opOf w = 0x07) :
    x.slotA w u f = { x with branch := some { left := 3, target := (x.ctlReg 31).setWidth 17, taken := true, rti := false } } := by
  simp only [Dsp.slotA, h]

theorem Dsp.slotA_rti (h : opOf w = 0x08) : x.slotA w u f = { x with branch := some { left := 3, target := 0#17, taken := true, rti := true } } := by
  simp only [Dsp.slotA, h]

theorem Dsp.slotA_dma_empty (h : opOf w = 0x09) (hb : descBytes (x.desc w) = 0) :
    x.slotA w u f = { x.setChan (fOf w 24 2) { run := none, done := true } with ipend := x.ipend ||| 2#3 } := by
  simp only [Dsp.slotA, h]
  exact if_pos hb

theorem Dsp.slotA_dma (h : opOf w = 0x09) (hb : descBytes (x.desc w) ≠ 0) :
    x.slotA w u f = x.setChan (fOf w 24 2) { x.chan (fOf w 24 2) with run := some (x.desc w) } := by
  simp only [Dsp.slotA, h]
  exact if_neg hb

/-- A channel whose event WAIT names: the event is cleared. -/
def waited (w : Word) (i : Nat) (c : DspChan) : DspChan := if (fOf w 16 4).testBit i then { c with done := false } else c

theorem Dsp.slotA_wait (h : opOf w = 0x0A) : x.slotA w u f = { x with chans := vmapIdx x.chans (waited w) } := by
  simp only [Dsp.slotA, h]
  rfl

/-- NOP and SIG, like the words that no row names, leave the core to the other slot. -/
theorem Dsp.slotA_idle (h : opOf w = 0 ∨ 0x0B ≤ opOf w) : x.slotA w u f = x := by
  rcases h with h | h
  · simp only [Dsp.slotA, h]
  · obtain ⟨n, hn⟩ : ∃ n, opOf w = n + 11 := ⟨opOf w - 11, by omega⟩
    simp only [Dsp.slotA, hn]

end

/-! ### Slot A: what it touches -/

namespace Dsp.Issues

variable {a : Word} {ds : List DspDest} {x y : Dsp}

/-- Where there is an update, slot A names the address register among its destinations. -/
theorem update (h : Issues a ds x y) {j : Nat} {up : Option Int} (hd : up.isSome = true → .a j ∈ ds) : Issues a ds x (y.update j up) := by
  cases up with
  | none => exact h
  | some v => exact h.push 1 _ false (dest := .a j) (hd rfl)

theorem loaded (h : Issues a ds x y) (u : Dword) (h1 : fOf a 14 2 ≠ 2 → .d (fOf a 22 4) ∈ ds)
    (h2 : fOf a 14 2 = 2 → .d (fOf a 22 4 / 2 * 2) ∈ ds ∧ .d (fOf a 22 4 / 2 * 2 + 1) ∈ ds) : Issues a ds x (y.loaded a u) := by
  unfold Dsp.loaded
  by_cases h8 : accSize a = 8
  · have hs : fOf a 14 2 = 2 := by
      have hp : 2 ^ (fOf a 14 2 + 1) = 2 ^ 3 := h8
      have := (Nat.pow_right_inj (Nat.lt_succ_self 1)).mp hp; omega
    simp only [if_pos h8]
    exact (h.push 4 _ false (dest := .d _) (h2 hs).1).push 4 _ false (dest := .d _) (h2 hs).2
  · have hs : fOf a 14 2 ≠ 2 := fun e => h8 (by simp [accSize, e])
    simp only [if_neg h8]
    split
    · exact h.push 4 _ false (dest := .d _) (h1 hs)
    · exact h.push 4 _ false (dest := .d _) (h1 hs)

end Dsp.Issues

theorem Dsp.address_snd_isSome {x : Dsp} {w : Word} {f : Dword} (h : (x.address w f).2.isSome = true) : fOf w 12 2 ≠ 2 := by
  intro e
  simp [Dsp.address, e] at h

theorem Dsp.slotA_touches (x : Dsp) (w : Word) (u f : Dword) : Issues w (destsA w) x (x.slotA w u f) := by
  have start := Issues.refl w (destsA w) x
  have moves (h : opOf w = 0x01 ∨ opOf w = 0x02) : (x.address w f).2.isSome = true → .a (fOf w 19 3) ∈ destsA w := fun hs => by
    rcases h with h | h <;> simp [destsA, h, address_snd_isSome hs]
  by_cases ld : opOf w = 0x01
  · rw [slotA_ld ld]
    refine (start.loaded u (fun n => ?_) (fun n => ⟨?_, ?_⟩)).update (moves (.inl ld)) <;> simp [destsA, ld, n]
  by_cases st : opOf w = 0x02
  · rw [slotA_st st]
    have hm : Issues w (destsA w) x (x.stored w) := { start with mem := fun n => absurd st n }
    exact hm.update (moves (.inr st))
  by_cases amov : opOf w = 0x03
  · rw [slotA_amov amov]
    refine start.push 1 _ false ?_
    rcases fOf_one_eq w 25 with e | e <;> simp [destsA, amov, e, homeDest]
  by_cases loop : opOf w = 0x04
  · rw [slotA_loop loop]
    have := fOf_one_eq w 25
    exact ((start.setCtl _ (by omega)).setCtl _ (by omega)).setCtl _ (by omega)
  by_cases br : opOf w = 0x05
  · rw [slotA_br br]
    exact start.inner _ _ _ _ _ _ _
  by_cases call : opOf w = 0x06
  · rw [slotA_call call]
    exact (start.setCtl _ (.inr rfl)).inner _ _ _ _ _ _ _
  by_cases ret : opOf w = 0x07
  · rw [slotA_ret ret]
    exact start.inner _ _ _ _ _ _ _
  by_cases rti : opOf w = 0x08
  · rw [slotA_rti rti]
    exact start.inner _ _ _ _ _ _ _
  by_cases dma : opOf w = 0x09
  · have hc (c : Vector DspChan 4) (q : BitVec 3) : Issues w (destsA w) x { x with chans := c, ipend := q } :=
      ⟨start.regs, start.mem, fun n => absurd dma n, start.ctl, start.sent, start.still⟩
    by_cases hb : descBytes (x.desc w) = 0
    · exact slotA_dma_empty dma hb ▸ hc _ _
    · exact slotA_dma dma hb ▸ hc _ x.ipend
  by_cases wait : opOf w = 0x0A
  · rw [slotA_wait wait]
    exact { start with chans := fun _ n => absurd wait n }
  · rw [slotA_idle (by omega)]
    exact start

/-! ### The step of the program counter -/

theorem Dsp.loopBack_touches {x y : Dsp} {b : Nat} (a : Word) (hb : b ≤ 6) (h : x.loopBack b = some y) :
    Issues a [] x y ∧ y.pend = x.pend ∧ y.branch = x.branch := by
  unfold Dsp.loopBack at h
  split at h
  · obtain rfl := Option.some.inj h
    exact ⟨((Issues.refl a [] x).setCtl _ (.inl hb)).inner _ _ _ _ _ _ _, rfl, rfl⟩
  · cases h

theorem Dsp.seqNext_touches (x : Dsp) (a : Word) : Issues a [] x (x.seqNext a) ∧ (x.seqNext a).pend = x.pend ∧ (x.seqNext a).branch = x.branch := by
  have on (p : BitVec 17) : Issues a [] x { x with pc := p } := (Issues.refl a [] x).inner p _ _ _ _ _ _
  unfold Dsp.seqNext
  split
  · exact ⟨on _, rfl, rfl⟩
  cases h4 : x.loopBack 4 with
  | some y => exact loopBack_touches a (by decide) h4
  | none =>
    cases h1 : x.loopBack 1 with
    | some y => exact loopBack_touches a (by decide) h1
    | none => exact ⟨on _, rfl, rfl⟩

section
variable {x : Dsp} {q : DspBranch} (a : Word)

theorem Dsp.advance_none (h : x.branch = none) : x.advance a = ({ x with shadow := x.shadow - 1 } : Dsp).seqNext a := by
  simp only [Dsp.advance, h]

theorem Dsp.advance_delay (h : x.branch = some q) (hl : 1 < q.left) :
    x.advance a = ({ x with shadow := x.shadow - 1, branch := some { q with left := q.left - 1 } } : Dsp).seqNext a := by
  simp only [Dsp.advance, h, if_neg (Nat.not_le.mpr hl)]

theorem Dsp.advance_rti (h : x.branch = some q) (hl : q.left ≤ 1) (hr : q.rti = true) :
    x.advance a = { ({ x with shadow := x.shadow - 1, branch := none } : Dsp).setCtl 0 (x.ctlReg 25 &&& crMask 0) with pc := (x.ctlReg 24).setWidth 17 } := by
  simp only [Dsp.advance, h, if_pos hl, if_pos hr]
  rfl

theorem Dsp.advance_taken (h : x.branch = some q) (hl : q.left ≤ 1) (hr : q.rti = false) (ht : q.taken = true) :
    x.advance a = { x with shadow := x.shadow - 1, branch := none, pc := q.target } := by
  simp only [Dsp.advance, h, if_pos hl, hr, if_pos ht, Bool.false_eq_true, if_false]

theorem Dsp.advance_not_taken (h : x.branch = some q) (hl : q.left ≤ 1) (hr : q.rti = false) (ht : q.taken = false) :
    x.advance a = ({ x with shadow := x.shadow - 1, branch := none } : Dsp).seqNext a := by
  simp only [Dsp.advance, h, if_pos hl, hr, ht, Bool.false_eq_true, if_false]

end

theorem Dsp.advance_touches (x : Dsp) (a : Word) : Issues a [] x (x.advance a) ∧ (x.advance a).pend = x.pend := by
  have on (p : BitVec 17) (b : Option DspBranch) : Issues a [] x { x with shadow := x.shadow - 1, branch := b, pc := p } :=
    (Issues.refl a [] x).inner p b _ _ _ _ _
  have next (b : Option DspBranch) : Issues a [] x (({ x with shadow := x.shadow - 1, branch := b } : Dsp).seqNext a)
      ∧ (({ x with shadow := x.shadow - 1, branch := b } : Dsp).seqNext a).pend = x.pend := by
    obtain ⟨h, hp, -⟩ := seqNext_touches { x with shadow := x.shadow - 1, branch := b } a
    exact ⟨(on x.pc b).trans h, hp⟩
  cases hb : x.branch with
  | none => exact advance_none a hb ▸ next x.branch
  | some q =>
    by_cases hl : q.left ≤ 1
    · cases hr : q.rti with
      | true => exact advance_rti a hb hl hr ▸ ⟨((on x.pc none).setCtl _ (.inl (Nat.zero_le 6))).inner _ _ _ _ _ _ _, rfl⟩
      | false =>
        cases ht : q.taken with
        | true => exact advance_taken a hb hl hr ht ▸ ⟨on _ _, rfl⟩
        | false => exact advance_not_taken a hb hl hr ht ▸ next none
    · exact advance_delay a hb (Nat.not_le.mp hl) ▸ next _

/-- No loop body with more than one pass left ends at this bundle (R333). -/
def Dsp.NoWrap (x : Dsp) : Prop := ∀ b, (b = 1 ∨ b = 4) → (x.ctlReg (b + 2)).toNat = x.pc.toNat → (x.ctlReg b).toNat ≤ 1

theorem Dsp.NoWrap.congr {x y : Dsp} (h : x.NoWrap) (hpc : y.pc = x.pc) (hr : ∀ i, 1 ≤ i → i ≤ 6 → y.ctlReg i = x.ctlReg i) : y.NoWrap := fun b hb => by
  rw [hpc, hr (b + 2) (by omega) (by omega), hr b (by omega) (by omega)]
  exact h b hb

/-- The end of the body of a loop with passes left: its start follows, and the inner loop comes before the outer one (R333). -/
theorem Dsp.seqNext_wrap {x : Dsp} {a : Word} {n : Nat} (hop : opOf a ≠ 0x04) (hn : n = 1 ∨ n = 4) (hend : (x.ctlReg (n + 2)).toNat = x.pc.toNat)
    (hleft : 1 < (x.ctlReg n).toNat) (hinner : n = 1 → (x.ctlReg 6).toNat = x.pc.toNat → (x.ctlReg 4).toNat ≤ 1) :
    x.seqNext a = { x.setCtl n (x.ctlReg n - 1#32) with pc := (x.ctlReg (n + 1)).setWidth 17 } := by
  have back : x.loopBack n = some { x.setCtl n (x.ctlReg n - 1#32) with pc := (x.ctlReg (n + 1)).setWidth 17 } := if_pos ⟨hend, hleft⟩
  rcases hn with rfl | rfl
  · have inner : x.loopBack 4 = none := if_neg fun e => by have := hinner rfl e.1; omega
    simp only [Dsp.seqNext, if_neg fun e : opOf a = 0x04 ∧ _ => hop e.1, inner, back]
  · simp only [Dsp.seqNext, if_neg fun e : opOf a = 0x04 ∧ _ => hop e.1, back]

/-- A LOOP of no pass skips its body (R333). -/
theorem Dsp.seqNext_skip {x : Dsp} {a : Word} (hop : opOf a = 0x04) (h0 : x.ctlReg (3 * fOf a 25 1 + 1) = 0#32) :
    x.seqNext a = { x with pc := (x.ctlReg (3 * fOf a 25 1 + 3)).setWidth 17 + 8#17 } := if_pos ⟨hop, h0⟩

/-- Where no loop body ends and none is skipped, the next bundle follows. -/
theorem Dsp.seqNext_straight {x : Dsp} {a : Word} (hskip : ¬ (opOf a = 0x04 ∧ x.ctlReg (3 * fOf a 25 1 + 1) = 0#32)) (h : x.NoWrap) :
    x.seqNext a = { x with pc := x.pc + 8#17 } := by
  have none (b : Nat) (hb : b = 1 ∨ b = 4) : x.loopBack b = none := if_neg fun e => by have := h b hb e.1; omega
  simp only [Dsp.seqNext, if_neg hskip, none 4 (.inr rfl), none 1 (.inl rfl)]

theorem Dsp.advance_straight {x : Dsp} {a : Word} (hb : x.branch = none) (hskip : ¬ (opOf a = 0x04 ∧ x.ctlReg (3 * fOf a 25 1 + 1) = 0#32))
    (h : x.NoWrap) : x.advance a = { x with shadow := x.shadow - 1, pc := x.pc + 8#17 } :=
  (advance_none a hb).trans (seqNext_straight (x := { x with shadow := x.shadow - 1 }) hskip h)

theorem Dsp.advance_delay_straight {x : Dsp} {a : Word} {q : DspBranch} (hb : x.branch = some q) (hl : 1 < q.left)
    (hskip : ¬ (opOf a = 0x04 ∧ x.ctlReg (3 * fOf a 25 1 + 1) = 0#32)) (h : x.NoWrap) :
    x.advance a = { x with shadow := x.shadow - 1, branch := some { q with left := q.left - 1 }, pc := x.pc + 8#17 } :=
  (advance_delay a hb hl).trans (seqNext_straight (x := { x with shadow := x.shadow - 1, branch := some { q with left := q.left - 1 } }) hskip h)

/-! ### Writes that land -/

/-- Only register files and pending writes differ. -/
def Dsp.RegsOnly (x y : Dsp) : Prop := y = { x with d := y.d, a := y.a, o := y.o, ac := y.ac, cr := y.cr, pend := y.pend }

theorem Dsp.RegsOnly.trans {x y z : Dsp} (h : x.RegsOnly y) (k : y.RegsOnly z) : x.RegsOnly z := by
  unfold RegsOnly at *; rw [k, h]

theorem Dsp.RegsOnly.foldl {α : Type} {f : Dsp → α → Dsp} (hf : ∀ (x : Dsp) (v : α), x.RegsOnly (f x v)) : ∀ (l : List α) (x : Dsp), x.RegsOnly (l.foldl f x)
  | [], _ => rfl
  | v :: l, x => (hf x v).trans (RegsOnly.foldl hf l (f x v))

theorem Dsp.land_regsOnly (x : Dsp) (w : DspPend) : x.RegsOnly (x.land w) := by
  unfold Dsp.land
  cases w.dest with
  | cr i =>
    simp only
    split
    · exact RegsOnly.foldl (f := fun (x : Dsp) k => x.setAcc k _) (fun _ _ => rfl) _ _
    · rfl
  | d | a | o | ac | acLow | flags => rfl

theorem Dsp.cycle_regsOnly (x : Dsp) : x.RegsOnly x.cycle :=
  RegsOnly.trans (y := { x with pend := _ }) rfl (RegsOnly.foldl land_regsOnly _ _)

theorem Dsp.drain_regsOnly (x : Dsp) : x.RegsOnly x.drain :=
  RegsOnly.trans (RegsOnly.foldl (fun x _ => RegsOnly.foldl land_regsOnly _ x) _ x) rfl

@[simp] theorem Dsp.cycle_mem (x : Dsp) : x.cycle.mem = x.mem := by rw [cycle_regsOnly x]
@[simp] theorem Dsp.cycle_chans (x : Dsp) : x.cycle.chans = x.chans := by rw [cycle_regsOnly x]
@[simp] theorem Dsp.cycle_pc (x : Dsp) : x.cycle.pc = x.pc := by rw [cycle_regsOnly x]
@[simp] theorem Dsp.cycle_ctl (x : Dsp) : x.cycle.ctl = x.ctl := by rw [cycle_regsOnly x]
@[simp] theorem Dsp.cycle_halted (x : Dsp) : x.cycle.halted = x.halted := by rw [cycle_regsOnly x]
@[simp] theorem Dsp.cycle_cause (x : Dsp) : x.cycle.cause = x.cause := by rw [cycle_regsOnly x]
@[simp] theorem Dsp.cycle_branch (x : Dsp) : x.cycle.branch = x.branch := by rw [cycle_regsOnly x]
@[simp] theorem Dsp.cycle_shadow (x : Dsp) : x.cycle.shadow = x.shadow := by rw [cycle_regsOnly x]

@[simp] theorem Dsp.drain_pend (x : Dsp) : x.drain.pend = [] := rfl
@[simp] theorem Dsp.drain_mem (x : Dsp) : x.drain.mem = x.mem := by rw [drain_regsOnly x]
@[simp] theorem Dsp.drain_pc (x : Dsp) : x.drain.pc = x.pc := by rw [drain_regsOnly x]

/-! ### A bundle issues -/

/-- The core between the two slots of a bundle: slot B has acted, slot A has not. -/
def State.betweenSlots (s : State) (d : DspId) (b : Word) : Dsp :=
  (s.dsp d).cycle.slotB d.val b (Config.freeWord (s.freeCtr + 0)) (Config.freeWord (s.freeCtr + 3))

/-- The core once both slots have acted, before the program counter steps. -/
def State.afterSlots (s : State) (d : DspId) (a b : Word) : Dsp :=
  (s.betweenSlots d b).slotA a (Config.freeWord (s.freeCtr + 1)) (Config.freeWord (s.freeCtr + 2))

/-- The state after a bundle, but for the message of SIG. -/
def State.afterBundle (s : State) (d : DspId) (a b : Word) : State :=
  { s.setDsp d { (s.afterSlots d a b).advance a with held := none } with freeCtr := s.freeCtr + 4 }

section
variable {s t : State} {d : DspId} {a b : Word}

theorem HostOnly.dsp_eq (h : HostOnly s t) (e : DspId) : t.dsp e = s.dsp e := by
  unfold HostOnly at h; rw [h]; rfl

theorem State.dspEvent_hostOnly (s : State) (d : DspId) (cause : Nat) (st : Half) (pc code : Nat) : HostOnly s (s.dspEvent d cause st pc code) :=
  State.notifyT1_hostOnly s _ _ _

theorem Dsp.issue_ready (h : BundleReady s d a b) (f0 f1 f2 f3 : Dword) : (s.dsp d).issue d.val (s.winOk d) a b f0 f1 f2 f3 =
    .go ((((s.dsp d).cycle.slotB d.val b f0 f3).slotA a f1 f2).advance a) (if opOf a = 0x0B then some (BitVec.ofNat 16 (fOf a 0 16)) else none) := by
  simp [Dsp.issue, h.legal, h.fault, h.ready]

/-- Without SIG, and on a radio core whose SIG goes to the firmware, the bundle changes the core alone. -/
theorem State.dspBundle_quiet (h : BundleReady s d a b) (hq : opOf a = 0x0B → d.val < 12) : s.dspBundle d a b = s.afterBundle d a b := by
  simp only [State.dspBundle, Dsp.issue_ready h]
  by_cases hop : opOf a = 0x0B
  · have ho : isOpenDsp d = false := decide_eq_false (Nat.not_le.mpr (hq hop))
    simp only [if_pos hop, ho]
    rfl
  · simp only [if_neg hop]
    rfl

/-- SIG on an open core posts its code (R335, R343). -/
theorem State.dspBundle_sig (h : BundleReady s d a b) (hop : opOf a = 0x0B) (hd : 12 ≤ d.val) :
    s.dspBundle d a b = (s.afterBundle d a b).dspEvent d 0 stOk (s.dsp d).pc.toNat (fOf a 0 16) := by
  have ho : isOpenDsp d = true := decide_eq_true hd
  have hc : (BitVec.ofNat 16 (fOf a 0 16)).toNat = fOf a 0 16 := Nat.mod_eq_of_lt (fOf_lt a 0 16)
  simp only [State.dspBundle, Dsp.issue_ready h, if_pos hop, ho, hc]
  rfl

theorem State.dspBundle_hostOnly (h : BundleReady s d a b) : HostOnly (s.afterBundle d a b) (s.dspBundle d a b) := by
  by_cases hq : opOf a = 0x0B → d.val < 12
  · rw [State.dspBundle_quiet h hq]
    exact .refl _
  · obtain ⟨hop, hd⟩ := Classical.not_imp.mp hq
    rw [State.dspBundle_sig h hop (Nat.not_lt.mp hd)]
    exact State.dspEvent_hostOnly ..

theorem State.dsp_dspBundle (h : BundleReady s d a b) : (s.dspBundle d a b).dsp d = { (s.afterSlots d a b).advance a with held := none } :=
  ((State.dspBundle_hostOnly h).dsp_eq d).trans (dsp_setDsp s d _)

theorem State.afterSlots_touches (s : State) (d : DspId) (a b : Word) : Dsp.Issues a (destsA a ++ destsB b) (s.dsp d).cycle (s.afterSlots d a b) :=
  (((Dsp.slotB_touches _ _ _ _ _).issues a).mono (List.subset_append_right _ _)).trans
    ((Dsp.slotA_touches _ _ _ _).mono (List.subset_append_left _ _))

/-- The frame of every bundle that issues. -/
theorem bundle_of_ready (h : BundleReady s d a b) : Bundle s (s.dspBundle d a b) d a b := by
  have hd := State.dsp_dspBundle h
  have hs := (State.afterSlots_touches s d a b).trans ((Dsp.advance_touches _ a).1.mono (List.nil_subset _))
  have hr : (s.dsp d).halted = false := by have := h.runs; simp_all [Dsp.runs]
  obtain ⟨l, hl, hdest⟩ := hs.sent
  obtain ⟨hctl, hhalt, hcause⟩ := hs.still
  have ho : HostOnly (s.afterBundle d a b) (s.dspBundle d a b) := State.dspBundle_hostOnly h
  refine { only := ?_, quiet := fun hq => ?_, others := fun e he => ?_, regs := ?_, mem := fun n => ?_, chans := fun n m => ?_, ctl := fun i hi => ?_, kept := fun p hp => ?_,
           pend := fun p hp => ?_, still := ?_ }
  · unfold HostOnly at ho; rw [ho]; rfl
  · rw [State.dspBundle_quiet h fun e => absurd e hq]; rfl
  · exact (ho.dsp_eq e).trans (dsp_setDsp_ne s _ he)
  · rw [hd]; exact hs.regs
  · rw [hd]; exact (hs.mem n).trans (Dsp.cycle_mem _)
  · rw [hd]; exact (hs.chans n m).trans (Dsp.cycle_chans _)
  · rw [hd]; exact hs.ctl i hi
  · rw [hd]; show p ∈ ((s.afterSlots d a b).advance a).pend
    rw [hl]; exact List.mem_append_left _ hp
  · rw [hd] at hp; change p ∈ ((s.afterSlots d a b).advance a).pend at hp
    rw [hl] at hp; exact (List.mem_append.mp hp).imp_right (hdest p)
  · rw [hd]; exact ⟨hctl.trans (Dsp.cycle_ctl _), (hhalt.trans (Dsp.cycle_halted _)).trans hr, rfl, hcause.trans (Dsp.cycle_cause _)⟩

/-- What slot B queued is on its way after the bundle. -/
theorem sends_of_slotB (h : BundleReady s d a b) {n : Nat} {dest : DspDest} {v : BitVec 64} {mac : Bool}
    (hp : ∀ f0 f1, ({ left := n, dest := dest, val := v, mac := mac } : DspPend) ∈ ((s.dsp d).cycle.slotB d.val b f0 f1).pend) :
    Sends (s.dspBundle d a b) d n dest v mac := by
  unfold Sends
  rw [State.dsp_dspBundle h]
  show _ ∈ ((s.afterSlots d a b).advance a).pend
  obtain ⟨l, hl, -⟩ := (Dsp.slotA_touches ((s.dsp d).cycle.slotB d.val b _ _) a _ _).sent
  rw [(Dsp.advance_touches _ a).2, State.afterSlots, State.betweenSlots, hl]
  exact List.mem_append_left _ (hp _ _)

/-- What slot A queued is on its way after the bundle. -/
theorem sends_of_slotA (h : BundleReady s d a b) {n : Nat} {dest : DspDest} {v : BitVec 64} {mac : Bool}
    (hp : ({ left := n, dest := dest, val := v, mac := mac } : DspPend) ∈ (s.afterSlots d a b).pend) : Sends (s.dspBundle d a b) d n dest v mac := by
  unfold Sends
  rw [State.dsp_dspBundle h]
  show _ ∈ ((s.afterSlots d a b).advance a).pend
  rwa [(Dsp.advance_touches _ a).2]

/-- The row of a slot B word's opcode issues the bundle. -/
theorem State.dspB_ready {op : Nat} (h : BundleReady s d a b) (hop : opOf b = op) : s.dspB d op b a = s.dspBundle d a b :=
  if_pos (by simp [h.runs, h.held, dspRowB, hop])

/-- The row of a slot A word's opcode issues the bundle. -/
theorem State.dspA_ready {op : Nat} (h : BundleReady s d a b) (hop : opOf a = op) : s.dspA d op a b = s.dspBundle d a b :=
  if_pos (by simp [h.runs, h.held, dspRowA, hop])

end

end Sys2Proof.Machine
end

section
/-!
Slot B's arithmetic: what each operation gives on a whole word and on a lane, and the obligation on it.
-/
namespace Sys2Proof.Machine

/-! ### Lanes -/

theorem lane_zero_toNat (v : Word) : (lane v 0).toNat = v.toNat % 2 ^ 16 := by simp [lane]

theorem lane_one_toNat (v : Word) : (lane v 1).toNat = v.toNat / 2 ^ 16 := by
  have := v.isLt
  simp only [lane, BitVec.extractLsb'_toNat, Nat.shiftRight_eq_div_pow]
  exact Nat.mod_eq_of_lt (by omega)

/-- A word put together from its lanes. -/
theorem lane_pack {l h : Nat} (hl : l < 2 ^ 16) : lane (BitVec.ofNat 32 (h * 2 ^ 16 + l)) 0 = BitVec.ofNat 16 l
    ∧ lane (BitVec.ofNat 32 (h * 2 ^ 16 + l)) 1 = BitVec.ofNat 16 h := by
  constructor <;> refine BitVec.eq_of_toNat_eq ?_
  · rw [lane_zero_toNat, BitVec.toNat_ofNat, BitVec.toNat_ofNat]; omega
  · rw [lane_one_toNat, BitVec.toNat_ofNat, BitVec.toNat_ofNat]; omega

/-- An operation on lanes acts on each lane for itself. -/
theorem lane_onLanes {f : Nat → Nat → Nat × Bool} (hf : ∀ p q : BitVec 16, (f p.toNat q.toNat).1 < 2 ^ 16) (a b : Word) {n : Nat} (hn : n < 2) :
    lane (onLanes f a b).1 n = BitVec.ofNat 16 (f (lane a n).toNat (lane b n).toNat).1 := by
  have hl := hf (lane a 0) (lane b 0)
  rw [lane_zero_toNat, lane_zero_toNat] at hl
  have h : n = 0 ∨ n = 1 := by omega
  rcases h with rfl | rfl
  · rw [lane_zero_toNat, lane_zero_toNat]; exact (lane_pack hl).1
  · rw [lane_one_toNat, lane_one_toNat]; exact (lane_pack hl).2

/-! ### The operations (R330) -/

theorem satInt_eq_clampTo (n : Nat) (v : Int) : (satInt n v).1 = clampTo (-(2 ^ (n - 1))) (2 ^ (n - 1) - 1) v := by
  have := Int.pow_pos (n := 2) (m := n - 1) (by decide)
  unfold satInt clampTo
  simp only
  split
  · omega
  · split <;> omega

section
variable {n : Nat} (hn : 0 < n) (a b : BitVec n) (l : Bool)
include hn

theorem ofNat_aluLane_add : BitVec.ofNat n (aluLane 0x10 n false a.toNat b.toNat).1 = a + b := by
  simp [aluLane, ofNat_emod, signExt_toNat hn, BitVec.ofInt_add]

theorem ofNat_aluLane_sub : BitVec.ofNat n (aluLane 0x11 n false a.toNat b.toNat).1 = a - b := by
  refine BitVec.eq_of_toInt_eq ?_
  simp [aluLane, ofNat_emod, signExt_toNat hn, BitVec.toInt_sub]

theorem clampTo_toInt (v : Int) : (BitVec.ofInt n (clampTo (-(2 ^ (n - 1))) (2 ^ (n - 1) - 1) v)).toInt = clampTo (-(2 ^ (n - 1))) (2 ^ (n - 1) - 1) v := by
  have := Int.pow_pos (n := 2) (m := n - 1) (by decide)
  exact toInt_ofInt_of_range hn (by unfold clampTo; omega) (by unfold clampTo; omega)

theorem toInt_aluLane_add : (BitVec.ofNat n (aluLane 0x10 n true a.toNat b.toNat).1).toInt = clampTo (-(2 ^ (n - 1))) (2 ^ (n - 1) - 1) (a.toInt + b.toInt) := by
  simp only [aluLane, ofNat_emod, signExt_toNat hn, satInt_eq_clampTo, if_true, clampTo_toInt hn]

theorem toInt_aluLane_sub : (BitVec.ofNat n (aluLane 0x11 n true a.toNat b.toNat).1).toInt = clampTo (-(2 ^ (n - 1))) (2 ^ (n - 1) - 1) (a.toInt - b.toInt) := by
  simp only [aluLane, ofNat_emod, signExt_toNat hn, satInt_eq_clampTo, if_true, clampTo_toInt hn]

omit hn in
theorem ofNat_aluLane_and : BitVec.ofNat n (aluLane 0x12 n l a.toNat b.toNat).1 = a &&& b := by
  simp [aluLane, ← BitVec.toNat_and]

omit hn in
theorem ofNat_aluLane_or : BitVec.ofNat n (aluLane 0x13 n l a.toNat b.toNat).1 = a ||| b := by
  simp [aluLane, ← BitVec.toNat_or]

omit hn in
theorem ofNat_aluLane_xor : BitVec.ofNat n (aluLane 0x14 n l a.toNat b.toNat).1 = a ^^^ b := by
  simp [aluLane, ← BitVec.toNat_xor]

omit hn in
theorem ofNat_aluLane_shl : BitVec.ofNat n (aluLane 0x15 n l a.toNat b.toNat).1 = a <<< (b.toNat % n) := by
  refine BitVec.eq_of_toNat_eq ?_
  simp [aluLane, Nat.shiftLeft_eq]

omit hn in
theorem ofNat_aluLane_shr : BitVec.ofNat n (aluLane 0x16 n l a.toNat b.toNat).1 = a >>> (b.toNat % n) := by
  refine BitVec.eq_of_toNat_eq ?_
  simp only [aluLane, BitVec.toNat_ofNat, BitVec.toNat_ushiftRight, Nat.shiftRight_eq_div_pow]
  exact Nat.mod_eq_of_lt (Nat.lt_of_le_of_lt (Nat.div_le_self ..) a.isLt)

theorem ofNat_aluLane_sra : BitVec.ofNat n (aluLane 0x17 n l a.toNat b.toNat).1 = a.sshiftRight (b.toNat % n) := by
  simp [aluLane, ofNat_emod, signExt_toNat hn, BitVec.sshiftRight, Int.shiftRight_eq_div_pow]

theorem toInt_aluLane_min : (BitVec.ofNat n (aluLane 0x18 n l a.toNat b.toNat).1).toInt = min a.toInt b.toInt := by
  simp only [aluLane, ofNat_emod, signExt_toNat hn]
  rw [Int.min_def]
  split <;> rw [BitVec.ofInt_toInt]

theorem toInt_aluLane_max : (BitVec.ofNat n (aluLane 0x19 n l a.toNat b.toNat).1).toInt = max a.toInt b.toInt := by
  simp only [aluLane, ofNat_emod, signExt_toNat hn]
  rw [Int.max_def]
  split <;> rw [BitVec.ofInt_toInt]

omit hn in
/-- A result fits in its lane. -/
theorem aluLane_lt (op : Nat) : (aluLane op n l a.toNat b.toNat).1 < 2 ^ n := by
  have out := toNat_emod_two_pow_lt n
  unfold aluLane
  extract_lets sa sb count o
  split
  · cases l <;> exact out _
  · cases l <;> exact out _
  · exact Nat.and_lt_two_pow _ b.isLt
  · exact Nat.or_lt_two_pow a.isLt b.isLt
  · exact Nat.xor_lt_two_pow a.isLt b.isLt
  · exact Nat.mod_lt _ (Nat.two_pow_pos n)
  · exact Nat.lt_of_le_of_lt (Nat.div_le_self ..) a.isLt
  · exact out _
  · exact out _
  · exact out _
  · exact a.isLt

end

/-- The f-function of polar decoding: the smaller magnitude, at most 32,767, under the product of the signs. -/
def pfInt (p q : Int) : Int :=
  if decide (p < 0) = decide (q < 0) then ((min (min p.natAbs q.natAbs) 32767 : Nat) : Int) else -((min (min p.natAbs q.natAbs) 32767 : Nat) : Int)

theorem pfLane_eq (p q : BitVec 16) : pfLane p.toNat q.toNat = (pfInt p.toInt q.toInt % 2 ^ 16).toNat := by
  have hm : min (min p.toInt.natAbs 32767) (min q.toInt.natAbs 32767) = min (min p.toInt.natAbs q.toInt.natAbs) 32767 := by omega
  simp only [pfLane, pfInt, signExt_toNat (by decide : 0 < 16), hm]
  by_cases hs : decide (p.toInt < 0) = decide (q.toInt < 0) <;> simp [hs, bne]

theorem toInt_pfLane (p q : BitVec 16) : (BitVec.ofNat 16 (pfLane p.toNat q.toNat)).toInt = pfInt p.toInt q.toInt := by
  rw [pfLane_eq, ofNat_emod]
  refine toInt_ofInt_of_range (by decide) ?_ ?_ <;> unfold pfInt <;> split <;> omega

theorem pfLane_lt (p q : BitVec 16) : pfLane p.toNat q.toNat < 2 ^ 16 := by
  rw [pfLane_eq]; omega

/-- The flags of CMP, bit by bit (Table 12-4). -/
theorem cmpFlags_bits (a b : Word) :
    let v := BitVec.ofNat 64 (cmpFlags a b)
    v.getLsbD 0 = decide (a = b) ∧ v.getLsbD 1 = (a - b).msb ∧ v.getLsbD 2 = decide (b.toNat ≤ a.toNat)
      ∧ v.getLsbD 3 = decide (a.toInt - b.toInt ≠ (a - b).toInt) := by
  have hn : ((a - b).toInt < 0) ↔ (a - b).msb = true := by rw [BitVec.msb_eq_toInt, decide_eq_true_eq]
  have bits (v c n z : Bool) : let w := BitVec.ofNat 64 ((if v then 8 else 0) + (if c then 4 else 0) + (if n then 2 else 0) + (if z then 1 else 0))
      w.getLsbD 0 = z ∧ w.getLsbD 1 = n ∧ w.getLsbD 2 = c ∧ w.getLsbD 3 = v := by
    revert v c n z; decide
  simpa only [cmpFlags, hn, bne_iff_ne, decide_eq_true_eq] using
    bits (decide (a.toInt - b.toInt ≠ (a - b).toInt)) (decide (b.toNat ≤ a.toNat)) (a - b).msb (decide (a = b))

/-- The immediate of ADDI and MOVI. -/
theorem signExt_imm (w : Word) : BitVec.ofInt 32 (signExt 16 (fOf w 0 16)) = (w.extractLsb' 0 16).signExtend 32 := by
  have h : fOf w 0 16 = (w.extractLsb' 0 16).toNat := by simp [fOf, bitsOf]
  rw [h, signExt_toNat (by decide)]
  rfl

/-! ### Rows that send one result to a data register -/

section
variable {s : State} {d : DspId} {w a : Word} {i : Instr} {op : Nat}

/-- A row whose result queues for its register issues the bundle with that result on its way. -/
theorem puts_of_slotB (h : BundleReady s d a w) (hi : exec i s = .next (s.dspB d op w a)) {rel : Word → Prop} {v : Word}
    (hp : opOf w = op → ∀ f0 f1, ({ left := 1, dest := .d (fOf w 22 4), val := v.setWidth 64 } : DspPend) ∈ ((s.dsp d).cycle.slotB d.val w f0 f1).pend)
    (hv : opOf w = op → rel v) (hop : opOf w = op) :
    ∃ t v, exec i s = .next t ∧ Bundle s t d a w ∧ Sends t d 1 (.d (fOf w 22 4)) (BitVec.setWidth 64 v) false ∧ rel v :=
  ⟨_, v, hi.trans (congrArg Host.Outcome.next (State.dspB_ready h hop)), bundle_of_ready h, sends_of_slotB h (hp hop), hv hop⟩

/-- The rows of the two-operand operations: one meaning on whole words, one on lanes. -/
theorem alu_row (h : BundleReady s d a w) (hr : 0x10 ≤ op ∧ op ≤ 0x19) (hi : exec i s = .next (s.dspB d op w a)) {whole : Word → Prop}
    {lanes : BitVec 16 → BitVec 16 → BitVec 16 → Prop}
    (hw : whole (BitVec.ofNat 32 (aluLane op 32 false ((s.dsp d).cycle.dr (fOf w 18 4)).toNat ((s.dsp d).cycle.dr (fOf w 14 4)).toNat).1))
    (hl : ∀ p q : BitVec 16, lanes (BitVec.ofNat 16 (aluLane op 16 true p.toNat q.toNat).1) p q) (hop : opOf w = op) :
    ∃ t v, exec i s = .next t ∧ Bundle s t d a w ∧ Sends t d 1 (.d (fOf w 22 4)) (BitVec.setWidth 64 v) false
      ∧ (fOf w 13 1 = 0 → whole v)
      ∧ (fOf w 13 1 = 1 → ∀ n, n < 2 → lanes (lane v n) (lane ((s.dsp d).cycle.dr (fOf w 18 4)) n) (lane ((s.dsp d).cycle.dr (fOf w 14 4)) n)) := by
  have hr' : 0x10 ≤ opOf w ∧ opOf w ≤ 0x19 := hop ▸ hr
  rcases fOf_one_eq w 13 with hh | hh
  · refine puts_of_slotB h hi (fun _ f0 f1 => ?_) (fun _ => ⟨fun _ => hw, fun e => absurd e (by omega)⟩) hop
    rw [Dsp.slotB_whole hr' hh, hop]
    exact List.mem_append_right _ (List.mem_singleton.mpr rfl)
  · refine puts_of_slotB h hi (v := (onLanes (aluLane op 16 true) ((s.dsp d).cycle.dr (fOf w 18 4)) ((s.dsp d).cycle.dr (fOf w 14 4))).1)
      (fun _ f0 f1 => ?_) (fun _ => ⟨fun e => absurd e (by omega), fun _ n hn => ?_⟩) hop
    · rw [Dsp.slotB_lanes hr' hh, hop, Dsp.setSat_pend]
      exact List.mem_append_right _ (List.mem_singleton.mpr rfl)
    · rw [lane_onLanes (fun p q => aluLane_lt p q true op) _ _ hn]
      exact hl _ _

end

end Sys2Proof.Machine

open Sys2Proof Sys2Proof.Machine

/-- Settles O52: each row queues the result of its operation for the bundle after, on the whole word or lane by lane. -/
theorem dspArithmetic : Obligations.DspArithmetic := by
  unfold Obligations.DspArithmetic
  intro s d w a
  refine ⟨fun hop hh => ?_, fun h => ?_⟩
  · have hb : legalB w = false := by simp [legalB, hop, hh]
    simp [Dsp.legal, hb]
  intro y s1 s2 imm puts alu
  have one (x : Dsp) (v : BitVec 64) (dest : DspDest) : ({ left := 1, dest := dest, val := v } : DspPend) ∈ (x.push 1 dest v).pend :=
    List.mem_append_right _ (List.mem_singleton.mpr rfl)
  have row (i : Instr) (op : Nat) (whole : Word → Prop) (lanes : BitVec 16 → BitVec 16 → BitVec 16 → Prop) (hr : 0x10 ≤ op ∧ op ≤ 0x19)
      (hi : exec i s = .next (s.dspB d op w a)) (hw : whole (BitVec.ofNat 32 (aluLane op 32 false s1.toNat s2.toNat).1))
      (hl : ∀ p q : BitVec 16, lanes (BitVec.ofNat 16 (aluLane op 16 true p.toNat q.toNat).1) p q) : alu i op whole lanes :=
    alu_row h hr hi hw hl
  clear_value alu
  refine ⟨?_, ?_, ?_, ?_, ?_, ?_, ?_, ?_, ?_, ?_, ?_, ?_, ?_, ?_⟩
  · exact row _ _ _ _ (by decide) rfl ((ofNat_aluLane_add (by decide) s1 s2)) ((toInt_aluLane_add (by decide)))
  · exact row _ _ _ _ (by decide) rfl ((ofNat_aluLane_sub (by decide) s1 s2)) ((toInt_aluLane_sub (by decide)))
  · exact row _ _ _ _ (by decide) rfl ((ofNat_aluLane_and s1 s2 _)) ((ofNat_aluLane_and · · _))
  · exact row _ _ _ _ (by decide) rfl ((ofNat_aluLane_or s1 s2 _)) ((ofNat_aluLane_or · · _))
  · exact row _ _ _ _ (by decide) rfl ((ofNat_aluLane_xor s1 s2 _)) ((ofNat_aluLane_xor · · _))
  · exact row _ _ _ _ (by decide) rfl ((ofNat_aluLane_shl s1 s2 _)) ((ofNat_aluLane_shl · · _))
  · exact row _ _ _ _ (by decide) rfl ((ofNat_aluLane_shr s1 s2 _)) ((ofNat_aluLane_shr · · _))
  · exact row _ _ _ _ (by decide) rfl ((ofNat_aluLane_sra (by decide) s1 s2 _)) ((ofNat_aluLane_sra (by decide) · · _))
  · exact row _ _ _ _ (by decide) rfl ((toInt_aluLane_min (by decide) s1 s2 _)) ((toInt_aluLane_min (by decide) · · _))
  · exact row _ _ _ _ (by decide) rfl ((toInt_aluLane_max (by decide) s1 s2 _)) ((toInt_aluLane_max (by decide) · · _))
  · refine puts_of_slotB h rfl (fun hop _ _ => Dsp.slotB_pf hop ▸ one y _ _) fun _ n hn => ?_
    rw [lane_onLanes pfLane_lt s1 s2 hn]
    exact toInt_pfLane (lane s1 n) (lane s2 n)
  · exact puts_of_slotB h rfl (fun hop _ _ => Dsp.slotB_addi hop ▸ one y _ _) fun _ => congrArg (s1 + ·) (signExt_imm w)
  · refine puts_of_slotB h rfl (fun hop _ _ => Dsp.slotB_movi hop ▸ one y _ _) fun _ => ⟨fun h0 => ?_, fun h1 => ?_⟩
    · rw [if_pos h0, signExt_imm]
    · rw [if_neg (by omega)]
      have hi : BitVec.ofNat 16 (fOf w 0 16) = imm := BitVec.eq_of_toNat_eq (by simp [fOf, bitsOf, imm])
      have hlow : BitVec.ofNat 16 ((y.dr (fOf w 22 4)).toNat % 2 ^ 16) = lane (y.dr (fOf w 22 4)) 0 :=
        BitVec.eq_of_toNat_eq (by rw [lane_zero_toNat, BitVec.toNat_ofNat, Nat.mod_mod])
      obtain ⟨h0, h1⟩ := lane_pack (h := fOf w 0 16) (Nat.mod_lt (y.dr (fOf w 22 4)).toNat (Nat.two_pow_pos 16))
      exact ⟨h1.trans hi, h0.trans hlow⟩
  · exact fun hop => ⟨_, _, congrArg Host.Outcome.next (State.dspB_ready h hop), bundle_of_ready h,
      sends_of_slotB h fun _ _ => Dsp.slotB_cmp hop ▸ one y _ _, cmpFlags_bits s1 s2⟩
end

section
/-!
A message to the subscribed sessions of a port reaches each of them whose queue has room (R402, R408).
-/
namespace Sys2Proof.Machine

/-! ### One session's view of the host interface -/

theorem State.session_modSession (s : State) (i sid : Half) {f : Session → Session} (hf : ∀ x, (f x).id = x.id) :
    (s.modSession i f).session sid = (s.session sid).map fun x => if x.id == i then f x else x := by
  have hid (x : Session) : (if x.id == i then f x else x).id = x.id := by split <;> simp [hf]
  unfold State.session State.modSession
  simp only [List.find?_map, Function.comp_def, hid]

/-- The session that a name finds carries it. -/
theorem State.id_of_session {s : State} {sid : Half} {x : Session} (h : s.session sid = some x) : x.id = sid := by
  simpa using List.find?_some h

theorem State.session_modSession_ne (s : State) {i sid : Half} (h : i ≠ sid) {f : Session → Session} (hf : ∀ x, (f x).id = x.id) :
    (s.modSession i f).session sid = s.session sid := by
  rw [State.session_modSession s i sid hf]
  cases hs : s.session sid with
  | none => rfl
  | some x =>
    have hx : ¬ (x.id == i) = true := by simpa [State.id_of_session hs] using Ne.symm h
    simp only [Option.map_some, if_neg hx]

/-- A session stands as it stood, and so do its messages in the queue. -/
def SessionKept (sid : Half) (s t : State) : Prop :=
  t.session sid = s.session sid ∧ t.host.txq.filter (fun m => m.session == sid) = s.host.txq.filter (fun m => m.session == sid)

namespace SessionKept

variable {sid i : Half} {s t u : State}

theorem refl (sid : Half) (s : State) : SessionKept sid s s := ⟨rfl, rfl⟩
theorem trans (h : SessionKept sid s t) (k : SessionKept sid t u) : SessionKept sid s u := ⟨k.1.trans h.1, k.2.trans h.2⟩

theorem queuedUnsol (h : SessionKept sid s t) : t.queuedUnsol sid = s.queuedUnsol sid := by
  have key (q : List Msg) : q.countP (fun m => m.session == sid && m.unsol) = (q.filter fun m => m.session == sid).countP (·.unsol) := by
    rw [List.countP_filter]
    exact List.countP_congr fun m _ => by simp [and_comm]
  unfold State.queuedUnsol
  rw [key, key, h.2]

theorem endSession (hi : i ≠ sid) (s : State) : SessionKept sid s (s.endSession i) := by
  unfold State.endSession
  cases s.session i with
  | none => exact refl sid s
  | some x =>
    have hs : (s.host.sessions.filter fun y => y.id != i).find? (fun y => y.id == sid) = s.host.sessions.find? fun y => y.id == sid := by
      rw [List.find?_filter]
      congr 1
      funext y
      by_cases hy : y.id = sid
      · simp [hy, Ne.symm hi]
      · simp [hy]
    have hq : (s.host.txq.filter fun m => !(m.session == i && m.prot)).filter (fun m => m.session == sid) = s.host.txq.filter fun m => m.session == sid := by
      rw [List.filter_filter]
      congr 1
      funext m
      by_cases hm : m.session = sid
      · simp [hm, Ne.symm hi]
      · simp [hm]
    simp only
    split
    · cases x.port <;> exact ⟨hs, hq⟩
    · exact ⟨hs, hq⟩

theorem sendFrame (hi : i ≠ sid) (s : State) (typ : Nat) (resp unsol : Bool) (token st : Half) (p : List Byte) :
    SessionKept sid s (s.sendFrame i typ resp unsol token st p) := by
  unfold State.sendFrame
  cases s.session i with
  | none => exact refl sid s
  | some x =>
    simp only
    split
    · exact endSession hi s
    · refine ⟨State.session_modSession_ne _ hi fun _ => rfl, ?_⟩
      have hm (m : Msg) (hm : m.session = i) : ([m].filter fun m => m.session == sid) = [] := by simp [hm, hi]
      exact (List.filter_append ..).trans ((congrArg (_ ++ ·) (hm _ rfl)).trans (List.append_nil _))

/-- A message to one session does not concern another. -/
theorem notifyOne (hi : i ≠ sid) (s : State) (typ : Nat) (st : Half) (p : List Byte) : SessionKept sid s (s.notifyOne i typ st p).1 := by
  unfold State.notifyOne
  cases s.session i with
  | none => exact refl sid s
  | some x =>
    have hc : SessionKept sid s (s.modSession i fun y => { y with counts := y.counts.set (typ / 256) (x.counts.get (typ / 256) + 1#16) }) :=
      ⟨State.session_modSession_ne s hi fun _ => rfl, rfl⟩
    simp only
    split
    · exact hc
    · exact hc.trans (sendFrame hi _ typ false true _ st p)

theorem notify (sid : Half) (typ : Nat) (st : Half) (p : List Byte) : ∀ (l : List Half) (s : State), sid ∉ l →
    SessionKept sid s (l.foldl (fun s i => (s.notifyOne i typ st p).1) s)
  | [], s, _ => refl sid s
  | _ :: l, s, h => (notifyOne (List.ne_of_not_mem_cons h).symm s typ st p).trans (notify sid typ st p l _ fun e => h (List.mem_cons_of_mem _ e))

end SessionKept

/-! ### The message is queued -/

theorem State.notifyOne_queues {s : State} {sid : Half} {x : Session} (hs : s.session sid = some x) (hx : x.txSeq ≠ 0xFFFFFFFF#32)
    (hq : s.queuedUnsol sid < 256) (typ : Nat) (st : Half) (p : List Byte) :
    ∃ m ∈ (s.notifyOne sid typ st p).1.host.txq, m.session = sid ∧ m.typ = BitVec.ofNat 16 typ ∧ m.unsol = true ∧ m.status = st ∧ m.payload = p := by
  have hc := State.session_modSession s sid sid (f := fun y => { y with counts := y.counts.set (typ / 256) (x.counts.get (typ / 256) + 1#16) }) fun _ => rfl
  rw [hs, Option.map_some, if_pos (by simp [State.id_of_session hs])] at hc
  unfold State.notifyOne
  simp only [hs]
  rw [if_neg (Nat.not_le.mpr (show State.queuedUnsol (s.modSession sid _) sid < 256 from hq)), State.sendFrame_queues hc hx]
  exact ⟨_, List.mem_append_right _ (List.mem_singleton.mpr rfl), rfl, rfl, rfl, rfl, rfl⟩

/-- Every session that listens and has room gets the message. -/
theorem notified_notify {s u : State} (hu : u.host = s.host) (typ : Nat) (st : Half) (p : List Byte) (ok : Port → Bool) :
    Notified s (u.notify typ st p ok) typ st p ok := by
  intro hids sid hsid x hs hx hq
  have hnd : (s.listeners (typ / 256) ok).Nodup := (List.filter_sublist.map _).nodup hids
  have hl : u.listeners (typ / 256) ok = s.listeners (typ / 256) ok := by unfold State.listeners; rw [hu]
  obtain ⟨l, r, hlr⟩ := List.append_of_mem hsid
  rw [hlr] at hnd
  have hnl : sid ∉ l := fun e => (List.nodup_append.mp hnd).2.2 _ e _ List.mem_cons_self rfl
  have hnr : sid ∉ r := (List.nodup_cons.mp (List.nodup_append.mp hnd).2.1).1
  unfold State.notify
  rw [hl, hlr, List.foldl_append, List.foldl_cons]
  have before := SessionKept.notify sid typ st p l u hnl
  have hsu : u.session sid = some x := by unfold State.session at *; rwa [hu]
  have hqu : u.queuedUnsol sid < 256 := by unfold State.queuedUnsol at *; rwa [hu]
  obtain ⟨m, hm, hrest⟩ := State.notifyOne_queues (before.1.trans hsu) hx (before.queuedUnsol ▸ hqu) typ st p
  have after := SessionKept.notify sid typ st p r ((l.foldl (fun s i => (s.notifyOne i typ st p).1) u).notifyOne sid typ st p).1 hnr
  have hkept : m ∈ (r.foldl (fun s i => (s.notifyOne i typ st p).1) ((l.foldl (fun s i => (s.notifyOne i typ st p).1) u).notifyOne sid typ st p).1).host.txq.filter
      fun m => m.session == sid := by
    rw [after.2]
    exact List.mem_filter.mpr ⟨hm, by simp [hrest.1]⟩
  exact ⟨m, (List.mem_filter.mp hkept).1, hrest⟩

/-! ### dsp.event -/

/-- The kernel that dsp.event names: that of the core, 0 without one. -/
def State.kernelId (s : State) (d : DspId) : Nat :=
  match s.kernelOf d with
  | some k => k.id.toNat
  | none => 0

theorem notified_dspEvent {s u : State} (hh : u.host = s.host) (hk : u.kernels = s.kernels) (d : DspId) (cause : Nat) (st : Half) (pc code : Nat) :
    Notified s (u.dspEvent d cause st pc code) 0x0A13 st (leBytes 4 (s.kernelId d) ++ leBytes 1 d.val ++ leBytes 1 cause ++ leBytes 2 st.toNat
      ++ leBytes 4 pc ++ leBytes 2 code ++ [0#8, 0#8]) hostPort := by
  have hid : u.kernelId d = s.kernelId d := by unfold State.kernelId State.kernelOf; rw [hk]
  exact hid ▸ notified_notify hh 0x0A13 st _ hostPort

end Sys2Proof.Machine
end

section
/-!
Slot A and the turns of the program counter, and the obligation on them.
-/
namespace Sys2Proof.Machine

/-! ### Slot A on a core that slot B has passed -/

/-- Only the pending writes differ. -/
def Dsp.PendOnly (x y : Dsp) : Prop := y = { x with pend := y.pend }

theorem Dsp.PendOnly.trans {x y z : Dsp} (h : x.PendOnly y) (k : y.PendOnly z) : x.PendOnly z := by
  unfold PendOnly at *; rw [k, h]

theorem Dsp.update_pendOnly (x : Dsp) (j : Nat) (up : Option Int) : x.PendOnly (x.update j up) := by
  cases up <;> rfl

theorem Dsp.loaded_pendOnly (x : Dsp) (w : Word) (u : Dword) : x.PendOnly (x.loaded w u) := by
  unfold Dsp.loaded
  by_cases h8 : accSize w = 8
  · simp only [if_pos h8]; rfl
  · simp only [if_neg h8]
    split <;> rfl

theorem Dsp.mem_pend_update {x : Dsp} {p : DspPend} (h : p ∈ x.pend) (j : Nat) (up : Option Int) : p ∈ (x.update j up).pend := by
  cases up with
  | none => exact h
  | some v => exact List.mem_append_left _ h

theorem Dsp.mem_pend_push (x : Dsp) (n : Nat) (dest : DspDest) (v : BitVec 64) (m : Bool) :
    ({ left := n, dest := dest, val := v, mac := m } : DspPend) ∈ (x.push n dest v m).pend :=
  List.mem_append_right _ (List.mem_singleton.mpr rfl)

/-- Words that neither set up a loop nor branch leave the control registers, the program counter and the branch alone. -/
theorem Dsp.slotA_keeps (x : Dsp) {w : Word} (u f : Dword) (h : opOf w < 4 ∨ 8 < opOf w) :
    (x.slotA w u f).cr = x.cr ∧ (x.slotA w u f).pc = x.pc ∧ (x.slotA w u f).branch = x.branch := by
  by_cases ld : opOf w = 0x01
  · rw [slotA_ld ld, (x.loaded_pendOnly w u).trans (update_pendOnly _ _ _)]
    exact ⟨rfl, rfl, rfl⟩
  by_cases st : opOf w = 0x02
  · rw [slotA_st st, update_pendOnly (x.stored w)]
    exact ⟨rfl, rfl, rfl⟩
  by_cases amov : opOf w = 0x03
  · rw [slotA_amov amov]
    exact ⟨rfl, rfl, rfl⟩
  by_cases dma : opOf w = 0x09
  · by_cases hb : descBytes (x.desc w) = 0
    · rw [slotA_dma_empty dma hb]; exact ⟨rfl, rfl, rfl⟩
    · rw [slotA_dma dma hb]; exact ⟨rfl, rfl, rfl⟩
  by_cases wait : opOf w = 0x0A
  · rw [slotA_wait wait]
    exact ⟨rfl, rfl, rfl⟩
  · rw [slotA_idle (by omega)]
    exact ⟨rfl, rfl, rfl⟩

namespace Dsp.AfterB

variable {ds : List DspDest} {x y : Dsp}

theorem dr (h : AfterB ds x y) (i : Nat) : y.dr i = x.dr i := by
  obtain ⟨cr, l, u, v, c, k, rfl, -⟩ := h; rfl
theorem ar (h : AfterB ds x y) (i : Nat) : y.ar i = x.ar i := by
  obtain ⟨cr, l, u, v, c, k, rfl, -⟩ := h; rfl
theorem or (h : AfterB ds x y) (i : Nat) : y.or i = x.or i := by
  obtain ⟨cr, l, u, v, c, k, rfl, -⟩ := h; rfl

/-- Addresses are formed from registers that slot B leaves alone. -/
theorem address (h : AfterB ds x y) (w : Word) (f : Dword) : y.address w f = x.address w f := by
  have hj := fOf_lt w 19 3
  have hB : y.circBase (fOf w 19 3) = x.circBase (fOf w 19 3) := by unfold Dsp.circBase; rw [h.ctlReg (by omega)]
  have hL : y.circLen (fOf w 19 3) = x.circLen (fOf w 19 3) := by unfold Dsp.circLen; rw [h.ctlReg (by omega)]
  simp only [Dsp.address, Dsp.modify, Dsp.bitRev, hB, hL, h.ar, h.or]

theorem desc (h : AfterB ds x y) (w : Word) : y.desc w = x.desc w := by
  obtain ⟨hm, -⟩ := h.same
  simp only [Dsp.desc, hm, h.ar]

theorem noWrap (h : AfterB ds x y) (hw : x.NoWrap) : y.NoWrap := by
  obtain ⟨-, -, hpc, -⟩ := h.same
  exact hw.congr hpc fun i _ _ => h.ctlReg (by omega)

end Dsp.AfterB

/-! ### The core after a bundle that goes straight on or turns -/

section
variable {s : State} {d : DspId} {w b : Word}

theorem State.betweenSlots_afterB (s : State) (d : DspId) (b : Word) : Dsp.AfterB (destsB b) (s.dsp d).cycle (s.betweenSlots d b) :=
  Dsp.slotB_touches ..

/-- A bundle on a straight core whose slot A neither sets up a loop nor branches goes on to the next one. -/
theorem State.dsp_dspBundle_straight (h : BundleReady s d w b) (hs : Straight (s.dsp d).cycle) (hop : opOf w < 4 ∨ 8 < opOf w) :
    (s.dspBundle d w b).dsp d =
      { s.afterSlots d w b with shadow := (s.afterSlots d w b).shadow - 1, pc := (s.dsp d).cycle.pc + 8#17, branch := none, held := none } := by
  have hz := s.betweenSlots_afterB d b
  obtain ⟨-, -, hpc, hbr, -⟩ := hz.same
  obtain ⟨hcr, hpc', hbr'⟩ := Dsp.slotA_keeps (s.betweenSlots d b) (Config.freeWord (s.freeCtr + 1)) (Config.freeWord (s.freeCtr + 2)) hop
  change (s.afterSlots d w b).cr = _ at hcr
  change (s.afterSlots d w b).pc = _ at hpc'
  change (s.afterSlots d w b).branch = _ at hbr'
  have hb : (s.afterSlots d w b).branch = none := (hbr'.trans hbr).trans hs.1
  have hw : (s.afterSlots d w b).NoWrap := (hz.noWrap hs.2).congr hpc' fun i _ _ => Dsp.ctlReg_congr hcr i
  rw [State.dsp_dspBundle h, Dsp.advance_straight hb (fun e => by omega) hw]
  simp only [hpc', hpc, hb]

/-- A branch leaves its two delay bundles to come. -/
theorem State.dsp_dspBundle_branch (h : BundleReady s d w b) (hs : Straight (s.dsp d).cycle) {q : DspBranch} {cr : Vector Word 32}
    (hv : s.afterSlots d w b = { s.betweenSlots d b with cr := cr, branch := some q }) (hl : q.left = 3) (hop : opOf w ≠ 4)
    (hcr : ∀ i, 1 ≤ i → i ≤ 6 → (s.afterSlots d w b).ctlReg i = (s.betweenSlots d b).ctlReg i) :
    ((s.dspBundle d w b).dsp d).pc = (s.dsp d).cycle.pc + 8#17 ∧ ((s.dspBundle d w b).dsp d).branch = some { q with left := 2 }
      ∧ ((s.dspBundle d w b).dsp d).cr = cr := by
  have hz := s.betweenSlots_afterB d b
  obtain ⟨-, -, hpc, -⟩ := hz.same
  have hw : (s.afterSlots d w b).NoWrap := (hz.noWrap hs.2).congr (by rw [hv]) hcr
  have hb : (s.afterSlots d w b).branch = some q := by rw [hv]
  rw [State.dsp_dspBundle h, Dsp.advance_delay_straight hb (by omega) (fun e => hop e.1) hw]
  simp only [hv, hl, hpc, and_self]

end

/-! ### Loads and stores (R327, R331) -/

theorem leNat_slice_eight (c : Cells 8) (a : Nat) :
    leNat (c.slice a 8) % 2 ^ 32 = leNat (c.slice a 4) ∧ leNat (c.slice a 8) / 2 ^ 32 = leNat (c.slice (a + 4) 4) := by
  have h : leNat (c.slice a 8) = leNat (c.slice a 4) + 256 ^ 4 * leNat (c.slice (a + 4) 4) := by
    rw [c.slice_add a 4 4, leNat_append, Cells.length_slice]
  have := leNat_slice_lt c a 4
  omega

theorem leBytes_eight (lo hi : Word) : leBytes 8 (lo.toNat + hi.toNat * 2 ^ 32) = leBytes 4 lo.toNat ++ leBytes 4 hi.toNat := by
  have := lo.isLt
  rw [leBytes_add 4 4, show lo.toNat + hi.toNat * 2 ^ 32 = lo.toNat + 256 ^ 4 * hi.toNat by omega, leBytes_add_mul,
    show (lo.toNat + 256 ^ 4 * hi.toNat) / 256 ^ 4 = hi.toNat by omega]

section
variable {x : Dsp} {w : Word} {u : Dword}

theorem Dsp.address_post (h : fOf w 12 2 = 0) (f : Dword) : (x.address w f).2 = some (x.modify (fOf w 19 3) (x.or (fOf w 19 3)).toInt) := by
  simp only [Dsp.address, h]

theorem Dsp.address_increment (h : fOf w 12 2 = 1) (f : Dword) : (x.address w f).2 = some (x.modify (fOf w 19 3) (accSize w : Nat)) := by
  simp only [Dsp.address, h]

/-- A 2-byte load defines the low half of its register. -/
theorem Dsp.loaded_two (h : accSize w = 2) : ∃ v : Word, ({ left := 4, dest := .d (fOf w 22 4), val := v.setWidth 64 } : DspPend) ∈ (x.loaded w u).pend
    ∧ (lane v 0).toNat = leNat (x.mem.slice (x.address w 0#64).1 2) := by
  have hlt := leNat_slice_lt x.mem (x.address w 0#64).1 2
  refine ⟨BitVec.ofNat 32 (u.toNat % 2 ^ 16 * 2 ^ 16 + leNat (x.mem.slice (x.address w 0#64).1 2)), ?_, ?_⟩
  · have hv : BitVec.setWidth 64 (BitVec.ofNat 32 (u.toNat % 2 ^ 16 * 2 ^ 16 + leNat (x.mem.slice (x.address w 0#64).1 2)))
        = BitVec.ofNat 64 (u.toNat % 2 ^ 16 * 2 ^ 16 + leNat (x.mem.slice (x.address w 0#64).1 2)) := by
      refine BitVec.eq_of_toNat_eq ?_
      simp only [BitVec.toNat_setWidth, BitVec.toNat_ofNat]
      omega
    simp only [Dsp.loaded, h, hv]
    exact Dsp.mem_pend_push ..
  · rw [lane_zero_toNat, BitVec.toNat_ofNat]
    omega

theorem Dsp.loaded_four (h : accSize w = 4) : ({ left := 4, dest := .d (fOf w 22 4), val := BitVec.ofNat 64 (leNat (x.mem.slice (x.address w 0#64).1 4)) } : DspPend)
    ∈ (x.loaded w u).pend := by
  simp only [Dsp.loaded, h]
  exact Dsp.mem_pend_push ..

/-- An 8-byte load fills a pair of registers. -/
theorem Dsp.loaded_eight (h : accSize w = 8) :
    ({ left := 4, dest := .d (fOf w 22 4 / 2 * 2), val := BitVec.ofNat 64 (leNat (x.mem.slice (x.address w 0#64).1 4)) } : DspPend) ∈ (x.loaded w u).pend
    ∧ ({ left := 4, dest := .d (fOf w 22 4 / 2 * 2 + 1), val := BitVec.ofNat 64 (leNat (x.mem.slice ((x.address w 0#64).1 + 4) 4)) } : DspPend)
      ∈ (x.loaded w u).pend := by
  obtain ⟨hlo, hhi⟩ := leNat_slice_eight x.mem (x.address w 0#64).1
  simp only [Dsp.loaded, h, if_true, hlo, hhi]
  exact ⟨List.mem_append_left _ (Dsp.mem_pend_push ..), Dsp.mem_pend_push ..⟩

theorem Dsp.stored_get {a : Nat} (h : a < (x.address w 0#64).1 ∨ (x.address w 0#64).1 + accSize w ≤ a) : (x.stored w).mem.get a = x.mem.get a :=
  x.mem.get_splice_outside _ (by rwa [leBytes_length])

theorem Dsp.stored_slice (x : Dsp) (w : Word) : (x.stored w).mem.slice (x.address w 0#64).1 (accSize w) = leBytes (accSize w) (x.storeVal w) := by
  have h := x.mem.slice_splice_same (x.address w 0#64).1 (leBytes (accSize w) (x.storeVal w))
  rwa [leBytes_length] at h

end

/-! ### Channels (R341) -/

theorem Dsp.chan_setChan (x : Dsp) (h k : Nat) (c : DspChan) : (x.setChan h c).chan k = if h % 4 = k % 4 then c else x.chan k := by
  simp only [Dsp.setChan, Dsp.chan, Vector.getElem_set]

theorem getElem_vmapIdx {α β : Type} {n : Nat} (v : Vector α n) (f : Nat → α → β) (i : Nat) (h : i < n) : (vmapIdx v f)[i] = f i v[i] := by
  simp [vmapIdx]

/-! ### Loops (R333) -/

section
variable {x : Dsp} {w : Word}

theorem Dsp.looped_regs (x : Dsp) (w : Word) : (x.looped w).ctlReg (3 * fOf w 25 1 + 1) = x.loopCount w
    ∧ (x.looped w).ctlReg (3 * fOf w 25 1 + 2) = (x.pc + 8#17).setWidth 32 ∧ (x.looped w).ctlReg (3 * fOf w 25 1 + 3) = (x.loopLast w).setWidth 32 := by
  rcases fOf_one_eq w 25 with e | e <;> simp [Dsp.looped, Dsp.ctlReg_setCtl, e]

/-- The body of a loop lies after its LOOP. -/
theorem Dsp.loopLast_ne_pc (x : Dsp) (w : Word) : (x.loopLast w).toNat ≠ x.pc.toNat := by
  have := fOf_lt w 0 8
  have := x.pc.isLt
  simp only [Dsp.loopLast, BitVec.toNat_add, BitVec.toNat_ofNat]
  omega

theorem Dsp.looped_noWrap (h : x.NoWrap) : (x.looped w).NoWrap := by
  have hlast := Dsp.loopLast_ne_pc x w
  have hw : ((x.loopLast w).setWidth 32).toNat = (x.loopLast w).toNat := by
    have := (x.loopLast w).isLt
    rw [BitVec.toNat_setWidth, Nat.mod_eq_of_lt (by omega)]
  have hpc : (x.looped w).pc = x.pc := rfl
  intro b hb hend
  have hx := h b hb
  rw [hpc] at hend
  rcases fOf_one_eq w 25 with e | e <;> rcases hb with rfl | rfl <;> simp only [Dsp.looped, e, Dsp.ctlReg_setCtl] at hend ⊢
  · exact absurd (hw.symm.trans hend) hlast
  · exact hx hend
  · exact hx hend
  · exact absurd (hw.symm.trans hend) hlast

/-- After LOOP the body follows, or what comes after the body when it is skipped. -/
theorem Dsp.advance_looped (hop : opOf w = 0x04) (hb : x.branch = none) (h : x.NoWrap) :
    ((x.looped w).advance w).cr = (x.looped w).cr ∧ ((x.looped w).advance w).branch = none
      ∧ ((x.looped w).advance w).pc = if x.loopCount w = 0#32 then x.loopLast w + 8#17 else x.pc + 8#17 := by
  obtain ⟨hcount, -, hlast⟩ := x.looped_regs w
  by_cases h0 : x.loopCount w = 0#32
  · have hback : ((x.loopLast w).setWidth 32).setWidth 17 = x.loopLast w := by simp
    rw [if_pos h0, Dsp.advance_none (x := x.looped w) w hb, seqNext_skip (x := { x.looped w with shadow := (x.looped w).shadow - 1 }) hop (hcount.trans h0)]
    exact ⟨rfl, hb, congrArg (· + 8#17) ((congrArg (BitVec.setWidth 17) hlast).trans hback)⟩
  · rw [if_neg h0, Dsp.advance_straight (x := x.looped w) hb (fun e => h0 (hcount.symm.trans e.2)) (looped_noWrap h)]
    exact ⟨rfl, hb, rfl⟩

end

/-! ### Rows of slot A -/

section
variable {s : State} {d : DspId} {w b : Word}

/-- Loads and stores update their address register by their mode (Table 12-6). -/
theorem sends_update (h : BundleReady s d w b) {x : Dsp} {f : Dword}
    (hv : s.afterSlots d w b = x.update (fOf w 19 3) ((s.betweenSlots d b).address w f).2) :
    (fOf w 12 2 = 0 → Sends (s.dspBundle d w b) d 1 (.a (fOf w 19 3))
      (BitVec.ofInt 64 ((s.dsp d).cycle.modify (fOf w 19 3) ((s.dsp d).cycle.or (fOf w 19 3)).toInt)) false)
    ∧ (fOf w 12 2 = 1 → Sends (s.dspBundle d w b) d 1 (.a (fOf w 19 3)) (BitVec.ofInt 64 ((s.dsp d).cycle.modify (fOf w 19 3) (accSize w : Nat))) false) := by
  rw [(s.betweenSlots_afterB d b).address] at hv
  constructor
  · intro h0
    refine sends_of_slotA h ?_
    rw [hv, Dsp.address_post h0]
    exact Dsp.mem_pend_push ..
  · intro h1
    refine sends_of_slotA h ?_
    rw [hv, Dsp.address_increment h1]
    exact Dsp.mem_pend_push ..


/-- The data of a load is on its way. -/
theorem sends_load (h : BundleReady s d w b) (hop : opOf w = 0x01) :
    let y := (s.dsp d).cycle
    let ea := (y.address w 0#64).1
    (accSize w = 2 → ∃ v : Word, Sends (s.dspBundle d w b) d 4 (.d (fOf w 22 4)) (BitVec.setWidth 64 v) false ∧ (lane v 0).toNat = leNat (y.mem.slice ea 2))
    ∧ (accSize w = 4 → Sends (s.dspBundle d w b) d 4 (.d (fOf w 22 4)) (BitVec.ofNat 64 (leNat (y.mem.slice ea 4))) false)
    ∧ (accSize w = 8 → Sends (s.dspBundle d w b) d 4 (.d (fOf w 22 4 / 2 * 2)) (BitVec.ofNat 64 (leNat (y.mem.slice ea 4))) false
        ∧ Sends (s.dspBundle d w b) d 4 (.d (fOf w 22 4 / 2 * 2 + 1)) (BitVec.ofNat 64 (leNat (y.mem.slice (ea + 4) 4))) false) := by
  intro y ea
  have hz := s.betweenSlots_afterB d b
  obtain ⟨hmem, -⟩ := hz.same
  have hea : ((s.betweenSlots d b).address w 0#64).1 = ea := congrArg Prod.fst (hz.address w _)
  have sent {p : DspPend} (hp : p ∈ ((s.betweenSlots d b).loaded w (Config.freeWord (s.freeCtr + 1))).pend) :
      Sends (s.dspBundle d w b) d p.left p.dest p.val p.mac := by
    have hv : s.afterSlots d w b = _ := Dsp.slotA_ld hop
    exact sends_of_slotA h (hv ▸ Dsp.mem_pend_update hp _ _)
  rw [← hea, show y.mem = (s.betweenSlots d b).mem from hmem.symm]
  refine ⟨fun h2 => ?_, fun h4 => sent (Dsp.loaded_four h4), fun h8 => ?_⟩
  · obtain ⟨v, hp, hl⟩ := Dsp.loaded_two h2
    exact ⟨v, sent hp, hl⟩
  · obtain ⟨hlo, hhi⟩ := Dsp.loaded_eight h8
    exact ⟨sent hlo, sent hhi⟩

/-- A store's bytes are in memory at once. -/
theorem mem_store (h : BundleReady s d w b) (hs : Straight (s.dsp d).cycle) (hop : opOf w = 0x02) :
    ((s.dspBundle d w b).dsp d).mem = ((s.dsp d).cycle.stored w).mem := by
  have hz := s.betweenSlots_afterB d b
  obtain ⟨hmem, -⟩ := hz.same
  have hv : s.afterSlots d w b = ((s.betweenSlots d b).stored w).update _ _ := Dsp.slotA_st hop
  rw [State.dsp_dspBundle_straight h hs (by omega), hv, Dsp.update_pendOnly]
  simp only [Dsp.stored, Dsp.storeVal, hz.address, hz.dr, hmem]

theorem loop_row (h : BundleReady s d w b) (hs : Straight (s.dsp d).cycle) (hop : opOf w = 0x04) :
    let y := (s.dsp d).cycle
    let t := (s.dspBundle d w b).dsp d
    t.ctlReg (3 * fOf w 25 1 + 1) = y.loopCount w ∧ t.ctlReg (3 * fOf w 25 1 + 2) = (y.pc + 8#17).setWidth 32
      ∧ t.ctlReg (3 * fOf w 25 1 + 3) = (y.loopLast w).setWidth 32 ∧ t.branch = none
      ∧ t.pc = if y.loopCount w = 0#32 then y.loopLast w + 8#17 else y.pc + 8#17 := by
  intro y t
  have hz := s.betweenSlots_afterB d b
  obtain ⟨-, -, hpc, hbr, -⟩ := hz.same
  have hv : s.afterSlots d w b = _ := Dsp.slotA_loop hop
  have hcount : (s.betweenSlots d b).loopCount w = y.loopCount w := by simp only [Dsp.loopCount, hz.dr, y]
  have hlast : (s.betweenSlots d b).loopLast w = y.loopLast w := by simp only [Dsp.loopLast, hpc, y]
  have hregs := (s.betweenSlots d b).looped_regs w
  rw [hcount, hpc, hlast] at hregs
  obtain ⟨r0, r1, r2⟩ := hregs
  obtain ⟨hcr, hnone, hturn⟩ := Dsp.advance_looped hop (hbr.trans hs.1) (hz.noWrap hs.2)
  have ht : t = { ((s.betweenSlots d b).looped w).advance w with held := none } := hv ▸ State.dsp_dspBundle h
  have hreg : t.cr = ((s.betweenSlots d b).looped w).cr := by rw [ht, ← hcr]
  rw [hcount, hlast, hpc] at hturn
  simp only [Dsp.ctlReg_congr hreg]
  exact ⟨r0, r1, r2, by rw [ht, ← hnone], by rw [ht, ← hturn]⟩

/-- A DMA starts its channel, or ends at once when its descriptor has no bytes. -/
theorem dma_row (h : BundleReady s d w b) (hs : Straight (s.dsp d).cycle) (hop : opOf w = 0x09) :
    let y := (s.dsp d).cycle
    let t := (s.dspBundle d w b).dsp d
    (descBytes (y.desc w) ≠ 0 → (t.chan (fOf w 24 2)).run = some (y.desc w) ∧ (t.chan (fOf w 24 2)).done = (y.chan (fOf w 24 2)).done)
      ∧ (descBytes (y.desc w) = 0 → (t.chan (fOf w 24 2)).run = none ∧ (t.chan (fOf w 24 2)).done = true ∧ t.ipend.getLsbD 1 = true)
      ∧ ∀ k, k < 4 → k ≠ fOf w 24 2 → t.chan k = y.chan k := by
  intro y t
  have hz := s.betweenSlots_afterB d b
  obtain ⟨-, hchans, -⟩ := hz.same
  have hchan (k : Nat) : (s.betweenSlots d b).chan k = y.chan k := by unfold Dsp.chan; simp only [hchans, y]
  have ht : t = _ := State.dsp_dspBundle_straight h hs (by omega)
  have hlt := fOf_lt w 24 2
  by_cases hb : descBytes (y.desc w) = 0
  · have hv : s.afterSlots d w b = _ := Dsp.slotA_dma_empty hop (by rwa [hz.desc])
    have hc (k : Nat) : t.chan k = ((s.betweenSlots d b).setChan (fOf w 24 2) { run := none, done := true }).chan k := by rw [ht, hv]; rfl
    have hp : t.ipend = (s.betweenSlots d b).ipend ||| 2#3 := by rw [ht, hv]
    refine ⟨fun e => absurd hb e, fun _ => ?_, fun k hk hne => ?_⟩
    · rw [hc, Dsp.chan_setChan, if_pos rfl, hp]
      exact ⟨rfl, rfl, by simp⟩
    · rw [hc, Dsp.chan_setChan, if_neg (by omega), hchan]
  · have hv : s.afterSlots d w b = _ := Dsp.slotA_dma hop (by rwa [hz.desc])
    have hc (k : Nat) : t.chan k = ((s.betweenSlots d b).setChan (fOf w 24 2)
        { (s.betweenSlots d b).chan (fOf w 24 2) with run := some ((s.betweenSlots d b).desc w) }).chan k := by rw [ht, hv]; rfl
    refine ⟨fun _ => ?_, fun e => absurd e hb, fun k hk hne => ?_⟩
    · rw [hc, Dsp.chan_setChan, if_pos rfl, hchan, hz.desc]
      exact ⟨rfl, rfl⟩
    · rw [hc, Dsp.chan_setChan, if_neg (by omega), hchan]

/-- WAIT clears the events it names. -/
theorem wait_row (h : BundleReady s d w b) (hs : Straight (s.dsp d).cycle) (hop : opOf w = 0x0A) (k : Nat) (hk : k < 4) :
    ((s.dspBundle d w b).dsp d).chan k = waited w k ((s.dsp d).cycle.chan k) := by
  obtain ⟨-, hchans, -⟩ := (s.betweenSlots_afterB d b).same
  have hv : s.afterSlots d w b = _ := Dsp.slotA_wait hop
  rw [State.dsp_dspBundle_straight h hs (by omega), hv]
  simp only [Dsp.chan, getElem_vmapIdx, hchans, Nat.mod_eq_of_lt hk]

/-- SIG: nothing on a radio core, a message to the host on an open one (R335, R343). -/
theorem sig_row (h : BundleReady s d w b) (hop : opOf w = 0x0B) :
    (d.val < 12 → (s.dspBundle d w b).host = s.host)
    ∧ (12 ≤ d.val → Notified s (s.dspBundle d w b) 0x0A13 0x0000#16 (leBytes 4 (s.kernelId d) ++ leBytes 1 d.val
        ++ [0#8, 0#8, 0#8] ++ leBytes 4 (s.dsp d).pc.toNat ++ leBytes 2 (fOf w 0 16) ++ [0#8, 0#8]) hostPort) := by
  refine ⟨fun hd => ?_, fun hd => ?_⟩
  · rw [State.dspBundle_quiet h fun _ => hd]; rfl
  · have hn := notified_dspEvent (s := s) (u := s.afterBundle d w b) rfl rfl d 0 stOk (s.dsp d).pc.toNat (fOf w 0 16)
    rw [State.dspBundle_sig h hop hd]
    simpa [leBytes, stOk] using hn

/-- The target and the condition of a branch, as the core stood at issue. -/
theorem branch_row (h : BundleReady s d w b) (hs : Straight (s.dsp d).cycle) :
    let y := (s.dsp d).cycle
    let turns := fun (target : BitVec 17) (taken rti : Bool) => ((s.dspBundle d w b).dsp d).pc = y.pc + 8#17
      ∧ ((s.dspBundle d w b).dsp d).branch = some { left := 2, target := target, taken := taken, rti := rti }
    (opOf w = 0x05 → turns (y.target w) (condHolds (fOf w 22 4) y.fl) false)
      ∧ (opOf w = 0x06 → turns (y.target w) true false ∧ ((s.dspBundle d w b).dsp d).ctlReg 31 = (y.pc + 24#17).setWidth 32)
      ∧ (opOf w = 0x07 → turns ((y.ctlReg 31).setWidth 17) true false)
      ∧ (opOf w = 0x08 → turns 0#17 true true) := by
  intro y turns
  have hz := s.betweenSlots_afterB d b
  obtain ⟨-, -, hpc, -⟩ := hz.same
  have htarget : (s.betweenSlots d b).target w = y.target w := by simp only [Dsp.target, hpc, y]
  refine ⟨fun hop => ?_, fun hop => ?_, fun hop => ?_, fun hop => ?_⟩
  · have hv : s.afterSlots d w b = _ := Dsp.slotA_br hop
    rw [htarget, hz.condHolds] at hv
    obtain ⟨h1, h2, -⟩ := State.dsp_dspBundle_branch h hs (cr := (s.betweenSlots d b).cr) hv rfl (by omega) (fun _ _ _ => by rw [hv]; rfl)
    exact ⟨h1, h2⟩
  · have hv : s.afterSlots d w b = _ := Dsp.slotA_call hop
    rw [htarget, hpc] at hv
    obtain ⟨h1, h2, h3⟩ := State.dsp_dspBundle_branch h hs (cr := ((s.betweenSlots d b).setCtl 31 _).cr) hv rfl (by omega)
      (fun i _ _ => by rw [hv]; exact Dsp.ctlReg_setCtl_ne _ _ (by omega))
    exact ⟨⟨h1, h2⟩, (Dsp.ctlReg_congr h3 31).trans (Dsp.ctlReg_setCtl_same _ 31 _)⟩
  · have hv : s.afterSlots d w b = _ := Dsp.slotA_ret hop
    rw [hz.ctlReg (by decide)] at hv
    obtain ⟨h1, h2, -⟩ := State.dsp_dspBundle_branch h hs (cr := (s.betweenSlots d b).cr) hv rfl (by omega) (fun _ _ _ => by rw [hv]; rfl)
    exact ⟨h1, h2⟩
  · have hv : s.afterSlots d w b = _ := Dsp.slotA_rti hop
    obtain ⟨h1, h2, -⟩ := State.dsp_dspBundle_branch h hs (cr := (s.betweenSlots d b).cr) hv rfl (by omega) (fun _ _ _ => by rw [hv]; rfl)
    exact ⟨h1, h2⟩

end

/-! ### Delay bundles and loop ends, with NOP in slot A -/

section
variable {s : State} {d : DspId} {b : Word} {q : DspBranch}

theorem State.afterSlots_nop (s : State) (d : DspId) (b : Word) : s.afterSlots d 0#32 b = s.betweenSlots d b := Dsp.slotA_idle (.inl (by decide))

/-- The first delay bundle leaves one to come (R334). -/
theorem nop_first_delay (h : BundleReady s d 0#32 b) (hq : (s.dsp d).cycle.branch = some q) (hl : q.left = 2) :
    ((s.dspBundle d 0#32 b).dsp d).branch = some { q with left := 1 } := by
  obtain ⟨-, -, -, hbr, -⟩ := (s.betweenSlots_afterB d b).same
  rw [State.dsp_dspBundle h, State.afterSlots_nop, Dsp.advance_delay _ (hbr.trans hq) (by omega), hl]
  exact (Dsp.seqNext_touches _ _).2.2

/-- After the last delay bundle the branch takes effect (R334). -/
theorem nop_last_delay (h : BundleReady s d 0#32 b) (hq : (s.dsp d).cycle.branch = some q) (hl : q.left = 1) :
    let y := (s.dsp d).cycle
    let t := (s.dspBundle d 0#32 b).dsp d
    t.branch = none ∧ (q.rti = true → t.pc = (y.ctlReg 24).setWidth 17 ∧ t.fl = y.ctlReg 25 &&& 0x3F#32)
      ∧ (q.rti = false → q.taken = true → t.pc = q.target) := by
  intro y t
  have hz := s.betweenSlots_afterB d b
  obtain ⟨-, -, -, hbr, -⟩ := hz.same
  have hb := hbr.trans hq
  have ht : t = { (s.betweenSlots d b).advance 0#32 with held := none } := by rw [← State.afterSlots_nop]; exact State.dsp_dspBundle h
  rw [ht]
  cases hr : q.rti with
  | true =>
    rw [Dsp.advance_rti _ hb (Nat.le_of_eq hl) hr, hz.ctlReg (by decide), hz.ctlReg (by decide)]
    exact ⟨rfl, fun _ => ⟨rfl, Dsp.ctlReg_setCtl_same _ 0 _⟩, fun e => by cases e⟩
  | false =>
    cases hk : q.taken with
    | true =>
      rw [Dsp.advance_taken _ hb (Nat.le_of_eq hl) hr hk]
      exact ⟨rfl, fun e => (by cases e), fun _ _ => rfl⟩
    | false =>
      rw [Dsp.advance_not_taken _ hb (Nat.le_of_eq hl) hr hk]
      exact ⟨(Dsp.seqNext_touches _ _).2.2, fun e => (by cases e), fun _ e => (by cases e)⟩

/-- The last bundle of a loop body with passes left goes back to its start (R333). -/
theorem nop_loop_end (h : BundleReady s d 0#32 b) {n : Nat} (hn : n = 1 ∨ n = 4) (hb : (s.dsp d).cycle.branch = none)
    (hend : ((s.dsp d).cycle.ctlReg (n + 2)).toNat = (s.dsp d).cycle.pc.toNat) (hleft : 1 < ((s.dsp d).cycle.ctlReg n).toNat)
    (hinner : n = 1 → ((s.dsp d).cycle.ctlReg 6).toNat = (s.dsp d).cycle.pc.toNat → ((s.dsp d).cycle.ctlReg 4).toNat ≤ 1) :
    ((s.dspBundle d 0#32 b).dsp d).pc = ((s.dsp d).cycle.ctlReg (n + 1)).setWidth 17
      ∧ ((s.dspBundle d 0#32 b).dsp d).ctlReg n = (s.dsp d).cycle.ctlReg n - 1#32 := by
  have hz := s.betweenSlots_afterB d b
  obtain ⟨-, -, hpc, hbr, -⟩ := hz.same
  have hreg {i : Nat} (h1 : 1 ≤ i) (h6 : i ≤ 6) : (s.betweenSlots d b).ctlReg i = (s.dsp d).cycle.ctlReg i := hz.ctlReg (by omega)
  rw [← hpc, ← hreg (by decide) (by decide), ← hreg (by decide) (by decide)] at hinner
  rw [← hpc, ← hreg (by omega) (by omega)] at hend
  rw [← hreg (by omega) (by omega)] at hleft
  rw [State.dsp_dspBundle h, State.afterSlots_nop, Dsp.advance_none _ (hbr.trans hb),
    Dsp.seqNext_wrap (x := { s.betweenSlots d b with shadow := (s.betweenSlots d b).shadow - 1 }) (by decide) hn hend hleft hinner,
    ← hreg (by omega) (by omega), ← hreg (by omega) (by omega)]
  exact ⟨rfl, Dsp.ctlReg_setCtl_same (s.betweenSlots d b) n _⟩

end

/-! ### Bundles that hold at issue (R335, R341) -/

/-- A bundle whose slot A waits is held. -/
theorem State.dspA_held {s : State} {d : DspId} {w b : Word} {op : Nat} (hr : (s.dsp d).runs = true) (hh : (s.dsp d).held = none)
    (hl : (s.dsp d).cycle.legal w b = true) (hf : (s.dsp d).cycle.faultA (s.winOk d) w = none) (hw : (s.dsp d).cycle.holdA w = true) (hop : opOf w = op) :
    s.dspA d op w b = s.setDsp d { s.dsp d with held := some (w, b) } := by
  have hi (f0 f1 f2 f3 : Dword) : (s.dsp d).issue d.val (s.winOk d) w b f0 f1 f2 f3 = .hold := by simp [Dsp.issue, hl, hf, hw]
  refine (if_pos (by simp [hr, hh, dspRowA, hop])).trans ?_
  simp only [State.dspBundle, hi]

end Sys2Proof.Machine

open Sys2Proof Sys2Proof.Machine

/-- Settles O54: each row of slot A is read off its equation on the core that slot B has passed, which keeps every register
slot A reads; the turns come from the step of the program counter. -/
theorem dspSlotAAndTurns : Obligations.DspSlotAAndTurns := by
  unfold Obligations.DspSlotAAndTurns
  refine ⟨fun s d w b => ?_, fun s d b => ?_⟩
  · have hz := s.betweenSlots_afterB d b
    have row (i : Instr) (op : Nat) (rel : State → Prop) (hi : exec i s = .next (s.dspA d op w b))
        (hr : BundleReady s d w b → Straight (s.dsp d).cycle → opOf w = op → rel (s.dspBundle d w b)) :
        BundleReady s d w b → Straight (s.dsp d).cycle → opOf w = op → ∃ t, exec i s = .next t ∧ Bundle s t d w b ∧ rel t := fun h hs hop =>
      ⟨_, hi.trans (congrArg Host.Outcome.next (State.dspA_ready h hop)), bundle_of_ready h, hr h hs hop⟩
    intro y next dd j ea sz does goes turns wrap moves target desc ch
    replace row (i : Instr) (op : Nat) (rel : State → Prop) : _ → _ → does i op rel := row i op rel
    clear_value does
    have straight (h : BundleReady s d w b) (hs : Straight y) (hop : opOf w < 4 ∨ 8 < opOf w) : goes (s.dspBundle d w b) := by
      simp only [goes, State.dsp_dspBundle_straight h hs hop, next, y, and_self]
    refine ⟨?_, ?_, ?_, ?_, ?_, ?_, ?_, ?_, ?_, ?_, ?_, ?_⟩
    · exact row _ _ _ rfl fun h hs hop => straight h hs (by omega)
    · exact row _ _ _ rfl fun h hs hop => ⟨straight h hs (by omega), sends_update h (Dsp.slotA_ld hop), sends_load h hop⟩
    · refine row _ _ _ rfl fun h hs hop => ⟨straight h hs (by omega), sends_update h (Dsp.slotA_st hop), fun a ha => ?_, fun h4 => ?_, fun h8 => ?_⟩
      · rw [mem_store h hs hop, Dsp.stored_get ha]
      · have hval : y.storeVal w = (y.dr dd).toNat := if_neg fun e : sz = 8 => by omega
        rw [mem_store h hs hop, ← hval]
        exact y.stored_slice w
      · have hval : y.storeVal w = (y.dr (dd / 2 * 2)).toNat + (y.dr (dd / 2 * 2 + 1)).toNat * 2 ^ 32 := if_pos h8
        have hslice := y.stored_slice w
        rw [show accSize w = 8 from h8, hval, leBytes_eight] at hslice
        rw [mem_store h hs hop]
        exact hslice
    · refine row _ _ _ rfl fun h hs hop => ⟨straight h hs (by omega), sends_of_slotA h ?_⟩
      have hv : s.afterSlots d w b = _ := Dsp.slotA_amov hop
      rw [hv, show (s.betweenSlots d b).amovVal w = y.amovVal w by simp only [Dsp.amovVal, hz.ar, hz.or, y]]
      exact Dsp.mem_pend_push ..
    · exact row _ _ _ rfl loop_row
    · exact row _ _ _ rfl fun h hs hop => (branch_row h hs).1 hop
    · exact row _ _ _ rfl fun h hs hop => (branch_row h hs).2.1 hop
    · exact row _ _ _ rfl fun h hs hop => (branch_row h hs).2.2.1 hop
    · exact row _ _ _ rfl fun h hs hop => (branch_row h hs).2.2.2 hop
    · exact row _ _ _ rfl fun h hs hop => ⟨straight h hs (by omega), dma_row h hs hop⟩
    · exact row _ _ _ rfl fun h hs hop => ⟨straight h hs (by omega), wait_row h hs hop⟩
    · exact row _ _ _ rfl fun h hs hop => ⟨straight h hs (by omega), sig_row h hop⟩
  · intro x y
    have row (h : BundleReady s d 0#32 b) : exec (.dspNop d 0#32 b) s = .next (s.dspBundle d 0#32 b) :=
      congrArg Host.Outcome.next (State.dspA_ready h (by decide))
    refine ⟨fun q h hq hl => ?_, fun w hw hb => ?_, fun q h hq hl => ?_, fun n hn h hb hend hleft hinner => ?_,
      fun w hr hh hl hf hw => ⟨fun hop => ?_, fun hop => ?_⟩⟩
    · exact ⟨_, row h, bundle_of_ready h, nop_first_delay h hq hl⟩
    · simp [Dsp.legal, hw, hb]
    · exact ⟨_, row h, bundle_of_ready h, nop_last_delay h hq hl⟩
    · exact ⟨_, row h, bundle_of_ready h, nop_loop_end h hn hb hend hleft hinner⟩
    · exact congrArg Host.Outcome.next (State.dspA_held hr hh hl hf hw hop)
    · exact congrArg Host.Outcome.next (State.dspA_held hr hh hl hf hw hop)
end

section
/-!
Events of the cores: interrupts, faults, transfers that end, DS_CTL, and the obligation on them.
-/
namespace Sys2Proof.Machine

/-! ### What the reload of a radio core touches -/

/-- Only the host interface, carriers and free values differ, and no carrier's count of reloads. -/
def PduOnly (s t : State) : Prop :=
  t = { s with host := t.host, carriers := t.carriers, freeCtr := t.freeCtr }
    ∧ ∀ k, (t.carrier k).health.dspReloads = (s.carrier k).health.dspReloads

namespace PduOnly

variable {s t u : State}

theorem refl (s : State) : PduOnly s s := ⟨rfl, fun _ => rfl⟩

theorem trans (h : PduOnly s t) (k : PduOnly t u) : PduOnly s u :=
  ⟨by rw [k.1, h.1], fun c => (k.2 c).trans (h.2 c)⟩

theorem foldl {α : Type} {f : State → α → State} (hf : ∀ s a, PduOnly s (f s a)) : ∀ (l : List α) (s : State), PduOnly s (l.foldl f s)
  | [], s => refl s
  | a :: l, s => (hf s a).trans (foldl hf l (f s a))

theorem of_hostOnly (h : HostOnly s t) : PduOnly s t := by
  unfold HostOnly at h
  rw [h]
  exact ⟨rfl, fun _ => rfl⟩

/-- A carrier changes, but not its count of reloads. -/
theorem modCarrier (s : State) (k : CarrierId) {f : Carrier → Carrier} (hf : ∀ x, (f x).health.dspReloads = x.health.dspReloads) :
    PduOnly s (s.modCarrier k f) := by
  refine ⟨rfl, fun c => ?_⟩
  by_cases h : c = k
  · subst h; rw [carrier_modCarrier, hf]
  · rw [carrier_modCarrier_ne s f h]

theorem drawMany (s : State) (n : Nat) : PduOnly s (s.drawMany n).2 := ⟨rfl, fun _ => rfl⟩

theorem slotMsg (s : State) (k : CarrierId) (typ : Nat) (st : Half) (p : List Byte) : PduOnly s (s.slotMsg k typ st p) := by
  unfold State.slotMsg
  split
  · exact refl s
  · exact of_hostOnly (State.notify_hostOnly ..)

theorem sendTb (s : State) (k : CarrierId) (slot : Word) (i : Nat) (p : Pdu) : PduOnly s (s.sendTb k slot i p) := by
  unfold State.sendTb
  extract_lets hdr
  split
  · exact foldl (fun s _ => slotMsg s ..) _ s
  · exact slotMsg ..

theorem reportStatus (s : State) (k : CarrierId) (slot : Word) (i : Nat) (p : Pdu) : PduOnly s (s.reportStatus k slot i p) := by
  unfold State.reportStatus
  split
  · exact slotMsg ..
  · exact slotMsg ..
  · exact slotMsg ..
  · exact sendTb ..

theorem rxState (s : State) (ref : Word) (old new cause pairs fl fc : Nat) : PduOnly s (s.rxState ref old new cause pairs fl fc) :=
  of_hostOnly (State.notifyT1_hostOnly ..)

theorem setRx (s : State) (k : CarrierId) (new : RxState) (cause : Nat) (ref : Word) (counts : Nat × Nat × Nat) : PduOnly s (s.setRx k new cause ref counts) :=
  (modCarrier s k (f := fun x => { x with rx := new }.newWindow) fun _ => rfl).trans (rxState ..)

theorem startSwap (s : State) (k : CarrierId) (m : Model) : PduOnly s (s.startSwap k m) :=
  modCarrier s k fun x => by split <;> rfl

theorem revert (s : State) (k : CarrierId) : PduOnly s (s.revert k) := by
  unfold State.revert
  simp only
  split
  · split
    · exact startSwap ..
    · exact refl s
  · exact refl s

theorem evalWindow (s : State) (k : CarrierId) (slot : Word) : PduOnly s (s.evalWindow k slot) := by
  have window : PduOnly s (s.modCarrier k fun x => x.newWindow) := modCarrier s k fun _ => rfl
  unfold State.evalWindow
  simp only
  split
  · exact refl s
  split
  · exact window.trans (rxState ..)
  · exact window
  · split
    · exact (setRx ..).trans (revert ..)
    · exact setRx ..
  · split
    · exact (setRx ..).trans (revert ..)
    · exact window

theorem countPair (s : State) (k : CarrierId) (slot : Word) (p : Pdu) : PduOnly s (s.countPair k slot p) := by
  unfold State.countPair
  split
  · exact refl s
  · refine trans ?_ (evalWindow ..)
    exact modCarrier s k fun _ => rfl

theorem flushFrom (k : CarrierId) (slot : Word) : ∀ (ps : List Pdu) (i : Nat) (go : Bool) (s : State), PduOnly s (flushFrom k slot i ps go s).2
  | [], _, _, s => refl s
  | p :: ps, i, go, s => by
    unfold Machine.flushFrom
    split
    · exact flushFrom k slot ps _ go s
    split
    · split
      · exact ((sendTb s ..).trans (countPair ..)).trans (flushFrom k slot ps _ go _)
      · exact flushFrom k slot ps _ false s
    split
    · exact (reportStatus s ..).trans (flushFrom k slot ps _ go _)
    · exact flushFrom k slot ps _ go s

theorem modUl (s : State) (k : CarrierId) (slot : Word) (f : Sched → Sched) : PduOnly s (s.modUl k slot f) := modCarrier s k fun _ => rfl
theorem modDl (s : State) (k : CarrierId) (slot : Word) (f : Sched → Sched) : PduOnly s (s.modDl k slot f) := modCarrier s k fun _ => rfl

theorem flushUl (s : State) (k : CarrierId) (slot : Word) : PduOnly s (s.flushUl k slot) := by
  unfold State.flushUl
  split
  · exact refl s
  · exact (flushFrom ..).trans (modUl ..)

/-- Missed deadlines are counted beside the reloads. -/
theorem dspReloads_miss (n : Nat) (h : CarHealth) : ((List.range n).foldl (fun h _ => h.miss) h).dspReloads = h.dspReloads := by
  have key (l : List Nat) : ∀ h : CarHealth, (l.foldl (fun h _ => h.miss) h).dspReloads = h.dspReloads := by
    induction l with
    | nil => exact fun _ => rfl
    | cons _ l ih => exact fun h => ih h.miss
  exact key _ h

/-- The work that a reloaded core held is reported; no core, memory or kernel changes (R339). -/
theorem dropDspWork (s : State) (k : CarrierId) : PduOnly s (s.dropDspWork k) := by
  have missed (s : State) (n : Nat) : PduOnly s (s.modCarrier k fun x => { x with health := (List.range n).foldl (fun h _ => h.miss) x.health }) :=
    modCarrier s k fun x => dspReloads_miss n x.health
  unfold State.dropDspWork
  refine (foldl (fun s q => ?_) _ s).trans (foldl (fun s q => ?_) _ _)
  · exact ((drawMany s _).trans (missed _ _)).trans ((modUl ..).trans (flushUl ..))
  · exact ((drawMany s _).trans (missed _ _)).trans (modDl ..)

end PduOnly

/-! ### Faults (R339) -/

/-- The halted core of a fault. -/
def Dsp.faulted (x : Dsp) (cause : Nat) : Dsp :=
  { x.cycle.drain with halted := true, cause := BitVec.ofNat 4 cause, fault := x.cycle.drain.pc, held := none, branch := none }

/-- One more reload of a core of the carrier. -/
def Carrier.reloaded (x : Carrier) : Carrier := { x with health := { x.health with dspReloads := satInc32 x.health.dspReloads } }

section
variable (s : State) (d : DspId) (cause : Nat)

theorem State.dspFault_open (hd : 12 ≤ d.val) :
    s.dspFault d cause = (s.setDsp d ((s.dsp d).faulted cause)).dspEvent d cause stDspFault (s.dsp d).cycle.pc.toNat 0 := by
  have ho : isOpenDsp d = true := decide_eq_true hd
  simp only [State.dspFault, ho, if_true, Dsp.faulted, Dsp.drain_pc]

/-- A radio core starts again; the carrier of its work counts a reload. -/
theorem State.dspFault_radio (hd : d.val < 12) : ∃ u, EventOnly (s.setDsp d ((s.dsp d).faulted cause)).draw.2 u
    ∧ s.dspFault d cause = ((u.modCarrier (Fin.ofNat 4 (d.val / 3)) Carrier.reloaded).modDsp d
        Dsp.start).dropDspWork (Fin.ofNat 4 (d.val / 3)) := by
  have ho : isOpenDsp d = false := decide_eq_false (Nat.not_le.mpr hd)
  refine ⟨(s.setDsp d ((s.dsp d).faulted cause)).draw.2.healthEvent ((Config.freeWord s.freeCtr).toNat % 256) stDspFault (leBytes 1 d.val),
    State.healthEvent_frame .., ?_⟩
  simp only [State.dspFault, ho, Bool.false_eq_true, if_false]
  rfl

theorem Dsp.faulted_fault (x : Dsp) : (x.faulted cause).fault = x.cycle.pc := by simp only [Dsp.faulted, Dsp.drain_pc]
theorem Dsp.faulted_mem (x : Dsp) : (x.faulted cause).mem = x.mem := by simp only [Dsp.faulted, Dsp.drain_mem, Dsp.cycle_mem]

theorem Dsp.faulted_pend (x : Dsp) : (x.faulted cause).pend = [] := by simp only [Dsp.faulted, Dsp.drain_pend]

/-- A fault of an open core halts it and is told to the host. -/
theorem fault_open (hd : 12 ≤ d.val) {t : State} (ht : s.dspFault d cause = t) :
    t = { s with dsps := t.dsps, host := t.host } ∧ (∀ e, e ≠ d → t.dsp e = s.dsp e) ∧ t.dsp d = (s.dsp d).faulted cause
      ∧ Notified s t 0x0A13 0x0509#16 (leBytes 4 (s.kernelId d) ++ leBytes 1 d.val ++ leBytes 1 cause ++ leBytes 2 0x0509
          ++ leBytes 4 (s.dsp d).cycle.pc.toNat ++ [0#8, 0#8, 0#8, 0#8]) hostPort := by
  have hn := notified_dspEvent (s := s) (u := s.setDsp d ((s.dsp d).faulted cause)) rfl rfl d cause stDspFault (s.dsp d).cycle.pc.toNat 0
  have hh := State.dspEvent_hostOnly (s.setDsp d ((s.dsp d).faulted cause)) d cause stDspFault (s.dsp d).cycle.pc.toNat 0
  rw [← State.dspFault_open s d cause hd, ht] at hn hh
  refine ⟨?_, fun e he => (hh.dsp_eq e).trans (dsp_setDsp_ne s _ he), (hh.dsp_eq d).trans (dsp_setDsp s d _), by simpa [leBytes, stDspFault] using hn⟩
  unfold HostOnly at hh
  rw [hh]
  rfl

/-- A fault of a radio core starts it again, and its carrier counts a reload. -/
theorem fault_radio (hd : d.val < 12) {t : State} (ht : s.dspFault d cause = t) :
    t.mem = s.mem ∧ t.kernels = s.kernels ∧ (∀ e, e ≠ d → t.dsp e = s.dsp e) ∧ t.dsp d = ((s.dsp d).faulted cause).start
      ∧ (t.carrier (Fin.ofNat 4 (d.val / 3))).health.dspReloads = satInc32 (s.carrier (Fin.ofNat 4 (d.val / 3))).health.dspReloads := by
  obtain ⟨u, hu, hv⟩ := State.dspFault_radio s d cause hd
  rw [ht] at hv
  obtain ⟨hp, hc⟩ := PduOnly.dropDspWork ((u.modCarrier (Fin.ofNat 4 (d.val / 3)) Carrier.reloaded).modDsp d
    Dsp.start) (Fin.ofNat 4 (d.val / 3))
  rw [← hv] at hp hc
  unfold EventOnly at hu
  have hdsp (e : DspId) : u.dsp e = (s.setDsp d ((s.dsp d).faulted cause)).dsp e := by rw [hu]; rfl
  have htd (e : DspId) : t.dsp e = (u.modDsp d Dsp.start).dsp e := by rw [hp]; rfl
  refine ⟨by rw [hp, hu]; rfl, by rw [hp, hu]; rfl, fun e he => ?_, ?_, ?_⟩
  · rw [htd, State.modDsp, dsp_setDsp_ne _ _ he, hdsp, dsp_setDsp_ne _ _ he]
  · rw [htd, State.modDsp, dsp_setDsp, hdsp, dsp_setDsp]
  · have hcar : u.carrier (Fin.ofNat 4 (d.val / 3)) = s.carrier (Fin.ofNat 4 (d.val / 3)) := by rw [hu]; rfl
    rw [hc, ← hcar]
    exact congrArg (fun x => x.health.dspReloads) (carrier_modCarrier u (Fin.ofNat 4 (d.val / 3)) Carrier.reloaded)

end

@[simp] theorem Dsp.start_mem (x : Dsp) : x.start.mem = x.mem := rfl
theorem Dsp.start_dr (x : Dsp) (i : Nat) : x.start.dr i = 0#32 := by simp [Dsp.start, Dsp.dr]

/-! ### Interrupt entry (R336, R337) -/

/-- Pending causes play no part in the writes that land. -/
theorem Dsp.land_ipend (x : Dsp) (w : DspPend) (v : BitVec 3) : ({ x with ipend := v } : Dsp).land w = { x.land w with ipend := v } := by
  unfold Dsp.land
  cases w.dest with
  | cr i =>
    simp only
    split <;> rfl
  | d | a | o | ac | acLow | flags => rfl

theorem Dsp.foldl_land_ipend (l : List DspPend) (v : BitVec 3) : ∀ x : Dsp, l.foldl Dsp.land { x with ipend := v } = { l.foldl Dsp.land x with ipend := v } := by
  induction l with
  | nil => exact fun _ => rfl
  | cons w l ih => exact fun x => (congrArg (l.foldl Dsp.land) (x.land_ipend w v)).trans (ih (x.land w))

theorem Dsp.cycle_setIpend (x : Dsp) (v : BitVec 3) : ({ x with ipend := v } : Dsp).cycle = { x.cycle with ipend := v } :=
  foldl_land_ipend _ v { x with pend := _ }

theorem Dsp.drain_setIpend (x : Dsp) (v : BitVec 3) : ({ x with ipend := v } : Dsp).drain = { x.drain with ipend := v } := by
  have key (l : List Nat) : ∀ x : Dsp, l.foldl (fun (x : Dsp) n => (x.pend.filter fun p => p.left == n + 1).foldl Dsp.land x) { x with ipend := v }
      = { l.foldl (fun (x : Dsp) n => (x.pend.filter fun p => p.left == n + 1).foldl Dsp.land x) x with ipend := v } := by
    induction l with
    | nil => exact fun _ => rfl
    | cons n l ih =>
      intro x
      simp only [List.foldl_cons]
      rw [foldl_land_ipend, ih]
  unfold Dsp.drain
  rw [key]

/-- The pending causes with the one of an entry raised: a DMA completion stays pending from its own row. -/
def Dsp.raised (x : Dsp) (n : Fin 3) : BitVec 3 := if n.val = 1 then x.ipend else x.ipend ||| (1#3 <<< n.val)

theorem Dsp.raised_bits (x : Dsp) (n : Fin 3) (hn : n = 1 → x.ipend.getLsbD 1 = true) :
    (x.raised n).getLsbD n.val = true ∧ ∀ i, i < n.val → (x.raised n).getLsbD i = x.ipend.getLsbD i := by
  have key : ∀ (p : BitVec 3) (n : Fin 3), (n = 1 → p.getLsbD 1 = true) →
      (if n.val = 1 then p else p ||| (1#3 <<< n.val)).getLsbD n.val = true
        ∧ ∀ i : Fin 3, i < n → (if n.val = 1 then p else p ||| (1#3 <<< n.val)).getLsbD i.val = p.getLsbD i.val := by decide
  obtain ⟨h1, h2⟩ := key x.ipend n hn
  exact ⟨h1, fun i hi => h2 ⟨i, by omega⟩ hi⟩

/-- The lowest pending and enabled cause is the one taken (R336). -/
theorem Dsp.takes_lowest {x : Dsp} {n : Fin 3} (hie : x.fl.getLsbD 5 = true) (hb : x.branch = none) (hsh : x.shadow = 0)
    (hn : x.ipend.getLsbD n.val = true ∧ (x.ctlReg 27).getLsbD n.val = true)
    (hlow : ∀ i, i < n.val → ¬ (x.ipend.getLsbD i = true ∧ (x.ctlReg 27).getLsbD i = true)) : x.takes = some n.val := by
  have hf : (List.range 3).find? (fun i => x.ipend.getLsbD i && (x.ctlReg 27).getLsbD i) = some n.val := by
    rw [List.find?_range_eq_some]
    refine ⟨by simpa using hn, List.mem_range.mpr n.isLt, fun i hi => ?_⟩
    have hno : (x.ipend.getLsbD i && (x.ctlReg 27).getLsbD i) = false :=
      Bool.eq_false_iff.mpr fun e => hlow i hi ((Bool.and_eq_true _ _).mp e)
    rw [hno, Bool.not_false]
  simp [Dsp.takes, hie, hb, hsh, hf]

/-- PC and FL are saved, and FL.ie is cleared. -/
def Dsp.saved (x : Dsp) : Dsp := ((x.setCtl 24 (x.pc.setWidth 32)).setCtl 25 x.fl).setCtl 0 (x.fl &&& 0xFFFFFFDF#32)

theorem Dsp.enter_eq {x y : Dsp} (hy : x.drain = y) (n : Nat) : x.enter n =
    { y.saved with ipend := y.ipend &&& ~~~(1#3 <<< n), held := none, pc := (y.saved.ctlReg 26).setWidth 17 + BitVec.ofNat 17 (64 * n) } := by
  have hfl : ((y.setCtl 24 (y.pc.setWidth 32)).setCtl 25 y.fl).fl = y.fl := by simp [Dsp.fl, Dsp.ctlReg_setCtl]
  unfold Dsp.enter
  simp only [hy, hfl]
  rfl

theorem Dsp.saved_regs (x : Dsp) : x.saved.ctlReg 24 = x.pc.setWidth 32 ∧ x.saved.ctlReg 25 = x.fl ∧ x.saved.fl = x.fl &&& 0xFFFFFFDF#32
    ∧ x.saved.ctlReg 26 = x.ctlReg 26 := by
  simp [Dsp.saved, Dsp.fl, Dsp.ctlReg_setCtl]

/-- What interrupt entry leaves, of a core whose pending writes have landed in `y`. -/
theorem Dsp.enter_regs {x y : Dsp} {v : BitVec 3} (hy : x.drain = { y with ipend := v }) (n : Nat) :
    (x.enter n).pend = y.pend ∧ (x.enter n).d = y.d ∧ (x.enter n).pc = (y.ctlReg 26).setWidth 17 + BitVec.ofNat 17 (64 * n)
      ∧ (x.enter n).ctlReg 24 = y.pc.setWidth 32 ∧ (x.enter n).ctlReg 25 = y.fl ∧ (x.enter n).fl = y.fl &&& 0xFFFFFFDF#32
      ∧ (x.enter n).ipend = v &&& ~~~(1#3 <<< n) ∧ (x.enter n).mem = y.mem := by
  obtain ⟨r24, r25, rfl', r26⟩ := ({ y with ipend := v } : Dsp).saved_regs
  rw [Dsp.enter_eq hy]
  exact ⟨rfl, rfl, congrArg (fun u : Word => u.setWidth 17 + BitVec.ofNat 17 (64 * n)) r26, r24, r25, rfl', rfl, rfl⟩

/-- An entry whose cause is the lowest pending and enabled one is taken. -/
theorem execInterruptEntry_taken {s : State} {d : DspId} {n : Fin 3} (hr : (s.dsp d).runs = true)
    (ht : ({ (s.dsp d).cycle with ipend := (s.dsp d).raised n } : Dsp).takes = some n.val) :
    execInterruptEntry d n s = .next (s.setDsp d (({ s.dsp d with ipend := (s.dsp d).raised n } : Dsp).enter n.val)) := by
  have hx : (if n.val = 1 then s.dsp d else { s.dsp d with ipend := (s.dsp d).ipend ||| (1#3 <<< n.val) }) = { s.dsp d with ipend := (s.dsp d).raised n } := by
    unfold Dsp.raised
    split <;> rfl
  have hc : ({ s.dsp d with ipend := (s.dsp d).raised n } : Dsp).cycle.takes = some n.val := (congrArg Dsp.takes (Dsp.cycle_setIpend _ _)).trans ht
  have hr' : ({ s.dsp d with ipend := (s.dsp d).raised n } : Dsp).runs = true := hr
  unfold execInterruptEntry
  simp only [hx, hc, hr', BEq.rfl, Bool.and_self, if_true]

/-! ### Transfers that end (R341) -/

/-- A channel whose transfer has ended sets its event and raises cause 1. -/
def Dsp.chanEnd (x : Dsp) (h : Nat) : Dsp := { x.setChan h { run := none, done := true } with ipend := x.ipend ||| 2#3 }

theorem Dsp.chanEnd_chan (x : Dsp) (h : Nat) : (x.chanEnd h).chan h = { run := none, done := true } :=
  (x.chan_setChan h h _).trans (if_pos rfl)

/-- The bytes of a transfer move (R341). -/
def State.dspTransfer (s : State) (d : DspId) (q : List Byte) : State :=
  if descOut q then s.windowWrite d q ((s.dsp d).mem.slice (fieldAt q 0 4 % 2 ^ 17) (descBytes q))
  else (s.windowRead d q).2.modDsp d fun x => { x with mem := x.mem.splice (fieldAt q 0 4 % 2 ^ 17) (s.windowRead d q).1 }

section
variable {s : State} {d : DspId} {h : Fin 4} {q : List Byte} {n : Nat} {m : Cells 8} {k : Kernel} {y : Dsp}

theorem Dsp.settleStop_eq_self {x : Dsp} (hx : x.stopping = false) : x.settleStop = x := if_neg (by simp [hx])

/-- On a core that is neither stopping nor held, the end of a transfer moves its bytes and marks its channel. -/
theorem execDspDmaComplete_eq (hq : ((s.dsp d).chan h.val).run = some q) (hst : (s.dsp d).stopping = false) (hy : (s.dspTransfer d q).dsp d = y)
    (hyh : y.held = none) (hys : y.stopping = false) : execDspDmaComplete d h s = .next ((s.dspTransfer d q).setDsp d (y.chanEnd h.val)) := by
  have hend : (s.dspTransfer d q).modDsp d (fun x => ({ x.setChan h.val { run := none, done := true } with ipend := x.ipend ||| 2#3 } : Dsp).settleStop)
      = (s.dspTransfer d q).setDsp d (y.chanEnd h.val) := by
    rw [State.modDsp, hy]
    exact congrArg _ (Dsp.settleStop_eq_self (x := y.chanEnd h.val) hys)
  have hheld : (((s.dspTransfer d q).setDsp d (y.chanEnd h.val)).dsp d).held = none := by rw [dsp_setDsp]; exact hyh
  unfold State.dspTransfer at hend hheld ⊢
  unfold execDspDmaComplete
  simp only [hq, hst, hend, hheld, Bool.false_eq_true, if_false]

theorem State.windowWrite_scratch (hk : s.kernelOf d = some k) (hw : k.windows[descWindow q]? = some (.scratch n m)) (v : List Byte) :
    s.windowWrite d q v = s.setWindow k.id (descWindow q) (.scratch n (m.splice (descOffset q) v)) := by
  simp only [State.windowWrite, hk, hw]

theorem State.windowRead_scratch (hk : s.kernelOf d = some k) (hw : k.windows[descWindow q]? = some (.scratch n m)) :
    s.windowRead d q = (m.slice (descOffset q) (descBytes q), s) := by
  simp only [State.windowRead, hk, Option.bind_some, hw]

/-- Reading the window of a kernel back after it was set. -/
theorem State.kernelOf_setWindow (hk : s.kernelOf d = some k) (i : Nat) (v : Window) :
    (s.setWindow k.id i v).kernelOf d = some { k with windows := k.windows.mapIdx fun j w => if j = i then v else w } := by
  have hcores (c : Kernel) : (if c.id == k.id then { c with windows := c.windows.mapIdx fun j w => if j = i then v else w } else c).cores = c.cores := by
    split <;> rfl
  unfold State.kernelOf at hk
  unfold State.setWindow State.kernelOf
  simp only [List.find?_map, Function.comp_def, hcores, hk, Option.map_some, BEq.rfl, if_true]

theorem State.window_setWindow {v w : Window} {i : Nat} (hk : s.kernelOf d = some k) (hw : k.windows[i]? = some w) :
    ∃ k', (s.setWindow k.id i v).kernelOf d = some k' ∧ k'.windows[i]? = some v :=
  ⟨_, State.kernelOf_setWindow hk i v, by simp [hw]⟩

/-- A transfer out writes the window, and the core's memory stays. -/
theorem dma_out (hq : ((s.dsp d).chan h.val).run = some q) (hh : (s.dsp d).held = none) (hst : (s.dsp d).stopping = false) (ho : descOut q = true)
    (hk : s.kernelOf d = some k) (hw : k.windows[descWindow q]? = some (.scratch n m)) :
    ∃ t, execDspDmaComplete d h s = .next t ∧ (∀ e, e ≠ d → t.dsp e = s.dsp e) ∧ t.dsp d = (s.dsp d).chanEnd h.val
      ∧ ∃ k' v, t.kernelOf d = some k' ∧ k'.windows[descWindow q]? = some (.scratch n v)
        ∧ v.slice (descOffset q) (descBytes q) = (s.dsp d).mem.slice (fieldAt q 0 4 % 2 ^ 17) (descBytes q) := by
  have ht : s.dspTransfer d q = s.setWindow k.id (descWindow q)
      (.scratch n (m.splice (descOffset q) ((s.dsp d).mem.slice (fieldAt q 0 4 % 2 ^ 17) (descBytes q)))) :=
    (if_pos ho).trans (State.windowWrite_scratch hk hw _)
  have hx (e : DspId) : (s.dspTransfer d q).dsp e = s.dsp e := by rw [ht]; rfl
  obtain ⟨k', hk', hw'⟩ := State.window_setWindow (v := .scratch n (m.splice (descOffset q) ((s.dsp d).mem.slice (fieldAt q 0 4 % 2 ^ 17) (descBytes q)))) hk hw
  have hs := m.slice_splice_same (descOffset q) ((s.dsp d).mem.slice (fieldAt q 0 4 % 2 ^ 17) (descBytes q))
  rw [Cells.length_slice] at hs
  rw [← ht] at hk'
  exact ⟨_, execDspDmaComplete_eq hq hst (hx d) hh hst, fun e he => (dsp_setDsp_ne _ _ he).trans (hx e), dsp_setDsp .., k', _, hk', hw', hs⟩

/-- A transfer in writes the core's memory, and the windows stay. -/
theorem dma_in (hq : ((s.dsp d).chan h.val).run = some q) (hh : (s.dsp d).held = none) (hst : (s.dsp d).stopping = false) (ho : descOut q = false)
    (hk : s.kernelOf d = some k) (hw : k.windows[descWindow q]? = some (.scratch n m)) :
    ∃ t, execDspDmaComplete d h s = .next t ∧ (∀ e, e ≠ d → t.dsp e = s.dsp e) ∧ t.kernels = s.kernels
      ∧ t.dsp d = Dsp.chanEnd { s.dsp d with mem := (s.dsp d).mem.splice (fieldAt q 0 4 % 2 ^ 17) (m.slice (descOffset q) (descBytes q)) } h.val := by
  have ht : s.dspTransfer d q = s.setDsp d { s.dsp d with mem := (s.dsp d).mem.splice (fieldAt q 0 4 % 2 ^ 17) (m.slice (descOffset q) (descBytes q)) } := by
    refine (if_neg (by simp [ho])).trans ?_
    rw [State.windowRead_scratch hk hw]
    rfl
  have hx : (s.dspTransfer d q).dsp d = { s.dsp d with mem := (s.dsp d).mem.splice (fieldAt q 0 4 % 2 ^ 17) (m.slice (descOffset q) (descBytes q)) } := by
    rw [ht, dsp_setDsp]
  refine ⟨_, execDspDmaComplete_eq hq hst hx hh hst, fun e he => ?_, by rw [ht]; rfl, dsp_setDsp ..⟩
  rw [dsp_setDsp_ne _ _ he, ht, dsp_setDsp_ne _ _ he]

end

/-! ### DS_CTL (R338, R340) -/

/-- The bit run is not among the reserved ones. -/
theorem run_writeCtl (v : Word) : (v &&& 0xE0FFFFFF#32).getLsbD 31 = v.getLsbD 31 := by simp

theorem Dsp.writeCtl_ctl (x : Dsp) (v : Word) : (x.writeCtl v).ctl = v &&& 0xE0FFFFFF#32 ∧ (x.writeCtl v).mem = x.mem := by
  unfold Dsp.writeCtl
  simp only
  split
  · exact ⟨rfl, rfl⟩
  · split
    · simp only [Dsp.drain_mem, and_self]
    · exact ⟨rfl, rfl⟩

theorem Dsp.writeCtl_start {x : Dsp} {v : Word} (hv : v.getLsbD 31 = true) (hx : x.ctl.getLsbD 31 = false) :
    x.writeCtl v = { mem := x.mem, ctl := v &&& 0xE0FFFFFF#32, halted := false } :=
  if_pos (by rw [run_writeCtl, hv, hx]; rfl)

theorem Dsp.writeCtl_stop {x : Dsp} {v : Word} (hv : v.getLsbD 31 = false) (hx : x.ctl.getLsbD 31 = true) :
    (x.writeCtl v).halted = true ∧ (x.writeCtl v).pend = [] ∧ (x.writeCtl v).d = x.drain.d := by
  have h : x.writeCtl v = { x.drain with ctl := v &&& 0xE0FFFFFF#32, halted := true, held := none, branch := none } :=
    (if_neg (by rw [run_writeCtl, hv]; exact Bool.false_ne_true)).trans (if_pos (by rw [run_writeCtl, hv, hx]; rfl))
  simp only [h, Dsp.drain_pend, and_self]

theorem Dsp.writeCtl_keeps {x : Dsp} {v : Word} (h : v.getLsbD 31 = x.ctl.getLsbD 31) : x.writeCtl v = { x with ctl := v &&& 0xE0FFFFFF#32 } :=
  (if_neg (by rw [run_writeCtl, h]; cases x.ctl.getLsbD 31 <;> decide)).trans (if_neg (by rw [run_writeCtl, h]; cases x.ctl.getLsbD 31 <;> decide))

/-! ### Rows that fault (R331, R335, R339, R341) -/

/-- A bundle that faults at issue faults the core. -/
theorem execDspFault_faults {s : State} {d : DspId} {a b : Word} {cause : Nat} (hr : (s.dsp d).runs = true) (hh : (s.dsp d).held = none)
    (hi : (s.dsp d).issue d.val (s.winOk d) a b 0#64 0#64 0#64 0#64 = .fault cause) : execDspFault d a b s = .next (s.dspFault d cause) := by
  simp [execDspFault, hr, hh, hi]

/-- The watchdog that runs out faults the core (R338). -/
theorem execWatchdog_faults {s : State} {d : DspId} (hr : (s.dsp d).runs = true) (hw : bitsOf (s.dsp d).ctl.toNat 0 24 ≠ 0) :
    execWatchdog d s = .next (s.dspFault d 4) := by
  simp [execWatchdog, hr, hw]

theorem Dsp.issue_illegal {x : Dsp} {core : Nat} {winOk : List Byte → Bool} {a b : Word} {f0 f1 f2 f3 : Dword} (h : x.cycle.legal a b = false) :
    x.issue core winOk a b f0 f1 f2 f3 = .fault 1 := by
  simp [Dsp.issue, h]

theorem Dsp.issue_faultA {x : Dsp} {core : Nat} {winOk : List Byte → Bool} {a b : Word} {f0 f1 f2 f3 : Dword} {cause : Nat} (h : x.cycle.legal a b = true)
    (hf : x.cycle.faultA winOk a = some cause) : x.issue core winOk a b f0 f1 f2 f3 = .fault cause := by
  simp [Dsp.issue, h, hf]

/-- A load or store faults on an address that is no multiple of its size. -/
theorem Dsp.faultA_misaligned {x : Dsp} {winOk : List Byte → Bool} {a : Word} (hop : opOf a = 1 ∨ opOf a = 2) (h : (x.address a 0#64).1 % accSize a ≠ 0) :
    x.faultA winOk a = some 2 := by
  rcases hop with hop | hop <;> simp [Dsp.faultA, hop, h]

/-- A DMA on a free channel faults on a malformed descriptor. -/
theorem Dsp.faultA_descriptor {x : Dsp} {winOk : List Byte → Bool} {a : Word} (hop : opOf a = 9) (hfree : x.holdA a = false) (h : dspDescOk (x.desc a) = false) :
    x.faultA winOk a = some 3 := by
  have hrun : (x.chan (fOf a 24 2)).run.isSome = false := by simpa only [Dsp.holdA, hop] using hfree
  unfold Dsp.desc at h
  simp [Dsp.faultA, hop, hrun, h]

end Sys2Proof.Machine

open Sys2Proof Sys2Proof.Machine

/-- Settles O55: an entry by the lowest pending cause, the two ways a fault goes (an open core halts, a radio core is loaded again),
a transfer into or out of the core, and the cases of a DS_CTL write. -/
theorem dspEvents : Obligations.DspEvents := by
  unfold Obligations.DspEvents
  intro s d x y others
  refine ⟨fun n hr hie hb hsh hen hp hlow => ?_, ?_, fun h q n m k hq hh hst hk hw _ => ?_, fun v => ?_⟩
  · obtain ⟨hbit, hsame⟩ := x.raised_bits n hp
    have htake := Dsp.takes_lowest (x := { y with ipend := x.raised n }) (n := n) hie ((Dsp.cycle_branch x).trans hb) ((Dsp.cycle_shadow x).trans hsh)
      ⟨hbit, hen⟩ fun i hi => by
        show ¬ ((x.raised n).getLsbD i = true ∧ _)
        rw [hsame i hi]; exact hlow i hi
    refine ⟨_, execInterruptEntry_taken hr htake, rfl, fun e he => dsp_setDsp_ne s _ he, ?_⟩
    have clears : ∀ (p : BitVec 3) (n : Fin 3), (p &&& ~~~(1#3 <<< n.val)).getLsbD n.val = false := by decide
    obtain ⟨hpend, hd, hpc, h24, h25, hfl, hip, hmem⟩ := Dsp.enter_regs (Dsp.drain_setIpend x (x.raised n)) n.val
    rw [Dsp.drain_pend] at hpend
    rw [Dsp.drain_pc] at h24
    rw [Dsp.drain_mem] at hmem
    rw [dsp_setDsp, hip]
    exact ⟨hpend, hd, hpc, h24, h25, hfl, clears _ n, hmem⟩
  · intro faults
    have row (i : Instr) (cause : Nat) (hi : exec i s = .next (s.dspFault d cause)) : faults i cause := by
      refine ⟨_, hi, ?_⟩
      generalize ht : s.dspFault d cause = t
      by_cases hd : 12 ≤ d.val
      · obtain ⟨hframe, hothers, hx, hn⟩ := fault_open s d cause hd ht
        refine ⟨by rw [hframe], by rw [hframe], fun _ => ⟨hframe, hothers, ?_⟩, fun e => absurd e (Nat.not_lt.mpr hd)⟩
        rw [hx, Dsp.faulted_fault, Dsp.faulted_pend, Dsp.faulted_mem]
        exact ⟨rfl, rfl, rfl, rfl, rfl, hn⟩
      · obtain ⟨hm, hk, hothers, hx, hc⟩ := fault_radio s d cause (Nat.not_le.mp hd) ht
        refine ⟨hm, hk, fun e => absurd e hd, fun _ => ⟨hothers, ?_⟩⟩
        rw [hx, Dsp.start_mem, Dsp.faulted_mem]
        exact ⟨rfl, rfl, rfl, rfl, Dsp.start_dr _, hc⟩
    clear_value faults
    refine ⟨fun a b hr hh => ⟨fun hl => ?_, fun hl hop ha => ?_, fun hl hop hfree hdesc => ?_⟩, fun hr hwd => ?_⟩
    · exact row _ _ (execDspFault_faults hr hh (Dsp.issue_illegal hl))
    · exact row _ _ (execDspFault_faults hr hh (Dsp.issue_faultA hl (Dsp.faultA_misaligned hop ha)))
    · exact row _ _ (execDspFault_faults hr hh (Dsp.issue_faultA hl (Dsp.faultA_descriptor hop hfree hdesc)))
    · exact row _ _ (execWatchdog_faults hr hwd)
  · cases ho : descOut q with
    | true =>
      obtain ⟨t, ht, hothers, hd, hwin⟩ := dma_out hq hh hst ho hk hw
      refine ⟨t, ht, hothers, ?_⟩
      rw [hd, Dsp.chanEnd_chan]
      exact ⟨rfl, rfl, by simp [Dsp.chanEnd], rfl, rfl, fun _ => ⟨rfl, hwin⟩, fun e => by cases e⟩
    | false =>
      obtain ⟨t, ht, hothers, hkern, hd⟩ := dma_in hq hh hst ho hk hw
      have hs := x.mem.slice_splice_same (fieldAt q 0 4 % 2 ^ 17) (m.slice (descOffset q) (descBytes q))
      rw [Cells.length_slice] at hs
      refine ⟨t, ht, hothers, ?_⟩
      rw [hd, Dsp.chanEnd_chan]
      exact ⟨rfl, rfl, by simp [Dsp.chanEnd], rfl, rfl, fun e => (by cases e), fun _ => ⟨hkern, hs⟩⟩
  · obtain ⟨hctl, hmem⟩ := x.writeCtl_ctl v
    refine ⟨s.setDsp d (x.writeCtl v), rfl, rfl, fun e he => dsp_setDsp_ne s _ he, ?_⟩
    rw [dsp_setDsp]
    exact ⟨hctl, hmem, Dsp.writeCtl_start, Dsp.writeCtl_stop, Dsp.writeCtl_keeps⟩
end
